-- ==== Sys2Proof/Word.lean ====
section
/-!
DEFINITION. The word types of the module and their plainest arithmetic (01 R13: little-endian, 32-bit registers).
-/
namespace Sys2Proof

/-- One byte of memory. -/
abbrev Byte := BitVec 8

/-- A 32-bit register, counter or store word. -/
abbrev Word := BitVec 32

/-- A 64-bit instruction word or a pair of registers. -/
abbrev Dword := BitVec 64

/-- Does the word have bit `i`? -/
def Word.bit (w : Word) (i : Nat) : Bool := w.getLsbD i

end Sys2Proof
end

