-- ==== Sys2Proof/Syntax.lean ====
section
/-!
DEFINITION. The commands the block takes: one constructor per row of the opcode table, with the row's operands.
Each constructor's comment opens with the row's mnemonic.
-/
namespace Sys2Proof

/-- A logical sett: die × 128 + number (01 R30). -/
abbrev Sett := Fin 256

/-- Predicate and signal fields of an engine command's word (05 Table 05-1). -/
structure Hdr where
  /-- PEN: predicate enable. -/
  pen : Bool
  /-- PCMP: the comparator. -/
  pcmp : BitVec 3
  /-- SEN: signal on completion. -/
  sen : Bool
  /-- SIGN: the signal counter. -/
  sign : BitVec 5
  deriving DecidableEq, Repr, Inhabited

/-- Who makes a register access (17 R400). -/
inductive Requester where
  | endA | endB | mgmt
  deriving DecidableEq, Repr, Inhabited

/-- A DMA channel: channel c of a sett, or a system channel (13 R317). -/
inductive Chan where
  | sett (u : Sett) (c : Fin 4)
  | sys (c : Fin 64)
  deriving DecidableEq, Repr

/-- The requester of a memory access or of a flit (07 R178): none the model tracks, burst i of a channel's last transfer on its
read or write side, the oldest command of a sett's stash engine (3) or KV walker (8), the oldest signal packet from sett `u` to sett
`v`, the running sub-command of a Holt, the plan loader, or the oldest Viaduct WRITE that has arrived whole. -/
inductive Victim where
  | none
  | chan (c : Chan) (i : BitVec 32) (rd : Bool)
  | engine (u : Sett) (e : BitVec 4) (k : BitVec 32)
  | tsig (u v : Sett)
  | holt (h : Fin 128) (a : BitVec 48)
  | loader
  | message
  deriving DecidableEq, Repr

/-- How a Holt sub-command ends: the address and status by which an access of it fails, if one does, and the lines of a CKIN whose first
fetch arrives wrong (08 R225, R226). -/
structure HoltEnd where
  flt : Option (BitVec 48 × BitVec 8)
  spoilt : List (BitVec 48)
  deriving DecidableEq, Repr

/-- The head of a work queue leaves it: the queue, and the status by which the memory of the source fails it, if it does (07 R186, R198,
R199). -/
structure WqMove where
  q : Fin 32
  flt : Option (BitVec 8)
  deriving DecidableEq, Repr

/-- A receiver of Trestle or Span flits (07 R198, 17 Table 17-10). -/
inductive LinkAt where
  | sett (u : Sett)
  | router (d : Fin 2) (col : BitVec 4) (row : BitVec 3)
  | spanBB (d : Fin 2)
  | spanBX (d : Fin 2)
  deriving DecidableEq, Repr

/-- How the tries of an HBM access ended (07 R199): all good, corrected by on-die ECC, the first n failed parity, the first n
found an error that on-die ECC cannot correct. -/
inductive HbmEnd where
  | clean
  | corrected
  | parity (n : Fin 5)
  | ecc (n : Fin 3)
  deriving DecidableEq, Repr

/-- A request datagram of an opcode (15 Table 15-2): epoch, sequence number, arguments, DATA; `ok`: no reserved bit set and the UDP
length is 64 + LEN; its source address, IPv6 or IPv4-mapped, and source port; its STATUS, ORIG and FLAGS. -/
structure Req where
  epoch : BitVec 16
  seq : BitVec 32
  addr : BitVec 48
  arg : BitVec 32
  data : List (BitVec 8)
  ok : Bool
  src : BitVec 128 := 0
  sport : BitVec 16 := 0
  status : BitVec 8 := 0
  orig : BitVec 8 := 0
  flags : BitVec 8 := 0
  deriving DecidableEq, Repr

/-- A MEM_READ or MEM_WRITE: the request, and the status by which the memory it reaches fails it, if it does (07 R186, R198, R199). -/
structure MemReq where
  req : Req
  flt : Option (BitVec 8)
  deriving DecidableEq, Repr

/-- What a received frame holds (15 R351, R352): addresses are IPv6 or IPv4-mapped. A command datagram gives its source and
destination, UDP port and header; a RoCEv2 packet its queue pair and whether it is marked CE. -/
inductive FrameKind where
  | arp (ip : BitVec 32)
  | neighbour (ip : BitVec 128)
  | echo (ip : BitVec 128) (payload : List (BitVec 8))
  | command (src dst : BitVec 128) (port : BitVec 16) (head : List (BitVec 8))
  | roce (q : BitVec 10) (ce : Bool)
  | other
  deriving DecidableEq, Repr

/-- A received Ethernet frame: check sequence, length in bytes, destination, priority of its tag, IP fragment, IPv4 option or
IPv6 extension header, Annex 31B PAUSE. -/
structure Frame where
  fcsOk : Bool
  len : BitVec 16
  dst : BitVec 48
  prio : Option (BitVec 3)
  fragment : Bool
  options : Bool
  pause : Bool
  kind : FrameKind
  deriving DecidableEq, Repr

/-- Readings of the temperature sensors in 1/16 °C (18 R424): by logical sett; hottest of each Brixore die's other sensors, of
each die's Thehan dies, of Xalor. -/
structure Temps where
  setts : List (BitVec 16)
  die : List (BitVec 16)
  thehan : List (BitVec 16)
  xalor : BitVec 16
  deriving DecidableEq, Repr

/-- TAP instructions (19 R438). -/
inductive JtagInstr where
  | extest | sample | preload | bypass | idcode | extestPulse | extestTrain
  | other (ir : BitVec 8)
  deriving DecidableEq, Repr

/-- The commands of the block. -/
inductive Instr where
  /-- NOP -/
  | nop (u : Sett)
  /-- HALT -/
  | halt (u : Sett)
  /-- LI -/
  | li (u : Sett) (d : BitVec 4) (imm : BitVec 32)
  /-- ALU -/
  | alu (u : Sett) (d a b fn : BitVec 4)
  /-- ALUI -/
  | alui (u : Sett) (d a : BitVec 4) (imm : BitVec 16) (fn : BitVec 4)
  /-- LDCT -/
  | ldct (u : Sett) (d bc : BitVec 4) (bz : Bool) (off : BitVec 20)
  /-- STCT -/
  | stct (u : Sett) (src bc : BitVec 4) (bz : Bool) (off : BitVec 20)
  /-- SETCMP -/
  | setcmp (u : Sett) (k : BitVec 3) (img : BitVec 32)
  /-- BR -/
  | br (u : Sett) (k : BitVec 3) (always : Bool) (tgt : BitVec 15)
  /-- LOOP -/
  | loop (u : Sett) (ci : Bool) (ctr : BitVec 4) (endIx : BitVec 15) (imm : BitVec 16)
  /-- WAITS -/
  | waits (u : Sett) (sg : BitVec 5) (peek cs : Bool) (ctr : BitVec 4) (amt : BitVec 16)
  /-- WAITS_SATISFIED -/
  | waitsSatisfied (u : Sett)
  /-- TAG -/
  | tag (u : Sett) (t : BitVec 16)
  /-- REGN -/
  | regn (u : Sett) (id : BitVec 10)
  /-- REND -/
  | rend (u : Sett) (id : BitVec 10)
  /-- REND_DRAIN_END -/
  | rendDrainEnd (u : Sett)
  /-- EVLOG -/
  | evlog (u : Sett) (code : BitVec 8) (lf : Bool) (layer : BitVec 16)
  /-- SETSTEP -/
  | setstep (u : Sett) (ctr : BitVec 4)
  /-- ENGINE_ABSENT: a word whose ENG is 10 to 15; `op` and `low` are its unchecked bits. -/
  | engineAbsent (u : Sett) (eng : BitVec 4) (op : BitVec 6) (h : Hdr) (low : BitVec 44)
  /-- INVALID_WORD_DECODE -/
  | invalidWordDecode (u : Sett) (w : BitVec 64)
  /-- QUEUE_FULL_STALL: `n` sett cycles of it. -/
  | queueFullStall (u : Sett) (eng : BitVec 4) (n : BitVec 32)
  /-- COMMAND_START: the command at the head of an engine's queue. -/
  | commandStart (u : Sett) (eng : BitVec 4)
  /-- COMMAND_COMPLETION: the oldest started command of an engine, of the vector engine the one whose fixed event comes first; `n` is the
  latency the engine took where it is variable. -/
  | commandCompletion (u : Sett) (eng : BitVec 4) (n : BitVec 32)
  /-- MMA -/
  | mma (u : Sett) (h : Hdr) (da db : BitVec 14) (tile : BitVec 6) (str res : Bool) (kc : BitVec 4)
  /-- CVT -/
  | cvt (u : Sett) (h : Hdr) (dd : BitVec 14) (mode : BitVec 2) (given : Bool) (tile : BitVec 6)
  /-- RLOAD -/
  | rload (u : Sett) (h : Hdr) (db : BitVec 14) (kc : BitVec 4)
  /-- RDROP -/
  | rdrop (u : Sett) (h : Hdr)
  /-- DISCARD -/
  | discard (u : Sett)
  /-- VADD -/
  | vadd (u : Sett) (h : Hdr) (strict : Bool) (dd ds1 ds2 : BitVec 14) (given : Bool)
  /-- VSUB -/
  | vsub (u : Sett) (h : Hdr) (strict : Bool) (dd ds1 ds2 : BitVec 14) (given : Bool)
  /-- VMUL -/
  | vmul (u : Sett) (h : Hdr) (strict : Bool) (dd ds1 ds2 : BitVec 14) (given : Bool)
  /-- VFMA -/
  | vfma (u : Sett) (h : Hdr) (strict : Bool) (dd ds1 ds2 : BitVec 14) (given : Bool)
  /-- VMAX -/
  | vmax (u : Sett) (h : Hdr) (strict : Bool) (dd ds1 ds2 : BitVec 14) (given : Bool)
  /-- VMIN -/
  | vmin (u : Sett) (h : Hdr) (strict : Bool) (dd ds1 ds2 : BitVec 14) (given : Bool)
  /-- VABS -/
  | vabs (u : Sett) (h : Hdr) (strict : Bool) (dd ds1 : BitVec 14) (given : Bool)
  /-- VNEG -/
  | vneg (u : Sett) (h : Hdr) (strict : Bool) (dd ds1 : BitVec 14) (given : Bool)
  /-- VCPY -/
  | vcpy (u : Sett) (h : Hdr) (strict : Bool) (dd ds1 : BitVec 14) (given : Bool)
  /-- VFN -/
  | vfn (u : Sett) (h : Hdr) (strict : Bool) (dd ds1 : BitVec 14) (tab : BitVec 6) (given : Bool)
  /-- VDFN -/
  | vdfn (u : Sett) (h : Hdr) (strict : Bool) (dd ds1 : BitVec 14) (tab : BitVec 6) (given : Bool)
  /-- VRSUM -/
  | vrsum (u : Sett) (h : Hdr) (strict : Bool) (dd ds1 : BitVec 14) (given : Bool)
  /-- VRMAX -/
  | vrmax (u : Sett) (h : Hdr) (strict : Bool) (dd ds1 : BitVec 14) (given : Bool)
  /-- VRSSQ -/
  | vrssq (u : Sett) (h : Hdr) (strict : Bool) (dd ds1 : BitVec 14) (given : Bool)
  /-- VAMAX -/
  | vamax (u : Sett) (h : Hdr) (strict : Bool) (dd ds1 : BitVec 14) (given : Bool)
  /-- VDIV -/
  | vdiv (u : Sett) (h : Hdr) (strict : Bool) (dd ds1 ds2 : BitVec 14) (given : Bool)
  /-- VSQRT -/
  | vsqrt (u : Sett) (h : Hdr) (strict : Bool) (dd ds1 : BitVec 14) (given : Bool)
  /-- VRECIPE_DELAYED -/
  | vrecipeDelayed (u : Sett) (h : Hdr) (strict : Bool) (dd ds1 : BitVec 14) (given : Bool)
  /-- VRECIPE_CURRENT -/
  | vrecipeCurrent (u : Sett) (h : Hdr) (strict : Bool) (dd ds1 : BitVec 14) (given : Bool)
  /-- VRECIPE_CHECK -/
  | vrecipeCheck (u : Sett) (h : Hdr) (strict : Bool) (dd ds1 : BitVec 14) (given : Bool)
  /-- VRECIPE_LOSS -/
  | vrecipeLoss (u : Sett) (h : Hdr) (strict : Bool) (dd ds1 : BitVec 14) (given : Bool)
  /-- STASH -/
  | stash (u : Sett) (h : Hdr) (ds : BitVec 14) (entry : BitVec 16) (codec : BitVec 2)
  /-- STASH_PLACEMENT: the memory work of the oldest stash command not yet placed; a fault of that work, or none. -/
  | stashPlacement (u : Sett) (flt : Option (BitVec 8))
  /-- UNSTASH -/
  | unstash (u : Sett) (h : Hdr) (dd : BitVec 14) (entry : BitVec 16)
  /-- SFREE -/
  | sfree (u : Sett) (h : Hdr) (entry : BitVec 16)
  /-- DSTART -/
  | dstart (u : Sett) (c : Fin 4) (h : Hdr) (prog : BitVec 19) (pe : Bool) (pc : BitVec 4)
  /-- KVMAP -/
  | kvmap (u : Sett) (h : Hdr) (sqc tc nc : BitVec 4) (dl : BitVec 14) (pin : Bool)
  /-- KVAPPEND -/
  | kvappend (u : Sett) (h : Hdr) (sqc tc nc : BitVec 4) (dl : BitVec 14)
  /-- KVUNPIN -/
  | kvunpin (u : Sett) (h : Hdr) (dl : BitVec 14)
  /-- KVCOW -/
  | kvcow (u : Sett) (h : Hdr) (sqc tc : BitVec 4)
  /-- KVFREE -/
  | kvfree (u : Sett) (h : Hdr) (sqc tc nc : BitVec 4)
  /-- KVSHARE -/
  | kvshare (u : Sett) (h : Hdr) (sqc nc ssc : BitVec 4)
  /-- KV_PAGE_MOVE_DONE: the move of page `page`; a fault of the move, or none. -/
  | kvPageMoveDone (page : BitVec 28) (flt : Option (BitVec 8))
  /-- TSIG -/
  | tsig (u : Sett) (h : Hdr) (die : Bool) (sett : BitVec 7) (mg : BitVec 6) (tsg : BitVec 5) (inc : BitVec 16)
  /-- TRESTLE_SIGNAL_PACKET -/
  | trestleSignalPacket (u : Sett) (sg : BitVec 5) (inc : BitVec 16)
  /-- HCMD -/
  | hcmd (u : Sett) (h : Hdr) (dh : BitVec 14)
  /-- NORM: dispatch of the oldest waiting block of its OP. -/
  | norm
  /-- UPDATE -/
  | update
  /-- GRADSUM -/
  | gradsum
  /-- COPY -/
  | copy
  /-- REDUCE -/
  | reduce
  /-- FILL -/
  | fill
  /-- BOXG -/
  | boxg
  /-- CKOUT -/
  | ckout
  /-- CKIN -/
  | ckin
  /-- SCOMP -/
  | scomp
  /-- HOLT_COMPLETION_STEP -/
  | holtCompletionStep
  /-- MULTICAST_DELIVERY: the oldest copy of channel c of sett u on its way to member m; `fail` is the burst of it that fails for
  good on its link, if one does. -/
  | multicastDelivery (u : Sett) (c : Fin 4) (m : Sett) (fail : Option (BitVec 32))
  /-- PARITY_REREAD_DONE: `ok` says a re-sent flit was good, `n` the frozen cycles the attempt took. -/
  | parityRereadDone (u : Sett) (ok : Bool) (n : BitVec 32)
  /-- CLEAN_LINE_REFETCH_DONE: `ok` says the HBM read gave data. -/
  | cleanLineRefetchDone (u : Sett) (ok : Bool) (n : BitVec 32)
  /-- REFETCH_TIMEOUT -/
  | refetchTimeout (u : Sett)
  /-- LINK_FLIT_RECEIVED: `fails` tries fail their parity; the transfer the flit belongs to. -/
  | linkFlitReceived (l : LinkAt) (fails : Fin 5) (v : Victim)
  /-- HBM_ACCESS_COMPLETE: physical address, direction, whether on the Holt path, how its tries ended, its requester. -/
  | hbmAccessComplete (a : BitVec 48) (wr holt : Bool) (h : HbmEnd) (v : Victim)
  /-- BURROW_ACCESS_COMPLETE: `ce` says the link ECC corrected it, `fails` how many tries failed. -/
  | burrowAccessComplete (a : BitVec 48) (wr ce : Bool) (fails : Fin 5) (v : Victim)
  /-- HBM_REFRESH -/
  | hbmRefresh (die : Fin 2) (ctl : BitVec 2)
  /-- WATCHDOG_EXPIRY -/
  | watchdogExpiry (u : Sett)
  /-- COUNT_BREAK -/
  | countBreak (u : Sett)
  /-- GO -/
  | go (u : Sett)
  /-- BREAK -/
  | break (u : Sett)
  /-- RESUME -/
  | resume (u : Sett)
  /-- STEP -/
  | step (u : Sett)
  /-- ABORT -/
  | abort (u : Sett)
  /-- MOVE: the four words as fetched. -/
  | move (c : Chan) (w0 w1 w2 w3 : BitVec 64)
  /-- LMOVE -/
  | lmove (c : Chan) (w0 w1 w2 w3 : BitVec 64)
  /-- DMA_LOOP -/
  | dmaLoop (c : Chan) (w : BitVec 64)
  /-- ENDLOOP -/
  | endloop (c : Chan) (w : BitVec 64)
  /-- DMA_WAIT -/
  | dmaWait (c : Chan) (w : BitVec 64)
  /-- DMA_WAIT_SATISFIED -/
  | dmaWaitSatisfied (c : Chan)
  /-- SIGNAL -/
  | signal (c : Chan) (w : BitVec 64)
  /-- DMA_HALT -/
  | dmaHalt (c : Chan) (w : BitVec 64)
  /-- DMA_FENCE_DONE -/
  | dmaFenceDone (c : Chan)
  /-- BURST_BUS_ERR: burst i of the channel's last transfer, on its read or its write side. -/
  | burstBusErr (c : Chan) (i : BitVec 32) (readSide : Bool)
  /-- DMA_CHANNEL_START -/
  | dmaChannelStart (c : Fin 64) (r : Requester)
  /-- DMA_CHANNEL_ABORT -/
  | dmaChannelAbort (c : Chan)
  /-- DMA_ABORT_DRAINED: the first `kept` bursts of the last transfer moved. -/
  | dmaAbortDrained (c : Chan) (kept : BitVec 32)
  /-- TR_GT_INV -/
  | trGtInv (d : Fin 2) (all : Bool) (g : BitVec 21)
  /-- GT_INV_DRAINED -/
  | gtInvDrained (d : Fin 2)
  /-- SE_POOL_INIT -/
  | sePoolInit (d : Fin 2) (p : Fin 3)
  /-- MINCLR -/
  | minclr (d : Fin 2) (p : Fin 3)
  /-- KV_INIT -/
  | kvInit
  /-- LABINV -/
  | labinv (u : Sett)
  /-- RX_FRAME -/
  | rxFrame (p : Fin 2) (f : Frame)
  /-- PFC_FRAME_RECEIVED: priorities it enables and their quanta. -/
  | pfcFrameReceived (en : BitVec 8) (q : List (BitVec 16))
  /-- PFC_PAUSE_EXPIRY -/
  | pfcPauseExpiry (p : Fin 8)
  /-- PFC_XOFF_REPEAT -/
  | pfcXoffRepeat (p : Fin 8)
  /-- RDMA_WRITE_INBOUND -/
  | rdmaWriteInbound (q : BitVec 10) (rkey : BitVec 32) (va : BitVec 64) (data : List (BitVec 8))
  /-- RDMA_READ_INBOUND -/
  | rdmaReadInbound (q : BitVec 10) (rkey : BitVec 32) (va : BitVec 64) (n : BitVec 32)
  /-- SEND_INBOUND -/
  | sendInbound (q : BitVec 10) (data : List (BitVec 8))
  /-- ROCE_ACK_RECEIVED: acknowledgement, read response with its data, or fatal NAK, for the oldest access of a queue pair. -/
  | roceAckReceived (q : BitVec 10) (nak : Bool) (data : List (BitVec 8))
  /-- QP_ACK_TIMEOUT -/
  | qpAckTimeout (q : BitVec 10)
  /-- CNP_RECEIVED -/
  | cnpReceived (q : BitVec 10)
  /-- RATE_RECOVERY -/
  | rateRecovery (q : BitVec 10)
  /-- SM_SEM_READ -/
  | smSemRead (n : Fin 32) (r : Requester)
  /-- SM_SEM_WRITE -/
  | smSemWrite (n : Fin 32) (r : Requester) (v : BitVec 32)
  /-- SM_FORCE -/
  | smForce (n : Fin 32)
  /-- INJ_GLOBAL_ALLOW -/
  | injGlobalAllow (v : Bool)
  /-- SUPPLY_WARNING -/
  | supplyWarning
  /-- SUPPLY_WARNING_CLEAR -/
  | supplyWarningClear
  /-- SUPPLY_RESET -/
  | supplyReset
  /-- OVER_VOLTAGE_RESET -/
  | overVoltageReset
  /-- MEMORY_HOLD_LOSS -/
  | memoryHoldLoss
  /-- POWER_ON_RESET -/
  | powerOnReset
  /-- RESET_N: held low for at least 1 µs, or released. -/
  | resetN (low : Bool)
  /-- RESET_RELEASE -/
  | resetRelease
  /-- PM_RST_CTL -/
  | pmRstCtl (key : BitVec 16)
  /-- SOFTWARE_RESET -/
  | softwareReset
  /-- POWER_MEASUREMENT: input power in W, input voltage in 10 mV. -/
  | powerMeasurement (w vin : BitVec 16)
  /-- POWER_LOOP_TICK: average power of the tick in W, sensor readings. -/
  | powerLoopTick (avg : BitVec 16) (t : Temps)
  /-- THERMAL_TRIP -/
  | thermalTrip
  /-- RAIL_SETTLED -/
  | railSettled (d : Fin 2)
  /-- WAITSUP -/
  | waitsup
  /-- VERIFY: flash read errors of slots A and B. -/
  | verify (errA errB : Bool)
  /-- SC_CTL_BOOT -/
  | scCtlBoot
  /-- SC_CTL_UNLOCK -/
  | scCtlUnlock
  /-- SC_RB_BUMP -/
  | scRbBump (r : Requester) (k : Fin 4) (key : BitVec 16)
  /-- SC_EXT_CTL -/
  | scExtCtl (r : Requester) (t : BitVec 16)
  /-- JTAG_INSTRUCTION -/
  | jtagInstruction (i : JtagInstr)
  /-- THERMAL_LIMIT -/
  | thermalLimit (d : Fin 2)
  /-- COUNTER_ADVANCE_DONE -/
  | counterAdvanceDone
  /-- SE_POOL_INIT_DONE -/
  | sePoolInitDone (d : Fin 2) (p : Fin 3)
  /-- KV_INIT_DONE -/
  | kvInitDone
  /-- HOLT_SUB_COMMAND_END: the running sub-command of Holt h; a failing address and its status, or none. -/
  | holtSubCommandEnd (h : Fin 128) (x : HoltEnd)
  /-- ETHERNET_LINK_UP: a port's link comes up, or is lost. -/
  | ethernetLinkUp (p : Fin 2) (up : Bool)
  /-- RX_BUFFER_OCCUPANCY_FALL -/
  | rxBufferOccupancyFall (p : Fin 8) (occ : BitVec 13)
  /-- VIADUCT_FLIT_RECEIVED: its 256 bytes. -/
  | viaductFlitReceived (p : Fin 8) (bytes : List (BitVec 8))
  /-- VIADUCT_PORT_TRAIN: lanes named failed in each direction, and the peer's credits. -/
  | viaductPortTrain (p : Fin 8) (tx rx : List (Fin 17)) (c0 c1 c2 : BitVec 11)
  /-- VIADUCT_PORT_DOWN -/
  | viaductPortDown (p : Fin 8)
  /-- WQ_TAIL_POLL -/
  | wqTailPoll (q : Fin 32)
  /-- WRITE -/
  | write (m : WqMove)
  /-- CONTRIB -/
  | contrib (m : WqMove)
  /-- ARM -/
  | arm (q : Fin 32)
  /-- WRITE_RECEIVED -/
  | writeReceived
  /-- WQ_ENTRY_COMPLETE: entry k of a queue, with the status its COMPL carries. -/
  | wqEntryComplete (q : Fin 32) (k : BitVec 32) (status : BitVec 8)
  /-- CONTRIB_OPEN -/
  | contribOpen
  /-- CONTRIB_COMPLETE -/
  | contribComplete
  /-- GATE_DEADLINE -/
  | gateDeadline (g : Fin 64)
  /-- GATE_GRACE_LIMIT -/
  | gateGraceLimit (g : Fin 64)
  /-- GATE_REDUCTION_DONE: a Holt fault of the reduction, or none. -/
  | gateReductionDone (g : Fin 64) (flt : Option (BitVec 8))
  /-- IN_SUB_TAIL -/
  | inSubTail (v : BitVec 32)
  /-- SAMPLE_DISPATCH -/
  | sampleDispatch
  /-- SAMPLE_COMPLETE: core c; the bytes that arrived of a stream in a remote window, a fault of reading it, a fault of writing the
  staging slot. -/
  | sampleComplete (c : Fin 8) (far : List (BitVec 8)) (flt wflt : Option (BitVec 8))
  /-- SLOT_COPY_DONE -/
  | slotCopyDone (c : Fin 8) (flt : Option (BitVec 8))
  /-- FLUSH -/
  | flush
  /-- BATCH_CLOSE -/
  | batchClose (flt : Option (BitVec 8))
  /-- CONS_POLL -/
  | consPoll
  /-- INTAKE_EN -/
  | intakeEn (en : Bool)
  /-- CT_NOP -/
  | ctNop (ep : Fin 2) (q : Req)
  /-- REG_READ -/
  | regRead (ep : Fin 2) (q : Req)
  /-- REG_WRITE -/
  | regWrite (ep : Fin 2) (q : Req)
  /-- MEM_READ -/
  | memRead (ep : Fin 2) (q : MemReq)
  /-- MEM_WRITE -/
  | memWrite (ep : Fin 2) (q : MemReq)
  /-- LOAD_PLAN -/
  | loadPlan (ep : Fin 2) (q : Req)
  /-- LOADER_RUN -/
  | loaderRun
  /-- HOLT -/
  | holt (r : Requester) (q : Req)
  /-- DMA_START -/
  | dmaStart (ep : Fin 2) (q : Req)
  /-- ATTEST -/
  | attest (ep : Fin 2) (q : Req)
  /-- ATTEST_REPORT_DONE -/
  | attestReportDone
  /-- QP_MODIFY -/
  | qpModify (ep : Fin 2) (q : Req)
  /-- QP_QUERY -/
  | qpQuery (ep : Fin 2) (q : Req)
  /-- NOTIFY_SET -/
  | notifySet (ep : Fin 2) (q : Req)
  /-- RESULT_READ -/
  | resultRead (ep : Fin 2) (q : Req)
  /-- RETIRE -/
  | retire (ep : Fin 2) (q : Req)
  /-- RESYNC -/
  | resync (ep : Fin 2) (q : Req)
  /-- IMMEDIATE_DEFERRAL: of the register or memory command of sequence number `seq`. -/
  | immediateDeferral (ep : Fin 2) (seq : BitVec 32)
  /-- EVENT_RECORD_ARRIVAL -/
  | eventRecordArrival (src : BitVec 16)
  /-- EVENT_RECORD_WRITTEN -/
  | eventRecordWritten (ok : Bool)
  /-- REGISTER_WRITE: one word at any register address. -/
  | registerWrite (r : Requester) (a : BitVec 48) (v : BitVec 32)
  /-- ALIAS_SET: `a` is the register's own address. -/
  | aliasSet (r : Requester) (a : BitVec 48) (v : BitVec 32)
  /-- ALIAS_CLEAR -/
  | aliasClear (r : Requester) (a : BitVec 48) (v : BitVec 32)
  /-- ALIAS_TOGGLE -/
  | aliasToggle (r : Requester) (a : BitVec 48) (v : BitVec 32)
  /-- REGISTER_ACCESS_ACCEPTED -/
  | registerAccessAccepted (r : Requester)
  /-- REGISTER_ACCESS_TIMEOUT -/
  | registerAccessTimeout (r : Requester)
  /-- PM_STB_FIRE: bit g fires group g. -/
  | pmStbFire (m : BitVec 64)
  /-- HELD_STROBE_FIRE -/
  | heldStrobeFire (g : Fin 64)
  /-- CONFIG_SCRUB: the block at a register address; upsets of stored parity in it, by unit offset and copy. -/
  | configScrub (a : BitVec 48) (ups : List (BitVec 14 × Bool))
  /-- FT_CFGP_CLR -/
  | ftCfgpClr (u : Sett)
  /-- INJ_CTL: the write of `v` to INJ_CTL of point p of the injection block at a register address. -/
  | injCtl (a : BitVec 48) (p : Fin 32) (v : BitVec 32)
  deriving DecidableEq, Repr

end Sys2Proof
end

