-- ==== Sys2Proof/WellFormed.lean ====
section
/-!
DEFINITION. Field values the spec reserves in a sett instruction word (05 R133, R146, R147, R155, Tables 05-2 to 05-7; 04 Table 04-11).
A command that is no instruction word has operands of exactly the widths the spec gives, so nothing else is ill-formed.
-/
namespace Sys2Proof

/-- No operand of the command holds a reserved value. -/
def Instr.wf : Instr → Bool
  | .alu _ _ _ _ fn => decide (fn.toNat ≤ 10)
  | .alui _ _ _ _ fn => decide (fn.toNat ≤ 10)
  | .setcmp _ _ img => img &&& 0x000000F0#32 == 0#32
  | .waits _ _ _ cs _ amt => cs || amt != 0#16
  | .evlog _ code _ _ => decide (code.toNat < 16)
  | .cvt _ _ _ mode _ _ => mode != 3#2
  | .tsig _ _ die sett mg _ inc => inc != 0#16 && (mg == 0#6 || (!die && sett == 0#7))
  | .engineAbsent _ eng _ _ _ => decide (10 ≤ eng.toNat)
  | _ => true

end Sys2Proof
end

