-- ==== Sys2Proof/Decode.lean ====
section
/-!
DEFINITION. Sett instruction words: encoder and decoder (05 R132 to R137, Tables 05-1 to 05-7), and the decoder the host
asks for. No row of the opcode table gives bits, so the host's decoder spells no command.
-/
namespace Sys2Proof

/-- A field placed at bit `lo` of a word. -/
def putF {n : Nat} (v : BitVec n) (lo : Nat) : BitVec 64 := v.setWidth 64 <<< lo

/-- A flag placed at bit `lo`. -/
def putB (b : Bool) (lo : Nat) : BitVec 64 := putF (BitVec.ofBool b) lo

/-- ENG and OP of a word. -/
def opWord (eng : BitVec 4) (op : BitVec 6) : BitVec 64 := putF eng 60 ||| putF op 54

/-- ENG, OP, predicate and signal fields of an engine command's word (05 Table 05-1). -/
def hdrWord (eng : BitVec 4) (op : BitVec 6) (h : Hdr) : BitVec 64 :=
  opWord eng op ||| putB h.pen 53 ||| putF h.pcmp 50 ||| putB h.sen 49 ||| putF h.sign 44

/-- The common fields of a vector word (05 Vector-engine instructions): OP[5] is STRICT, OP[4:0] the function. -/
def vecWord (fn : BitVec 5) (h : Hdr) (strict : Bool) (dd ds1 : BitVec 14) (given : Bool) : BitVec 64 :=
  hdrWord 2 (BitVec.ofBool strict ++ fn) h ||| putF dd 30 ||| putF ds1 16 ||| putB given 1

/-- The instruction word of a command; none for a command that is no instruction. -/
def encodeWord : Instr → Option (BitVec 64)
  | .nop _ => some (opWord 0 0x00)
  | .halt _ => some (opWord 0 0x01)
  | .li _ d imm => some (opWord 0 0x02 ||| putF d 40 ||| putF imm 0)
  | .alu _ d a b fn => some (opWord 0 0x03 ||| putF d 40 ||| putF a 36 ||| putF b 32 ||| putF fn 0)
  | .alui _ d a imm fn => some (opWord 0 0x04 ||| putF d 40 ||| putF a 36 ||| putF imm 16 ||| putF fn 0)
  | .ldct _ d bc bz off => some (opWord 0 0x05 ||| putF d 40 ||| putF bc 36 ||| putB bz 35 ||| putF off 0)
  | .stct _ r bc bz off => some (opWord 0 0x06 ||| putF r 40 ||| putF bc 36 ||| putB bz 35 ||| putF off 0)
  | .setcmp _ k img => some (opWord 0 0x07 ||| putF k 41 ||| putF img 0)
  | .br _ k always tgt => some (opWord 0 0x08 ||| putF k 41 ||| putB always 40 ||| putF tgt 0)
  | .loop _ ci ctr e imm => some (opWord 0 0x09 ||| putB ci 43 ||| putF ctr 39 ||| putF e 24 ||| putF imm 0)
  | .waits _ sg peek cs ctr amt =>
    some (opWord 0 0x0A ||| putF sg 39 ||| putB peek 38 ||| putB cs 37 ||| putF ctr 33 ||| putF amt 0)
  | .tag _ t => some (opWord 0 0x0B ||| putF t 0)
  | .regn _ id => some (opWord 0 0x0C ||| putF id 0)
  | .rend _ id => some (opWord 0 0x0D ||| putF id 0)
  | .evlog _ code lf layer => some (opWord 0 0x0E ||| putF code 36 ||| putB lf 35 ||| putF layer 0)
  | .setstep _ ctr => some (opWord 0 0x0F ||| putF ctr 40)
  | .mma _ h da db tile str res kc =>
    some (hdrWord 1 0x00 h ||| putF da 30 ||| putF db 16 ||| putF tile 10 ||| putB str 9 ||| putB res 8 ||| putF kc 4)
  | .cvt _ h dd mode given tile =>
    some (hdrWord 1 0x01 h ||| putF dd 30 ||| putF mode 28 ||| putB given 27 ||| putF tile 10)
  | .rload _ h db kc => some (hdrWord 1 0x02 h ||| putF db 16 ||| putF kc 4)
  | .rdrop _ h => some (hdrWord 1 0x03 h)
  | .vadd _ h st dd a b g => some (vecWord 0 h st dd a g ||| putF b 2)
  | .vsub _ h st dd a b g => some (vecWord 1 h st dd a g ||| putF b 2)
  | .vmul _ h st dd a b g => some (vecWord 2 h st dd a g ||| putF b 2)
  | .vfma _ h st dd a b g => some (vecWord 3 h st dd a g ||| putF b 2)
  | .vmax _ h st dd a b g => some (vecWord 4 h st dd a g ||| putF b 2)
  | .vmin _ h st dd a b g => some (vecWord 5 h st dd a g ||| putF b 2)
  | .vdiv _ h st dd a b g => some (vecWord 15 h st dd a g ||| putF b 2)
  | .vabs _ h st dd a g => some (vecWord 6 h st dd a g)
  | .vneg _ h st dd a g => some (vecWord 7 h st dd a g)
  | .vcpy _ h st dd a g => some (vecWord 8 h st dd a g)
  | .vrsum _ h st dd a g => some (vecWord 11 h st dd a g)
  | .vrmax _ h st dd a g => some (vecWord 12 h st dd a g)
  | .vrssq _ h st dd a g => some (vecWord 13 h st dd a g)
  | .vamax _ h st dd a g => some (vecWord 14 h st dd a g)
  | .vsqrt _ h st dd a g => some (vecWord 16 h st dd a g)
  | .vfn _ h st dd a t g => some (vecWord 9 h st dd a g ||| putF t 10)
  | .vdfn _ h st dd a t g => some (vecWord 10 h st dd a g ||| putF t 10)
  | .vrecipeDelayed _ h st dd a g => some (vecWord 17 h st dd a g ||| putF (0#4) 12)
  | .vrecipeCurrent _ h st dd a g => some (vecWord 17 h st dd a g ||| putF (1#4) 12)
  | .vrecipeCheck _ h st dd a g => some (vecWord 17 h st dd a g ||| putF (2#4) 12)
  | .vrecipeLoss _ h st dd a g => some (vecWord 17 h st dd a g ||| putF (3#4) 12)
  | .stash _ h ds entry codec => some (hdrWord 3 0x00 h ||| putF ds 30 ||| putF entry 14 ||| putF codec 12)
  | .unstash _ h dd entry => some (hdrWord 3 0x01 h ||| putF dd 30 ||| putF entry 14)
  | .sfree _ h entry => some (hdrWord 3 0x02 h ||| putF entry 14)
  | .dstart _ c h prog pe pc =>
    some (hdrWord (BitVec.ofNat 4 (4 + c.val)) 0x00 h ||| putF prog 25 ||| putB pe 24 ||| putF pc 20)
  | .kvmap _ h sqc tc nc dl pin =>
    some (hdrWord 8 0x00 h ||| putF sqc 40 ||| putF tc 36 ||| putF nc 32 ||| putF dl 18 ||| putB pin 17)
  | .kvappend _ h sqc tc nc dl => some (hdrWord 8 0x01 h ||| putF sqc 40 ||| putF tc 36 ||| putF nc 32 ||| putF dl 18)
  | .kvunpin _ h dl => some (hdrWord 8 0x02 h ||| putF dl 18)
  | .kvcow _ h sqc tc => some (hdrWord 8 0x03 h ||| putF sqc 40 ||| putF tc 36)
  | .kvfree _ h sqc tc nc => some (hdrWord 8 0x04 h ||| putF sqc 40 ||| putF tc 36 ||| putF nc 32)
  | .kvshare _ h sqc nc ssc => some (hdrWord 8 0x05 h ||| putF sqc 40 ||| putF nc 32 ||| putF ssc 28)
  | .tsig _ h die sett mg tsg inc =>
    some (hdrWord 9 0x00 h ||| putB die 43 ||| putF sett 36 ||| putF mg 30 ||| putF tsg 25 ||| putF inc 0)
  | .hcmd _ h dh => some (hdrWord 9 0x01 h ||| putF dh 30)
  | .engineAbsent _ eng op h low => some (hdrWord eng op h ||| putF low 0)
  | _ => none

/-- Predicate and signal fields of a word. -/
def hdrOf (w : BitVec 64) : Hdr := ⟨w.getLsbD 53, w.extractLsb' 50 3, w.getLsbD 49, w.extractLsb' 44 5⟩

/-- A sequencer word by its fields (05 Table 05-2). -/
def seqFields (u : Sett) (w : BitVec 64) : Option Instr :=
  match (w.extractLsb' 54 6).toNat with
  | 0x00 => some (.nop u)
  | 0x01 => some (.halt u)
  | 0x02 => some (.li u (w.extractLsb' 40 4) (w.extractLsb' 0 32))
  | 0x03 => some (.alu u (w.extractLsb' 40 4) (w.extractLsb' 36 4) (w.extractLsb' 32 4) (w.extractLsb' 0 4))
  | 0x04 => some (.alui u (w.extractLsb' 40 4) (w.extractLsb' 36 4) (w.extractLsb' 16 16) (w.extractLsb' 0 4))
  | 0x05 => some (.ldct u (w.extractLsb' 40 4) (w.extractLsb' 36 4) (w.getLsbD 35) (w.extractLsb' 0 20))
  | 0x06 => some (.stct u (w.extractLsb' 40 4) (w.extractLsb' 36 4) (w.getLsbD 35) (w.extractLsb' 0 20))
  | 0x07 => some (.setcmp u (w.extractLsb' 41 3) (w.extractLsb' 0 32))
  | 0x08 => some (.br u (w.extractLsb' 41 3) (w.getLsbD 40) (w.extractLsb' 0 15))
  | 0x09 => some (.loop u (w.getLsbD 43) (w.extractLsb' 39 4) (w.extractLsb' 24 15) (w.extractLsb' 0 16))
  | 0x0A => some (.waits u (w.extractLsb' 39 5) (w.getLsbD 38) (w.getLsbD 37) (w.extractLsb' 33 4) (w.extractLsb' 0 16))
  | 0x0B => some (.tag u (w.extractLsb' 0 16))
  | 0x0C => some (.regn u (w.extractLsb' 0 10))
  | 0x0D => some (.rend u (w.extractLsb' 0 10))
  | 0x0E => some (.evlog u (w.extractLsb' 36 8) (w.getLsbD 35) (w.extractLsb' 0 16))
  | 0x0F => some (.setstep u (w.extractLsb' 40 4))
  | _ => none

/-- A tensor-engine word by its fields (05 Table 05-4). -/
def teFields (u : Sett) (w : BitVec 64) : Option Instr :=
  let h := hdrOf w
  match (w.extractLsb' 54 6).toNat with
  | 0x00 => some (.mma u h (w.extractLsb' 30 14) (w.extractLsb' 16 14) (w.extractLsb' 10 6) (w.getLsbD 9) (w.getLsbD 8)
      (w.extractLsb' 4 4))
  | 0x01 => some (.cvt u h (w.extractLsb' 30 14) (w.extractLsb' 28 2) (w.getLsbD 27) (w.extractLsb' 10 6))
  | 0x02 => some (.rload u h (w.extractLsb' 16 14) (w.extractLsb' 4 4))
  | 0x03 => some (.rdrop u h)
  | _ => none

/-- A vector-engine word by its fields (05 Table 05-5, 10 Table 10-4). -/
def veFields (u : Sett) (w : BitVec 64) : Option Instr :=
  let h := hdrOf w
  let st := w.getLsbD 59
  let dd := w.extractLsb' 30 14
  let a := w.extractLsb' 16 14
  let g := w.getLsbD 1
  match (w.extractLsb' 54 5).toNat with
  | 0 => some (.vadd u h st dd a (w.extractLsb' 2 14) g)
  | 1 => some (.vsub u h st dd a (w.extractLsb' 2 14) g)
  | 2 => some (.vmul u h st dd a (w.extractLsb' 2 14) g)
  | 3 => some (.vfma u h st dd a (w.extractLsb' 2 14) g)
  | 4 => some (.vmax u h st dd a (w.extractLsb' 2 14) g)
  | 5 => some (.vmin u h st dd a (w.extractLsb' 2 14) g)
  | 15 => some (.vdiv u h st dd a (w.extractLsb' 2 14) g)
  | 6 => some (.vabs u h st dd a g)
  | 7 => some (.vneg u h st dd a g)
  | 8 => some (.vcpy u h st dd a g)
  | 11 => some (.vrsum u h st dd a g)
  | 12 => some (.vrmax u h st dd a g)
  | 13 => some (.vrssq u h st dd a g)
  | 14 => some (.vamax u h st dd a g)
  | 16 => some (.vsqrt u h st dd a g)
  | 9 => some (.vfn u h st dd a (w.extractLsb' 10 6) g)
  | 10 => some (.vdfn u h st dd a (w.extractLsb' 10 6) g)
  | 17 =>
    match (w.extractLsb' 12 4).toNat with
    | 0 => some (.vrecipeDelayed u h st dd a g)
    | 1 => some (.vrecipeCurrent u h st dd a g)
    | 2 => some (.vrecipeCheck u h st dd a g)
    | 3 => some (.vrecipeLoss u h st dd a g)
    | _ => none
  | _ => none

/-- A stash-engine word by its fields (05 Table 05-6). -/
def seFields (u : Sett) (w : BitVec 64) : Option Instr :=
  let h := hdrOf w
  match (w.extractLsb' 54 6).toNat with
  | 0x00 => some (.stash u h (w.extractLsb' 30 14) (w.extractLsb' 14 16) (w.extractLsb' 12 2))
  | 0x01 => some (.unstash u h (w.extractLsb' 30 14) (w.extractLsb' 14 16))
  | 0x02 => some (.sfree u h (w.extractLsb' 14 16))
  | _ => none

/-- A DMA word by its fields (05 Table 05-7): `c` is ENG − 4. -/
def dmaFields (u : Sett) (c : Fin 4) (w : BitVec 64) : Option Instr :=
  if w.extractLsb' 54 6 = 0 then
    some (.dstart u c (hdrOf w) (w.extractLsb' 25 19) (w.getLsbD 24) (w.extractLsb' 20 4))
  else none

/-- A KV walker word by its fields (05 Table 05-7). -/
def kvFields (u : Sett) (w : BitVec 64) : Option Instr :=
  let h := hdrOf w
  match (w.extractLsb' 54 6).toNat with
  | 0x00 => some (.kvmap u h (w.extractLsb' 40 4) (w.extractLsb' 36 4) (w.extractLsb' 32 4) (w.extractLsb' 18 14)
      (w.getLsbD 17))
  | 0x01 => some (.kvappend u h (w.extractLsb' 40 4) (w.extractLsb' 36 4) (w.extractLsb' 32 4) (w.extractLsb' 18 14))
  | 0x02 => some (.kvunpin u h (w.extractLsb' 18 14))
  | 0x03 => some (.kvcow u h (w.extractLsb' 40 4) (w.extractLsb' 36 4))
  | 0x04 => some (.kvfree u h (w.extractLsb' 40 4) (w.extractLsb' 36 4) (w.extractLsb' 32 4))
  | 0x05 => some (.kvshare u h (w.extractLsb' 40 4) (w.extractLsb' 32 4) (w.extractLsb' 28 4))
  | _ => none

/-- A Trestle word by its fields (05 Table 05-7). -/
def trFields (u : Sett) (w : BitVec 64) : Option Instr :=
  let h := hdrOf w
  match (w.extractLsb' 54 6).toNat with
  | 0x00 => some (.tsig u h (w.getLsbD 43) (w.extractLsb' 36 7) (w.extractLsb' 30 6) (w.extractLsb' 25 5)
      (w.extractLsb' 0 16))
  | 0x01 => some (.hcmd u h (w.extractLsb' 30 14))
  | _ => none

/-- The command that a word's fields spell on sett `u`, reserved bits and values apart. -/
def fieldsOf (u : Sett) (w : BitVec 64) : Option Instr :=
  match (w.extractLsb' 60 4).toNat with
  | 0 => seqFields u w
  | 1 => teFields u w
  | 2 => veFields u w
  | 3 => seFields u w
  | 4 => dmaFields u 0 w
  | 5 => dmaFields u 1 w
  | 6 => dmaFields u 2 w
  | 7 => dmaFields u 3 w
  | 8 => kvFields u w
  | 9 => trFields u w
  | _ => some (.engineAbsent u (w.extractLsb' 60 4) (w.extractLsb' 54 6) (hdrOf w) (w.extractLsb' 0 44))

/-- A word without the fields that mean nothing in it: PCMP and SIGN are fields of every word, of no effect where ENG is 0; only PEN
and SEN are reserved there (05 Table 05-1). -/
def plainWord (w : BitVec 64) : BitVec 64 :=
  if w.extractLsb' 60 4 = 0#4 then w &&& 0xFFE20FFFFFFFFFFF#64 else w

/-- The decoder of a sett (05 R133): a word is refused where its OP is not defined, where a reserved bit is 1, which its own encoding
then leaves 0, or where a field holds a reserved value. -/
def decodeWord (u : Sett) (w : BitVec 64) : Option Instr :=
  match fieldsOf u w with
  | some i => if encodeWord i = some (plainWord w) && i.wf then some i else none
  | none => none

/-- The host's decoder: the opcode table gives no row any bits, so no word of it spells a command. -/
def decodeTableWord (_nbits _w : Nat) : Option Instr := none

end Sys2Proof
end

