-- ==== Sys2Proof/Config.lean ====
section
/-!
DEFINITION. What the spec leaves to the implementation or does not state: the free values (log entry 1).
Each is a constant without a body, applied to the operands it depends on or to State.freeCtr.
-/
namespace Sys2Proof

/-- A fresh bit string of `n` bytes that nothing constrains, as a natural number below 256^n after reduction (log entry 1). -/
opaque Config.freeValue : Nat → Nat

/-- A profile that a stream's headers declare (14 Table 14-1). -/
inductive StreamProfile where
  | av1Main | hevcMain | hevcMain10 | avcHigh | jpegBaseline | other
  deriving DecidableEq, Repr, Inhabited

/-- A tool that a stream's headers declare and that Table 14-1 of chapter 14 names, or one of no profile of that table. -/
inductive StreamTool where
  | filmGrain | largeScaleTile | fieldCoded | mbaff | progressiveDct | arithmetic | lossless | other
  deriving DecidableEq, Repr, Inhabited

/-- What one header of a stream declares (14 R332, R336, R341): profile, bit depth, components with the chroma subsampling across and
down, tools, claimed dimensions, side of a superblock or coding tree block, and the matrix (1 BT.601, 2 BT.709, 3 BT.2020) and range
(1 limited, 2 full) that it signals, 0 for none. -/
structure StreamHdr where
  profile : StreamProfile
  depth : Nat
  comps : Nat
  sx : Nat
  sy : Nat
  tools : List StreamTool
  w : Nat
  h : Nat
  unit : Nat
  matrix : Nat
  range : Nat
  deriving DecidableEq, Repr, Inhabited

/-- A decoded picture: display-order index, its header, size of its units and of itself in luma pixels, planes row by row, and its
concealed units (14 R337 to R339). -/
structure DecPic where
  order : Nat
  hdr : StreamHdr
  uw : Nat
  uh : Nat
  w : Nat
  h : Nat
  y : List Nat
  cb : List Nat
  cr : List Nat
  conc : List Nat
  deriving DecidableEq, Repr, Inhabited

/-- A picture as its standard decodes it: its header's place among the stream's headers, display-order index, size, planes, the stream
byte at which each unit begins, the units that do not parse or break their standard, those at which decoding can restart, and the unit
in which the stream ends, if it does (14 R337). -/
structure RawPic where
  head : Nat
  order : Nat
  w : Nat
  h : Nat
  y : List Nat
  cb : List Nat
  cr : List Nat
  offs : List Nat
  bad : List Nat
  restart : List Nat
  ends : Option Nat
  deriving DecidableEq, Repr, Inhabited

/-- What a codec (14 Table 14-1) reads in the bytes of a stream: every header, the number of pictures it begins, and its n-th picture in
decoding order, given the pictures decoded before it as they stand. The spec names the standards (log entry 11). -/
opaque Config.headers : Nat → List Byte → List StreamHdr
opaque Config.pictures : Nat → List Byte → Nat
opaque Config.picture : Nat → List Byte → Nat → List DecPic → RawPic

/-- ML-DSA-65 verification (FIPS 204, pure form, empty context): public key, message, signature (18 R426, R430; log entry 12). -/
opaque Config.mlDsaVerify : List (BitVec 8) → List (BitVec 8) → List (BitVec 8) → Bool

/-- Byte i of the root-key digest in the fuses, of the boot ROM's digest, of the identity public key (18 R425 to R428; log
entry 12). -/
opaque Config.rootDigest : Nat → Nat
opaque Config.romDigest : Nat → Nat
opaque Config.idPublic : Nat → Nat

/-- `n` fresh bytes for counter value `c`. -/
def Config.freeBytes (c : Nat) : Nat → List Byte
  | 0 => []
  | n + 1 => BitVec.ofNat 8 (Config.freeValue c / 256 ^ n) :: Config.freeBytes c n

end Sys2Proof
end

