-- ==== Sys2Proof/Machine/Codes.lean ====
section
/-!
DEFINITION. Status codes (17 Table 17-6) and the numbers of source scopes and blocks (17 Table 17-8).
-/
namespace Sys2Proof.Machine

/-- A status code. -/
abbrev Status := Nat

def Code.done : Status := 0x00
def Code.zeroExtent : Status := 0x01
def Code.notReady : Status := 0x02
def Code.doneRepeat : Status := 0x03
def Code.spilled : Status := 0x04
def Code.concealed : Status := 0x05
def Code.frozenSkip : Status := 0x06
def Code.lateDropped : Status := 0x07
def Code.shapeOver : Status := 0x10
def Code.planMismatch : Status := 0x11
def Code.engineAbsent : Status := 0x12
def Code.align : Status := 0x13
def Code.bounds : Status := 0x14
def Code.parityHard : Status := 0x20
def Code.cfgParity : Status := 0x21
def Code.busErr : Status := 0x22
def Code.hbmUncorr : Status := 0x23
def Code.overflowPersist : Status := 0x30
def Code.stashFull : Status := 0x40
def Code.kvExhausted : Status := 0x41
def Code.kvRef : Status := 0x42
def Code.dimClaim : Status := 0x50
def Code.streamCorrupt : Status := 0x51
def Code.aborted : Status := 0x60
def Code.semDenied : Status := 0x61
def Code.authFail : Status := 0x62
def Code.supplyWarn : Status := 0x70

/-- SRC of a record (17 Table 17-8). -/
def srcCode (scope die unit block : Nat) : Nat := scope * 8192 + die * 4096 + unit * 32 + block

end Sys2Proof.Machine
end

