-- ==== Sys2Proof/Machine/Bits.lean ====
section
/-!
DEFINITION. Bit fields, sign extension, byte order (00 R13: little-endian) and small list helpers.
-/
namespace Sys2Proof.Machine

/-- Bits `[hi:lo]` of a natural number. -/
def bitsOf (w hi lo : Nat) : Nat := (w >>> lo) % 2 ^ (hi + 1 - lo)

/-- Bit `i` of a natural number. -/
def bitOf (w i : Nat) : Bool := (w >>> i) % 2 == 1

/-- Bits `[hi:lo]` of a register. -/
def fieldOf (w : Word) (hi lo : Nat) : Nat := bitsOf w.toNat hi lo

/-- `w` with bits `[hi:lo]` replaced by `v`. -/
def putField (w : Word) (hi lo v : Nat) : Word :=
  let n := w.toNat
  BitVec.ofNat 32 (n - (bitsOf n hi lo) <<< lo + (v % 2 ^ (hi + 1 - lo)) <<< lo)

/-- A Boolean as bit `i`. -/
def flagBit (b : Bool) (i : Nat) : Nat := if b then 1 <<< i else 0

/-- The two's complement reading of the low `w` bits of `n`. -/
def signedOf (w n : Nat) : Int :=
  let m := n % 2 ^ w
  if m < 2 ^ (w - 1) then (m : Int) else (m : Int) - (2 ^ w : Nat)

/-- The `w`-bit two's complement pattern of an integer. -/
def twosOf (w : Nat) (z : Int) : Nat := (z % ((2 ^ w : Nat) : Int)).toNat

/-- `n` bytes of a natural number, least significant first (00 R13). -/
def leBytes : Nat → Nat → List Byte
  | 0, _ => []
  | n + 1, v => BitVec.ofNat 8 v :: leBytes n (v / 256)

/-- A little-endian list of bytes as a natural number (00 R13). -/
def leNat : List Byte → Nat
  | [] => 0
  | b :: bs => b.toNat + 256 * leNat bs

/-- Ceiling of `a / b`. -/
def ceilDiv (a b : Nat) : Nat := (a + b - 1) / b

/-- `a` rounded up to a multiple of `b`. -/
def roundUp (a b : Nat) : Nat := ceilDiv a b * b

/-- Replace entry `i` of a list. -/
def setAt {α : Type} (l : List α) (i : Nat) (v : α) : List α := l.set i v

/-- Cut a list into pieces of `n` (the last may be shorter), at most `fuel` of them. -/
def chunksFuel {α : Type} : Nat → Nat → List α → List (List α)
  | 0, _, _ => []
  | _ + 1, _, [] => []
  | f + 1, n, l => l.take n :: chunksFuel f n (l.drop n)

/-- Cut a list into pieces of `n`, the last perhaps shorter. -/
def chunks {α : Type} (n : Nat) (l : List α) : List (List α) :=
  if n = 0 then [] else chunksFuel l.length n l

end Sys2Proof.Machine
end

