-- ==== Sys2Proof/Machine/Fp.lean ====
section
/-!
DEFINITION. Exact dyadic numbers, the floating-point formats and the one rounding (RNE) of 02 R54 to R57 and 10 R248 to R253.
-/
namespace Sys2Proof.Machine

/-- An extended real number: a NaN, an infinity, or the exact value `±m × 2^e` (zeros keep their sign). -/
inductive Num where
  | nan
  | inf (neg : Bool)
  | fin (neg : Bool) (m : Nat) (e : Int)
  deriving DecidableEq, Repr, Inhabited

/-- +0.0. -/
def Num.zero : Num := .fin false 0 0

/-- An integer as a number. -/
def Num.ofInt (z : Int) : Num := .fin (decide (z < 0)) z.natAbs 0

/-- The sign bit of a number (false for a NaN). -/
def Num.neg? : Num → Bool
  | .nan => false
  | .inf n => n
  | .fin n _ _ => n

def Num.isNan : Num → Bool
  | .nan => true
  | _ => false

def Num.isInf : Num → Bool
  | .inf _ => true
  | _ => false

def Num.isZero : Num → Bool
  | .fin _ m _ => m == 0
  | _ => false

def Num.isFinite : Num → Bool
  | .fin _ _ _ => true
  | _ => false

def Num.negate : Num → Num
  | .nan => .nan
  | .inf n => .inf (!n)
  | .fin n m e => .fin (!n) m e

def Num.abs : Num → Num
  | .nan => .nan
  | .inf _ => .inf false
  | .fin _ m e => .fin false m e

/-- `m × 2^e` over a smaller exponent `q` (`q ≤ e`). -/
def scaleTo (m : Nat) (e q : Int) : Nat := m <<< (e - q).toNat

/-- The signed mantissa of `±m × 2^e` over exponent `q`. -/
def signedTo (neg : Bool) (m : Nat) (e q : Int) : Int :=
  let v : Int := (scaleTo m e q : Nat)
  if neg then -v else v

/-- The exact sum; exact cancellation gives +0.0, the sum of two negative zeros −0.0, opposite infinities NaN (02 R62). -/
def Num.add (a b : Num) : Num :=
  match a, b with
  | .nan, _ => .nan
  | _, .nan => .nan
  | .inf x, .inf y => if x = y then .inf x else .nan
  | .inf x, _ => .inf x
  | _, .inf y => .inf y
  | .fin x m e, .fin y n f =>
    let q := min e f
    let z := signedTo x m e q + signedTo y n f q
    if z = 0 then .fin (x && y) 0 0 else .fin (decide (z < 0)) z.natAbs q

def Num.sub (a b : Num) : Num := a.add b.negate

/-- The exact product; zero by infinity gives NaN. -/
def Num.mul (a b : Num) : Num :=
  match a, b with
  | .nan, _ => .nan
  | _, .nan => .nan
  | .inf x, .inf y => .inf (x != y)
  | .inf x, .fin y n _ => if n = 0 then .nan else .inf (x != y)
  | .fin x m _, .inf y => if m = 0 then .nan else .inf (x != y)
  | .fin x m e, .fin y n f => .fin (x != y) (m * n) (e + f)

/-- The product by a power of two. -/
def Num.shift (a : Num) (k : Int) : Num :=
  match a with
  | .fin n m e => .fin n m (e + k)
  | x => x

/-- Bits kept below the quotient or root before the sticky bit: enough for every rounding of this model. -/
def stickyBits : Nat := 80

/-- The quotient, exact up to a sticky last bit that stands for every bit below it (10 R248: correctly rounded). -/
def Num.div (a b : Num) : Num :=
  match a, b with
  | .nan, _ => .nan
  | _, .nan => .nan
  | .inf _, .inf _ => .nan
  | .inf x, .fin y _ _ => .inf (x != y)
  | .fin x _ _, .inf y => .fin (x != y) 0 0
  | .fin x m e, .fin y n f =>
    if n = 0 then (if m = 0 then .nan else .inf (x != y))
    else
      let k := stickyBits + n.log2
      let q := (m <<< k) / n
      let r := (m <<< k) % n
      .fin (x != y) (2 * q + (if r = 0 then 0 else 1)) (e - f - (k : Nat) - 1)

/-- The integer square root, one bit at a time from bit `n - 1` down. -/
def isqrtBits : Nat → Nat → Nat → Nat
  | 0, _, r => r
  | n + 1, x, r =>
    let t := r + 2 ^ n
    isqrtBits n x (if t * t ≤ x then t else r)

/-- The integer square root. -/
def isqrt (x : Nat) : Nat := isqrtBits (x.log2 / 2 + 1) x 0

/-- The square root, exact up to a sticky last bit; a negative operand gives NaN, −0.0 gives −0.0 (10 R251). -/
def Num.sqrt (a : Num) : Num :=
  match a with
  | .nan => .nan
  | .inf true => .nan
  | .inf false => .inf false
  | .fin n m e =>
    if m = 0 then .fin n 0 0
    else if n then .nan
    else
      let odd : Nat := (e % 2).toNat
      let x := m <<< (odd + 2 * stickyBits)
      let r := isqrt x
      .fin false (2 * r + (if r * r = x then 0 else 1)) ((e - odd) / 2 - stickyBits - 1)

/-- Order of two numbers neither of which is a NaN, −0.0 below +0.0 (02 R67). -/
def Num.lt (a b : Num) : Bool :=
  match a, b with
  | .nan, _ => false
  | _, .nan => false
  | .inf x, .inf y => x && !y
  | .inf x, _ => x
  | _, .inf y => !y
  | .fin x m e, .fin y n f =>
    let q := min e f
    let l := signedTo x m e q
    let r := signedTo y n f q
    decide (l < r) || (decide (l = r) && x && !y)

/-- Order of two numbers by value alone: −0.0 equals +0.0, and no comparison holds of a NaN. -/
def Num.le (a b : Num) : Bool :=
  match a, b with
  | .nan, _ => false
  | _, .nan => false
  | .inf x, .inf y => x || !y
  | .inf x, _ => x
  | _, .inf y => !y
  | .fin x m e, .fin y n f =>
    let q := min e f
    decide (signedTo x m e q ≤ signedTo y n f q)

/-- Maximum of 02 R67. -/
def Num.max (a b : Num) : Num :=
  if a.isNan || b.isNan then .nan else if a.lt b then b else a

/-- Minimum of 02 R67. -/
def Num.min (a b : Num) : Num :=
  if a.isNan || b.isNan then .nan else if b.lt a then b else a

/-- The magnitude maximum of the amax reductions: infinities ignored, a NaN makes the result NaN (02 R68). -/
def Num.amax (acc x : Num) : Num :=
  match acc, x with
  | .nan, _ => .nan
  | _, .nan => .nan
  | a, .inf _ => a
  | a, x => if a.lt x.abs then x.abs else a

/-- `m × 2^(-d)` rounded to the nearest integer, ties to even. -/
def rneShift (m : Nat) (d : Int) : Nat :=
  if d ≤ 0 then m <<< (-d).toNat
  else
    let k := d.toNat
    let q := m >>> k
    let r := m % 2 ^ k
    let h := 2 ^ (k - 1)
    if h < r || (r == h && q % 2 == 1) then q + 1 else q

/-- A number rounded to the nearest integer, ties to even; none for a NaN or an infinity. -/
def Num.toInt? (a : Num) : Option Int :=
  match a with
  | .fin n m e =>
    let v : Int := (rneShift m (-e) : Nat)
    some (if n then -v else v)
  | _ => none

/-- A binary floating-point layout: exponent and fraction widths. -/
structure FloatFmt where
  ebits : Nat
  fbits : Nat
  deriving DecidableEq, Repr

def FloatFmt.f32 : FloatFmt := ⟨8, 23⟩
def FloatFmt.bf16 : FloatFmt := ⟨8, 7⟩
def FloatFmt.f16 : FloatFmt := ⟨5, 10⟩
def FloatFmt.e5m2 : FloatFmt := ⟨5, 2⟩
def FloatFmt.e4m3 : FloatFmt := ⟨4, 3⟩

def FloatFmt.bias (f : FloatFmt) : Int := (2 ^ (f.ebits - 1) - 1 : Nat)

/-- Exponent of the unit in the last place of a subnormal. -/
def FloatFmt.qmin (f : FloatFmt) : Int := 1 - f.bias - f.fbits

/-- The pattern of +infinity. -/
def FloatFmt.infBits (f : FloatFmt) : Nat := (2 ^ f.ebits - 1) <<< f.fbits

/-- The sign bit's weight. -/
def FloatFmt.signBit (f : FloatFmt) : Nat := 2 ^ (f.ebits + f.fbits)

/-- Exponent of the unit in the last place of the rounded `m × 2^e`. -/
def FloatFmt.quantum (f : FloatFmt) (m : Nat) (e : Int) : Int :=
  Max.max f.qmin (e + m.log2 - f.fbits)

/-- The pattern of the magnitude `m × 2^e`, rounded once (RNE); it passes `infBits` where it overflows. -/
def FloatFmt.magBits (f : FloatFmt) (m : Nat) (e : Int) : Nat :=
  if m = 0 then 0
  else
    let q := f.quantum m e
    (q - f.qmin).toNat <<< f.fbits + rneShift m (q - e)

/-- The value of a pattern (IEEE 754 layout; E4M3 apart). -/
def FloatFmt.decode (f : FloatFmt) (w : Nat) : Num :=
  let neg := bitOf w (f.ebits + f.fbits)
  let ex := (w >>> f.fbits) % 2 ^ f.ebits
  let fr := w % 2 ^ f.fbits
  if ex = 2 ^ f.ebits - 1 then (if fr = 0 then .inf neg else .nan)
  else if ex = 0 then .fin neg fr f.qmin
  else .fin neg (fr + 2 ^ f.fbits) (f.qmin + (ex - 1 : Nat))

/-- What one rounding gives: the pattern and the IEEE exceptions it raises (tininess after rounding, 10 R251). -/
structure Rounded where
  bits : Nat
  overflow : Bool
  underflow : Bool
  inexact : Bool
  deriving DecidableEq, Repr

/-- The canonical quiet NaN (02 R56). -/
def FloatFmt.nanBits (f : FloatFmt) : Nat := f.infBits + 2 ^ (f.fbits - 1)

/-- One RNE rounding of an exact value, subnormals kept, overflow to infinity (02 R54, R57). -/
def FloatFmt.round (f : FloatFmt) (x : Num) : Rounded :=
  match x with
  | .nan => ⟨f.nanBits, false, false, false⟩
  | .inf n => ⟨(if n then f.signBit else 0) + f.infBits, false, false, false⟩
  | .fin n m e =>
    let s := if n then f.signBit else 0
    let b := f.magBits m e
    if f.infBits ≤ b then ⟨s + f.infBits, true, false, true⟩
    else
      let q := f.quantum m e
      let inx := m ≠ 0 && decide (e < q) && m % 2 ^ (q - e).toNat ≠ 0
      let u := e + m.log2 - f.fbits
      let tiny := m ≠ 0 && decide (u < f.qmin) &&
        decide (rneShift m (u - e) < 2 ^ (f.fbits + (f.qmin - u).toNat))
      ⟨s + b, false, tiny && inx, inx⟩

/-- The FP32 pattern nearest an exact value. -/
def f32Bits (x : Num) : Nat := (FloatFmt.f32.round x).bits

/-- The value of an FP32 pattern. -/
def f32Num (w : Nat) : Num := FloatFmt.f32.decode w

/-- One RNE rounding to FP32, as a number. -/
def Num.rne (x : Num) : Num := f32Num (f32Bits x)

/-- Is the FP32 pattern subnormal? -/
def f32Sub (w : Nat) : Bool := bitsOf w 30 23 == 0 && bitsOf w 22 0 != 0

/-- A subnormal FP32 pattern replaced by the zero of its sign (10 R249). -/
def f32Flush (w : Nat) : Nat := if f32Sub w then bitsOf w 31 31 <<< 31 else w

/-- Is the FP32 pattern finite? -/
def f32Finite (w : Nat) : Bool := bitsOf w 30 23 != 255

/-- Is the FP32 pattern a positive finite normal number (02 R40)? -/
def f32CoarseOk (w : Nat) : Bool :=
  !bitOf w 31 && bitsOf w 30 23 != 0 && bitsOf w 30 23 != 255

/-- The FP32 pattern of 2^k. -/
def f32Pow2 (k : Int) : Nat := f32Bits (.fin false 1 k)

/-- Floor of log2 of `n × 2^e / d`, both `n` and `d` above 0. -/
def floorLog2 (n : Nat) (e : Int) (d : Nat) : Int :=
  let k : Int := (n.log2 : Int) - (d.log2 : Int)
  let ge := if 0 ≤ k then decide (d <<< k.toNat ≤ n) else decide (d ≤ n <<< (-k).toNat)
  (if ge then k else k - 1) + e

/-- Ceiling of log2 of a positive finite number. -/
def Num.ceilLog2 (x : Num) : Int :=
  match x with
  | .fin _ m e =>
    let k := (m.log2 : Int)
    (if m = 2 ^ m.log2 then k else k + 1) + e
  | _ => 0

end Sys2Proof.Machine
end

