-- ==== Sys2Proof/Machine/Ln.lean ====
section
/-!
DEFINITION. Logarithmic numbers: the format codes, decoding, encoding, block scales and split forms (02 R34 to R59).
-/
namespace Sys2Proof.Machine

/-- The element formats of 02 Table 02-1. -/
inductive Fmt where
  | ln4 | ln8 | ln8x2 | ln8x3 | bf16 | fp16 | fp32 | e4m3 | e5m2 | int8 | uint8 | int32
  deriving DecidableEq, Repr, Inhabited

/-- The format of a 4-bit code; codes 12 to 15 are reserved. -/
def Fmt.ofCode : Nat → Option Fmt
  | 0 => some .ln4
  | 1 => some .ln8
  | 2 => some .ln8x2
  | 3 => some .ln8x3
  | 4 => some .bf16
  | 5 => some .fp16
  | 6 => some .fp32
  | 7 => some .e4m3
  | 8 => some .e5m2
  | 9 => some .int8
  | 10 => some .uint8
  | 11 => some .int32
  | _ => none

def Fmt.code : Fmt → Nat
  | .ln4 => 0
  | .ln8 => 1
  | .ln8x2 => 2
  | .ln8x3 => 3
  | .bf16 => 4
  | .fp16 => 5
  | .fp32 => 6
  | .e4m3 => 7
  | .e5m2 => 8
  | .int8 => 9
  | .uint8 => 10
  | .int32 => 11

/-- Bits of one element (of one plane, for a split format). -/
def Fmt.bits : Fmt → Nat
  | .ln4 => 4
  | .ln8 => 8
  | .ln8x2 => 8
  | .ln8x3 => 8
  | .bf16 => 16
  | .fp16 => 16
  | .fp32 => 32
  | .e4m3 => 8
  | .e5m2 => 8
  | .int8 => 8
  | .uint8 => 8
  | .int32 => 32

/-- Is the format one of the four LN formats? -/
def Fmt.isLn (f : Fmt) : Bool := decide (f.code < 4)

/-- Planes of the format (02 R51). -/
def Fmt.planes : Fmt → Nat
  | .ln8x2 => 2
  | .ln8x3 => 3
  | _ => 1

/-- The mantissa table T of 02 Table 02-3, with T[8] = 65536. -/
def lnT (f : Nat) : Nat := [32768, 35734, 38968, 42495, 46341, 50535, 55109, 60097, 65536].getD f 0

/-- The rounding boundaries B of 02 Table 02-3. -/
def lnB (f : Nat) : Nat := lnT f + lnT (f + 1)

/-- `dec(L)` of 02 R36, as mantissa and exponent. -/
def lnDec (l : Nat) : Nat × Int :=
  (lnT (l % 8), ((l / 8 : Nat) : Int) - 8 - 15)

/-- Widening of an LN4 code to its LN8 code (02 R39). -/
def ln4Widen (c : Nat) : Nat :=
  let s := if bitOf c 3 then 128 else 0
  let l := c % 8
  if l = 0 then s else s + 8 * l + 32

/-- An LN8 code under its block scale and an exact coarse scale (02 R37, R41). -/
def ln8Num (code : Nat) (bs : Int) (c : Num) : Num :=
  if bs = -128 then .nan
  else
    let l := code % 128
    if l = 0 then (if bitOf code 7 then .nan else Num.zero)
    else
      let (m, e) := lnDec l
      (Num.fin (bitOf code 7) m (e + bs)).mul c

/-- A signed rational `num × 2^e / den`, the exact quotient of a value by a coarse scale (02 R45). -/
structure Frac where
  num : Int
  e : Int
  den : Nat
  deriving DecidableEq, Repr

/-- A value about to be encoded into an LN format. -/
inductive LnIn where
  | nan
  | inf (neg : Bool)
  | val (q : Frac)
  deriving DecidableEq, Repr

/-- The exact quotient x / C (C positive, finite and normal, 02 R40). -/
def LnIn.ofNum (x c : Num) : LnIn :=
  match x, c with
  | .nan, _ => .nan
  | .inf n, _ => .inf n
  | .fin n m e, .fin _ mc ec => .val ⟨if n then -(m : Int) else m, e - ec, mc⟩
  | .fin _ _ _, _ => .nan

/-- Compare |q| with `k × 2^j`. -/
def Frac.cmpMag (q : Frac) (k : Nat) (j : Int) : Ordering :=
  let a := q.num.natAbs <<< (q.e - j).toNat
  let b := (k * q.den) <<< (j - q.e).toNat
  compare a b

/-- Floor of log2 |q|, q not 0. -/
def Frac.floorLog2 (q : Frac) : Int := Machine.floorLog2 q.num.natAbs q.e q.den

/-- Ceiling of log2 |q|, q not 0. -/
def Frac.ceilLog2 (q : Frac) : Int :=
  let k := q.floorLog2
  if q.cmpMag 1 k = .eq then k else k + 1

/-- q by a power of two. -/
def Frac.shift (q : Frac) (k : Int) : Frac := { q with e := q.e + k }

/-- The exact residual q − (±m × 2^e) (02 R50). -/
def Frac.subDyadic (q : Frac) (neg : Bool) (m : Nat) (e : Int) : Frac :=
  let j := Min.min q.e e
  let a := q.num * (2 ^ (q.e - j).toNat : Nat)
  let b : Int := ((m * q.den) <<< (e - j).toNat : Nat)
  { num := if neg then a + b else a - b, e := j, den := q.den }

/-- The LN8 code of a finite y and whether it saturates (02 R45 to R47). -/
def ln8Encode (y : Frac) : Nat × Bool :=
  let s := if y.num < 0 then 128 else 0
  if y.cmpMag 17867 (-23) ≠ .gt then (0, false)
  else if y.cmpMag 125633 (-9) ≠ .lt then (s + 127, true)
  else if y.cmpMag 35734 (-23) = .lt then (s + 1, false)
  else
    let i := y.floorLog2
    let f := ((List.range 8).filter (fun f => decide (y.cmpMag (lnT f) (i - 15) ≠ .lt))).length - 1
    let l := (64 + 8 * i).toNat + f
    let up := match y.cmpMag (lnB f) (i - 16) with
      | .gt => true
      | .eq => l % 2 == 1
      | .lt => false
    (s + (if up then l + 1 else l), false)

/-- The LN4 code of a finite y and whether it saturates (02 R49). -/
def ln4Encode (y : Frac) : Nat × Bool :=
  let s := if y.num < 0 then 8 else 0
  if y.cmpMag 1 (-4) ≠ .gt then (0, false)
  else if y.cmpMag 1 (-3) = .lt then (s + 1, false)
  else if y.cmpMag 12 0 ≠ .lt then (s + 7, true)
  else
    let i := y.floorLog2
    let l := (i + 4).toNat
    let up := match y.cmpMag 3 (i - 1) with
      | .gt => true
      | .eq => l % 2 == 1
      | .lt => false
    (s + (if up then l + 1 else l), false)

/-- Clamp of an integer. -/
def clampInt (lo hi z : Int) : Int := if z < lo then lo else if hi < z then hi else z

/-- The value of larger magnitude (a block shares its coarse scale, so `den` is common). -/
def Frac.maxMag (a b : Frac) : Frac :=
  if b.num = 0 then a
  else if a.num = 0 then b
  else if decide ((b.num.natAbs <<< (b.e - Min.min a.e b.e).toNat) ≤ (a.num.natAbs <<< (a.e - Min.min a.e b.e).toNat))
    then a else b

/-- The AUTO block scale (02 R44): `headroom` is 7 for LN8 and 3 for LN4. -/
def autoScale (headroom : Int) (xs : List LnIn) : Int :=
  if xs.any (fun x => decide (x = .nan)) then -128
  else
    let a := xs.foldl (fun a x => match x with
      | .val q => Frac.maxMag a q
      | _ => a) (⟨0, 0, 1⟩ : Frac)
    if a.num = 0 then 0 else clampInt (-127) 127 (a.ceilLog2 - headroom)

/-- One converted block: its scale, its codes and the elements that saturated. -/
structure LnBlock where
  bs : Int
  codes : List Nat
  sats : List Bool
  deriving DecidableEq, Repr

/-- Encode one block into LN8 or LN4, AUTO (none) or GIVEN scale (02 R44 to R49). No element of a NaN block sets the saturation
indication, since none of them is encoded by R45 to R48 (log entry 17). -/
def encodeBlock (four : Bool) (given : Option Int) (xs : List LnIn) : LnBlock :=
  let nanCode := if four then 8 else 128
  let bs := given.getD (autoScale (if four then 3 else 7) xs)
  if bs = -128 || xs.any (fun x => decide (x = .nan)) then
    ⟨-128, xs.map (fun _ => nanCode), xs.map (fun _ => false)⟩
  else
    let one (x : LnIn) : Nat × Bool := match x with
      | .nan => (nanCode, false)
      | .inf n => if four then ((if n then 15 else 7), true) else ((if n then 255 else 127), true)
      | .val q =>
        if q.num = 0 then (0, false)
        else if four then ln4Encode (q.shift (-bs)) else ln8Encode (q.shift (-bs))
    let r := xs.map one
    ⟨bs, r.map (·.1), r.map (·.2)⟩

/-- The residual of an element after its LN8 piece (02 R50): exactly zero for an infinity. -/
def residual (b : LnBlock) (x : LnIn) (code : Nat) : LnIn :=
  match x with
  | .nan => .nan
  | .inf _ => .val ⟨0, 0, 1⟩
  | .val q =>
    if b.bs = -128 then .nan
    else if code % 128 = 0 then .val q
    else
      let (m, e) := lnDec (code % 128)
      .val (q.subDyadic (bitOf code 7) m (e + b.bs))

/-- The pieces of a split block (02 R50); the scales given for the first pieces, AUTO for the rest. -/
def splitBlock : Nat → List (Option Int) → List LnIn → List LnBlock
  | 0, _, _ => []
  | n + 1, gs, xs =>
    let b := encodeBlock false (gs.headD none) xs
    b :: splitBlock n gs.tail (xs.zipWith (fun x c => residual b x c) b.codes)

/-- The blocks, one per plane, that a block of values becomes in an LN format (02 R44 to R50). -/
def encodeLn (f : Fmt) (gs : List (Option Int)) (xs : List LnIn) : List LnBlock :=
  match f with
  | .ln4 => [encodeBlock true (gs.headD none) xs]
  | f => splitBlock f.planes gs xs

/-- A converted element of a format that is no LN format: pattern, saturation, NaN or infinity. -/
structure Conv where
  bits : Nat
  sat : Bool
  naninf : Bool
  deriving DecidableEq, Repr

/-- RNE with saturation to ±limit (02 Table 02-5, E4M3 and E5M2): `limit` is an integer. The magnitude is compared with the limit
before the rounding, so that a value between the limit and its midpoint saturates too (log entry 17). -/
def satFloat (f : FloatFmt) (limit limitBits : Nat) (x : Num) : Conv :=
  match x with
  | .nan => ⟨0x7F, false, true⟩
  | .inf n => ⟨(if n then 128 else 0) + limitBits, true, false⟩
  | .fin n m e =>
    let s := if n then 128 else 0
    if (Num.fin false limit 0).lt (.fin false m e) then ⟨s + limitBits, true, false⟩
    else ⟨s + f.magBits m e, false, false⟩

/-- RNE to an integer with saturation (02 Table 02-5): the rounded integer is held against the range (log entry 17). -/
def satInt (w : Nat) (lo hi : Int) (x : Num) : Conv :=
  match x with
  | .nan => ⟨0, false, true⟩
  | .inf n => ⟨twosOf w (if n then lo else hi), true, false⟩
  | x =>
    let z := (x.toInt?).getD 0
    if z < lo then ⟨twosOf w lo, true, false⟩
    else if hi < z then ⟨twosOf w hi, true, false⟩
    else ⟨twosOf w z, false, false⟩

/-- RNE to an IEEE layout; overflow gives infinity (02 Table 02-5). -/
def convFloat (f : FloatFmt) (x : Num) : Conv :=
  let b := (f.round x).bits
  ⟨b, false, decide (f.infBits ≤ b % f.signBit)⟩

/-- One conversion into a format that is no LN format (02 Table 02-5). -/
def encodeElem (f : Fmt) (x : Num) : Conv :=
  match f with
  | .bf16 => convFloat .bf16 x
  | .fp16 => convFloat .f16 x
  | .fp32 => convFloat .f32 x
  | .e4m3 => satFloat .e4m3 448 0x7E x
  | .e5m2 => satFloat .e5m2 57344 0x7B x
  | .int8 => satInt 8 (-128) 127 x
  | .uint8 => satInt 8 0 255 x
  | .int32 => satInt 32 (-(2 ^ 31)) (2 ^ 31 - 1) x
  | _ => ⟨0, false, false⟩

/-- The exact value of an element of a format that is no LN format (02 Table 02-1). -/
def decodeElem (f : Fmt) (w : Nat) : Num :=
  match f with
  | .bf16 => FloatFmt.bf16.decode w
  | .fp16 => FloatFmt.f16.decode w
  | .fp32 => FloatFmt.f32.decode w
  | .e4m3 =>
    if w % 128 = 127 then .nan
    else if bitsOf w 6 3 = 15 then .fin (bitOf w 7) (8 + w % 8) 5
    else FloatFmt.e4m3.decode w
  | .e5m2 => FloatFmt.e5m2.decode w
  | .int8 => Num.ofInt (signedOf 8 w)
  | .uint8 => Num.ofInt (w % 256 : Nat)
  | .int32 => Num.ofInt (signedOf 32 w)
  | _ => .nan

/-- Is the pattern a signalling NaN of FP32, BF16 or FP16 (10 R251)? -/
def signalling (f : Fmt) (w : Nat) : Bool :=
  match f with
  | .bf16 => decide (FloatFmt.bf16.decode w = .nan) && !bitOf w 6
  | .fp16 => decide (FloatFmt.f16.decode w = .nan) && !bitOf w 9
  | .fp32 => decide (FloatFmt.f32.decode w = .nan) && !bitOf w 22
  | _ => false

/-- The magnitude of a product of two LN8 codes above 0: mantissa and exponent (02 R58). -/
def lnProduct (la lb : Nat) : Nat × Int :=
  let s := la + lb
  (lnT (s % 8), ((s / 8 : Nat) : Int) - 16 - 15)

/-- The pairs of pieces summed for a format, in order (02 Table 02-6), pieces numbered from 0. -/
def piecePairs : Fmt → List (Nat × Nat)
  | .ln8x2 => [(0, 0), (0, 1), (1, 0)]
  | .ln8x3 => [(0, 0), (0, 1), (1, 0), (0, 2), (2, 0), (1, 1)]
  | _ => [(0, 0)]

/-- The product of two LN8 codes in units of 2^-31; none for a NaN (02 R58, R59). -/
def lnMulUnits (a b : Nat) : Option Int :=
  let la := a % 128
  let lb := b % 128
  if a = 0 || b = 0 then some 0
  else if la = 0 || lb = 0 then none
  else
    let (t, e) := lnProduct la lb
    let v : Int := (t <<< (e + 31).toNat : Nat)
    some (if bitOf a 7 != bitOf b 7 then -v else v)

/-- A block sum in units of 2^-31; none where a NaN takes part (02 R59, R60). -/
def blockSum (as bs : List Nat) : Option Int :=
  (as.zip bs).foldl (fun s (a, b) =>
    match s, lnMulUnits a b with
    | some x, some y => some (x + y)
    | _, _ => none) (some 0)

end Sys2Proof.Machine
end

