-- ==== Sys2Proof/Machine/Mem.lean ====
section
/-!
DEFINITION. Byte memories and sparse tables in one canonical form: addresses strictly rising, no entry equal to what an
unlisted address reads as (a byte of memory that nothing has written reads 0: DESIGN CHOICE, unsafe, log entry 4).
-/
namespace Sys2Proof.Machine

/-- A byte memory: the listed cells, in rising order of address. -/
abbrev Mem := List Host.Cell

/-- One byte; an unlisted address reads 0 (log entry 4). -/
def Mem.read : Mem → Nat → Byte
  | [], _ => 0
  | (k, v) :: m, a => if a = k then v else Mem.read m a

/-- The canonical form: strictly rising addresses, none below `lo`, no zero byte listed. -/
def Mem.wfFrom : Nat → Mem → Bool
  | _, [] => true
  | lo, (k, v) :: m => decide (lo ≤ k) && decide (v ≠ 0) && Mem.wfFrom (k + 1) m

/-- The memory is in canonical form. -/
def Mem.wf (m : Mem) : Bool := Mem.wfFrom 0 m

/-- The cells of a block of bytes from address `a`, zero bytes left out. -/
def Mem.cells : Nat → List Byte → Mem
  | _, [] => []
  | a, b :: bs => if b = 0 then Mem.cells (a + 1) bs else (a, b) :: Mem.cells (a + 1) bs

/-- Store a block of bytes from address `a` up, keeping the canonical form. -/
def Mem.store (m : Mem) (a : Nat) (bs : List Byte) : Mem :=
  m.filter (fun c => c.1 < a) ++ Mem.cells a bs ++ m.filter (fun c => a + bs.length ≤ c.1)

/-- Store one byte. -/
def Mem.write (m : Mem) (a : Nat) (b : Byte) : Mem := m.store a [b]

/-- `n` zero bytes from address `a` up. -/
def Mem.zero (m : Mem) (a n : Nat) : Mem := m.filter (fun c => decide (c.1 < a) || decide (a + n ≤ c.1))

/-- The listed bytes of a block laid out from `a`, given the cells from `a` up. -/
def Mem.lay : Nat → Nat → Mem → List Byte
  | 0, _, _ => []
  | n + 1, a, [] => 0 :: Mem.lay n (a + 1) []
  | n + 1, a, (k, v) :: m =>
    if k = a then v :: Mem.lay n (a + 1) m else 0 :: Mem.lay n (a + 1) ((k, v) :: m)

/-- `n` bytes from address `a` up. -/
def Mem.load (m : Mem) (a n : Nat) : List Byte :=
  Mem.lay n a (m.filter (fun c => decide (a ≤ c.1) && decide (c.1 < a + n)))

/-- A little-endian number of `n` bytes at `a` (00 R13). -/
def Mem.num (m : Mem) (a n : Nat) : Nat := leNat (m.load a n)

/-- Store a little-endian number of `n` bytes at `a`. -/
def Mem.putNum (m : Mem) (a n v : Nat) : Mem := m.store a (leBytes n v)

/-- A sparse table of values by key. -/
abbrev Tbl (α : Type) := List (Nat × α)

/-- The entry of a key, if listed. -/
def Tbl.find {α : Type} : Tbl α → Nat → Option α
  | [], _ => none
  | (k, v) :: t, a => if a = k then some v else Tbl.find t a

/-- The entry of a key, or `d` where none is listed. -/
def Tbl.get {α : Type} (t : Tbl α) (k : Nat) (d : α) : α := (Tbl.find t k).getD d

/-- The table without a key. -/
def Tbl.drop {α : Type} (t : Tbl α) (k : Nat) : Tbl α := t.filter (fun c => c.1 ≠ k)

/-- The table with a key set, in rising order of keys. -/
def Tbl.put {α : Type} (t : Tbl α) (k : Nat) (v : α) : Tbl α :=
  t.filter (fun c => c.1 < k) ++ (k, v) :: t.filter (fun c => k < c.1)

/-- The table with a key set, or left out where the value is the one an unlisted key reads as. -/
def Tbl.set {α : Type} [DecidableEq α] (t : Tbl α) (k : Nat) (v d : α) : Tbl α :=
  if v = d then Tbl.drop t k else Tbl.put t k v

end Sys2Proof.Machine
end

