-- ==== Sys2Proof/Machine/Regs.lean ====
section
/-!
DEFINITION. Register space: blocks and their addresses (17 R394 to R396), the writable fields and reset values of every
plain register, the staged blocks (17 R403, Table 17-3), and the register file. Registers that are views of other state
(a program counter, a status word, a WO control) are listed here with their masks; Machine/RegCmds.lean reads and writes them.
-/
namespace Sys2Proof.Machine

/-- A logical sett of the module: die × 128 + number within the die (01 R30). -/
abbrev SettId := Fin 256

/-- Brixore die of a sett. -/
def dieOf (u : SettId) : Nat := u.val / 128

/-- Logical number of a sett within its die. -/
def numOf (u : SettId) : Nat := u.val % 128

/-- The sett of a die and a logical number. -/
def settOf (die n : Nat) : SettId := ⟨(die % 2) * 128 + n % 128, by omega⟩

/-- The register blocks of 17 Table 17-1 and Table 17-2. -/
inductive Blk where
  | sq (u : SettId) | te (u : SettId) | ve (u : SettId) | se (u : SettId) | dm (u : SettId) | kvw (u : SettId)
  | ftS (u : SettId) | injS (u : SettId) | pmS (u : SettId)
  | tr (d : Fin 2) | sp (d : Fin 2) | spool (d : Fin 2) | kvpool | ftD (d : Fin 2) | injD (d : Fin 2) | pmD (d : Fin 2)
  | ht (n : Fin 8)
  | enHost | enMgmt | sm | vd | intake | dmX | ftX | injX | pmX | sc | tm | bu
  deriving DecidableEq, Repr

/-- Offset of a block's first 16 KiB from the base of register space (17 Table 17-1, Table 17-2). -/
def Blk.base : Blk → Nat
  | .sq u => settRegion u + 0x00000
  | .te u => settRegion u + 0x04000
  | .ve u => settRegion u + 0x08000
  | .se u => settRegion u + 0x0C000
  | .dm u => settRegion u + 0x10000
  | .kvw u => settRegion u + 0x14000
  | .ftS u => settRegion u + 0x18000
  | .injS u => settRegion u + 0x1C000
  | .pmS u => settRegion u + 0x20000
  | .tr d => dieRegion d + 0x00000
  | .sp d => dieRegion d + 0x04000
  | .spool d => dieRegion d + 0x08000
  | .kvpool => dieRegion 0 + 0x0C000
  | .ftD d => dieRegion d + 0x10000
  | .injD d => dieRegion d + 0x14000
  | .pmD d => dieRegion d + 0x18000
  | .ht n => 0x02000000 + n.val * 0x4000
  | .enHost => 0x00000
  | .enMgmt => 0x04000
  | .sm => 0x08000
  | .vd => 0x0C000
  | .intake => 0x14000
  | .dmX => 0x18000
  | .ftX => 0x20000
  | .injX => 0x24000
  | .pmX => 0x28000
  | .sc => 0x2C000
  | .tm => 0x30000
  | .bu => 0x34000
where
  /-- Offset of a sett's register region (17 Table 17-1). -/
  settRegion (u : SettId) : Nat := 0x80000000 + dieOf u * 0x40000000 + numOf u * 0x800000
  /-- Offset of a die's register region (17 Table 17-1). -/
  dieRegion (d : Fin 2) : Nat := 0x01000000 + d.val * 0x00100000

/-- Key of unit offset `o` of a block: its offset in register space, alias bits clear (17 R396). -/
def Blk.key (b : Blk) (o : Nat) : Nat := b.base + (o / 0x1000) * 0x4000 + o % 0x1000

/-- Number of 16 KiB blocks the unit occupies (17 R396). -/
def Blk.slots : Blk → Nat
  | .vd => 2
  | .dmX => 2
  | _ => 1

/-- Block code of 17 Table 17-8. -/
def Blk.code : Blk → Nat
  | .sq _ => 0
  | .te _ => 1
  | .ve _ => 2
  | .se _ => 3
  | .dm _ => 4
  | .kvw _ => 5
  | .ftS _ => 6
  | .injS _ => 7
  | .pmS _ => 8
  | .tr _ => 9
  | .sp _ => 10
  | .spool _ => 11
  | .kvpool => 12
  | .ftD _ => 6
  | .injD _ => 7
  | .pmD _ => 8
  | .ht _ => 13
  | .enHost => 15
  | .enMgmt => 16
  | .sm => 17
  | .vd => 18
  | .intake => 19
  | .dmX => 4
  | .ftX => 6
  | .injX => 7
  | .pmX => 8
  | .sc => 21
  | .tm => 22
  | .bu => 20

/-- Map index of a staged block (17 Table 17-3); none where every register is immediate. -/
def Blk.stage : Blk → Option Nat
  | .pmS u => some u.val
  | .tr d => some (256 + d.val)
  | .spool d => some (258 + d.val)
  | .kvpool => some 260
  | .sp d => some (261 + d.val)
  | .pmD d => some (263 + d.val)
  | .ht n => some (265 + n.val)
  | .enHost => some 273
  | .enMgmt => some 274
  | .vd => some 275
  | .pmX => some 276
  | .bu => some 277
  | .tm => some 278
  | _ => none

/-- One row of a block's register list: `n` registers from unit offset `off`, `stride` apart. -/
structure RegRow where
  off : Nat
  n : Nat
  stride : Nat
  reset : Nat
  /-- RW bits. -/
  rw : Nat
  /-- W1C bits. -/
  w1c : Nat
  /-- In a staged block: the chapter calls the register immediate (or it is a status or a counter). -/
  imm : Bool
  deriving DecidableEq, Repr

/-- A register with RW bits. -/
def RegRow.cfg (off rw : Nat) (reset : Nat := 0) (n : Nat := 1) (stride : Nat := 4) : RegRow :=
  ⟨off, n, stride, reset, rw, 0, false⟩

/-- A register without RW bits: status, counter, sticky flags, WO control. -/
def RegRow.stat (off : Nat) (w1c : Nat := 0) (reset : Nat := 0) (n : Nat := 1) (stride : Nat := 4) : RegRow :=
  ⟨off, n, stride, reset, 0, w1c, true⟩

/-- A register of a staged block that its chapter calls immediate. -/
def RegRow.now (off rw : Nat) (w1c : Nat := 0) (reset : Nat := 0) (n : Nat := 1) (stride : Nat := 4) : RegRow :=
  ⟨off, n, stride, reset, rw, w1c, true⟩

/-- All 32 bits. -/
def allBits : Nat := 0xFFFFFFFF

/-- Sett sequencer block (04 Tables 04-5 to 04-13). -/
def sqRows : List RegRow :=
  [ .stat 0x00, .stat 0x04 0x7800, .cfg 0x08 0x7, .cfg 0x0C 0x7FFF, .cfg 0x10 0x03FF007F, .cfg 0x14 0x3FF,
    .cfg 0x18 allBits, .stat 0x1C 0 0xFFFF, .stat 0x20, .cfg 0x24 allBits, .cfg 0x28 allBits, .cfg 0x2C 0xFFFF,
    .stat 0x30 0 0 7, .cfg 0x100 allBits 0 16, .stat 0x140 0 0 16, .cfg 0x180 0xFFFFFF0F 0 8,
    .stat 0x1A0 0 0 4 16, .stat 0x1A4 0 0 4 16, .stat 0x1A8 0 0 4 16, .cfg 0x200 allBits 0 32 ]

/-- Tensor-engine block (03 Tables 03-5 to 03-12). -/
def teRows : List RegRow :=
  [ .stat 0x00, .stat 0x04 0x2, .stat 0x10 0x7, .stat 0x14, .stat 0x18, .stat 0x1C, .cfg 0x20 0xFF, .cfg 0x24 0x3F,
    .stat 0x28, .stat 0x2C ]

/-- Vector-engine block (10 Tables 10-7 to 10-11). -/
def veRows : List RegRow :=
  [ .stat 0x00, .stat 0x04 0x3FF, .cfg 0x08 0x03FF007F, .cfg 0x0C 0x1F 0xF, .stat 0x10 0 0 5 ]

/-- Stash-engine block (09 Tables 09-7, 09-8). -/
def seRows : List RegRow :=
  [ .stat 0x00, .stat 0x04 0x3, .cfg 0x08 0x07FFFFFF, .cfg 0x0C 0x1FFFF, .cfg 0x10 0x03FF01FF, .cfg 0x14 allBits,
    .stat 0x20 0 0 5 ]

/-- The registers of `n` DMA channels, 0x40 apart (13 Table 13-3). -/
def dmaRows (n : Nat) : List RegRow :=
  [ .stat 0x00 0 0 n 0x40, .stat 0x04 0x100 0 n 0x40, .cfg 0x08 0xF 4 n 0x40, .stat 0x0C 0 0 n 0x40,
    .stat 0x10 0 0 n 0x40, .stat 0x14 0 0 n 0x40, .cfg 0x18 allBits 0 n 0x40, .cfg 0x1C 0xFFFF 0 n 0x40,
    .cfg 0x20 allBits 0 n 0x40, .cfg 0x24 0xFFFF 0 n 0x40, .stat 0x28 0 0 n 0x40, .stat 0x2C 0 0 n 0x40,
    .stat 0x30 0 0 n 0x40, .stat 0x34 0 0 n 0x40 ]

/-- Sett DMA block with DM_LTAG (13 R330, 07 Table 07-9). -/
def dmRows : List RegRow := dmaRows 4 ++ [ .stat 0x400 0x80000000 0 768 ]

/-- Xalor DMA block with DM_XSIG (13 R330). -/
def dmXRows : List RegRow := dmaRows 64 ++ [ .cfg 0x1000 allBits 0 64 ]

/-- KV walker block (11 Table 11-7). -/
def kvwRows : List RegRow := [ .stat 0x00 0 0 6 ]

/-- Sett fault block (17 Table 17-9, 07 Table 07-11). -/
def ftSRows : List RegRow := [ .stat 0x00, .stat 0x04, .stat 0x100 0 0 3 ]

/-- Die fault block. -/
def ftDRows : List RegRow := [ .stat 0x00, .stat 0x04, .stat 0x100 0 0 5 ]

/-- Xalor fault block (17 Table 17-9, 07 Table 07-11). -/
def ftXRows : List RegRow :=
  [ .stat 0x00, .stat 0x04, .cfg 0x10 allBits, .cfg 0x14 0xFFFF, .cfg 0x18 0x01FFFFFF, .stat 0x1C, .cfg 0x20 allBits,
    ⟨0x24, 1, 4, 0, 0x81FFFFFF, 0x60000000, false⟩, .stat 0x28, .cfg 0x40 allBits 2000000,
    .stat 0x50 0 0 6, .stat 0x100 0 0 5 ]

/-- The injection registers of n points from point p on (17 Table 17-11). -/
def injPoints (p n : Nat) : List RegRow :=
  let o := 0x100 + 16 * p
  [ .cfg o 0xE0FFFFFF 0 n 16, .cfg (o + 4) allBits 0 n 16, .cfg (o + 8) allBits 1 n 16, .stat (o + 12) 0 0 n 16 ]

/-- Trestle block (01 Table 01-6, 03 R79, 07 Table 07-10). -/
def trRows : List RegRow :=
  [ .stat 0x400 0 0 128, .cfg 0x820 allBits 0 504, .cfg 0x100 0x80007FFF, .stat 0x104, .stat 0x108 ]

/-- Stash-pool block (09 Table 09-9). -/
def spoolRows : List RegRow :=
  [ .cfg 0x100 allBits 0 3 0x20, .cfg 0x104 0xFFFFFF 0 3 0x20, .cfg 0x108 0xFFFFFF 0 3 0x20, .cfg 0x10C 0x07FFFFFF 0 3 0x20,
    .stat 0x110 0 0 3 0x20, .stat 0x114 0 0 3 0x20, .cfg 0x118 0x80000000 0 3 0x20 ]

/-- KV pool block (11 Table 11-8). -/
def kvpoolRows : List RegRow :=
  [ .cfg 0x00 0xC0000000, .cfg 0x04 0x03FF03FF, .cfg 0x08 0x07FFFFFF, .cfg 0x0C 0x1FFFFFFF, .cfg 0x10 0x07FFFFFF,
    .cfg 0x14 0x0FFFFFFF, .cfg 0x18 0x1FFFFFFF, .cfg 0x1C 0x0FFFFFFF, .cfg 0x20 0x07FFFFFF,
    .cfg 0x24 allBits 0x00010040, .stat 0x28 0 0 5 ]

/-- Holt block (08 Tables 08-10 to 08-13). -/
def htRows : List RegRow := [ .cfg 0x00 0xF 8, .stat 0x04, .stat 0x08, .stat 0x0C ]

/-- Registers both port blocks have (15 Tables 15-6, 15-7). -/
def enRows : List RegRow :=
  [ .cfg 0x00 0x1F 0x7, .stat 0x04, .cfg 0x08 allBits, .cfg 0x0C 0xFFFF, .cfg 0x10 allBits, .cfg 0x14 allBits 0 4,
    .cfg 0x24 0x80000FFF, .cfg 0x28 0x0007FFFF 0xF000, .stat 0x30, .stat 0x34, .cfg 0x38 allBits 0 4, .stat 0x80 0 0 3 ]

/-- Host-port block (15 Tables 15-6, 15-7; 07 Table 07-4). -/
def enHostRows : List RegRow :=
  enRows ++
  [ .cfg 0x50 0xFF, .cfg 0x54 0x8000FFFF 0x80000004, .cfg 0x58 allBits 0x00806437, .cfg 0x60 allBits 0x10003E20 8, .stat 0x8C 0 0 3,
    .cfg 0x400 allBits 0 64 16, .cfg 0x404 0xFFFF 0 64 16, .cfg 0x408 allBits 0 64 16, .cfg 0x40C 0xE0FFFFFF 0 64 16,
    .cfg 0x800 allBits 0 112 16, .cfg 0x804 allBits 0 112 16, .cfg 0x808 allBits 0 112 16, .cfg 0x80C 0xC1FFFFFF 0 112 16 ]

/-- Semaphore block (15 R376). -/
def smRows : List RegRow := [ .stat 0x00 0 0 32, .stat 0x80, .stat 0x84 0x1 ]

/-- Viaduct unit (16 Tables 16-6, 16-7). -/
def vdRows : List RegRow :=
  [ .cfg 0x00 0x83FF03FF, .now 0x04 0x07FFFFFF, .stat 0x08 0 0 3, .cfg 0x100 0x80000000 0 8 0x20,
    .cfg 0x104 allBits 0x101F03E0 8 0x20, .stat 0x108 0 0 8 0x20, .stat 0x10C 0 0 8 0x20, .stat 0x110 0 0 8 0x20,
    .now 0x400 allBits 0 0 32 0x20, .now 0x404 0xFFFF 0 0 32 0x20, .now 0x408 0x1FFFF 0 0 32 0x20, .now 0x40C allBits 0 0 32 0x20,
    .now 0x410 0xFFFF 0 0 32 0x20, .stat 0x414 0 0 32 0x20, .now 0x418 0x80000000 0 0 32 0x20,
    .cfg 0x800 allBits 0 16 16, .cfg 0x804 0xFFFF 0 16 16, .cfg 0x808 allBits 0 16 16, .cfg 0x80C 0x80000000 0 16 16,
    .stat 0xA00 0 0 64 8, .stat 0xA04 0 0 64 8, .cfg 0x1000 0xC0000F07 0 1024 ]

/-- Sett PM block (18 Table 18-10). -/
def pmSRows : List RegRow := [ .cfg 0x00 0x1F 0x00100010, .stat 0x04 ]

/-- Die PM block (18 Table 18-10). -/
def pmDRows : List RegRow := [ .stat 0x00 0 0x00100000, .stat 0x04 ]

/-- Xalor PM block (18 Table 18-10, 17 Table 17-4). -/
def pmXRows : List RegRow :=
  [ ⟨0x00, 1, 4, 0x20000000, 0x20000000, 0x40000000, false⟩, .stat 0x04, .stat 0x08 0 0x10, .cfg 0x0C 0x00FF0000 0x00640000,
    .stat 0x10, .stat 0x14, .stat 0x18, .stat 0x800 0 0 4, .now 0xA00 0x3F 0 0 279 ]

/-- Security block (18 Table 18-11). -/
def scRows : List RegRow :=
  [ .stat 0x00 0x40000, .stat 0x04, .cfg 0x08 allBits, .cfg 0x0C 0xFFFF, .stat 0x10, .stat 0x14, .stat 0x18, .stat 0x1C,
    .stat 0x40 0 0 8, .cfg 0x80 allBits 0 16, .stat 0x100 0 0 16, .stat 0x140 0 0 16, .stat 0x400 0 0 384, .stat 0xA00 0 0 16 ]

/-- Test multiplexer block (19 Table 19-6). -/
def tmRows : List RegRow := [ .cfg 0x00 0x80000000, .cfg 0x10 0xFFFF00FF 0 16 ]

/-- Intake block (14 Tables 14-7, 14-8). -/
def inRows : List RegRow :=
  [ .cfg 0x00 0x1, .stat 0x04 0x3C, .cfg 0x08 0x01FF0001 0x01000000, .cfg 0x0C 0x3FFF3FFF 0x10E02000, .cfg 0x10 allBits,
    .cfg 0x14 0xFFFF, .cfg 0x18 0x1FFFF, .cfg 0x1C allBits, .stat 0x20, .cfg 0x24 allBits, .cfg 0x28 0xFFFF,
    .cfg 0x2C allBits, .cfg 0x30 0xFFFF, .cfg 0x34 0x0FFFFFFF, .cfg 0x38 0x007F07FF, .cfg 0x3C 0x0FFFFFFF 0 3 4,
    .cfg 0x48 0xFFFFF, .cfg 0x4C allBits, .cfg 0x50 0xFFFF, .cfg 0x54 0x80007FFF, .cfg 0x58 0x7F 8, .stat 0x5C,
    .cfg 0x60 allBits, .cfg 0x64 0xFFFF, .stat 0x70 0 0 4 ]

/-- The register rows of a block. -/
def Blk.rows : Blk → List RegRow
  | .sq _ => sqRows
  | .te _ => teRows
  | .ve _ => veRows
  | .se _ => seRows
  | .dm _ => dmRows
  | .kvw _ => kvwRows
  | .ftS _ => ftSRows
  | .injS _ => injPoints 0 6
  | .tr _ => trRows
  | .spool _ => spoolRows
  | .kvpool => kvpoolRows
  | .ftD _ => ftDRows
  | .injD _ => injPoints 0 8
  | .dmX => dmXRows
  | .ht _ => htRows
  | .ftX => ftXRows
  | .intake => inRows
  | .pmS _ => pmSRows
  | .pmD _ => pmDRows
  | .pmX => pmXRows
  | .sc => scRows
  | .tm => tmRows
  | .vd => vdRows
  | .enHost => enHostRows
  | .enMgmt => enRows
  | .sm => smRows
  | .injX => .cfg 0x0 0x1 :: (injPoints 0 11 ++ injPoints 16 6)
  | .sp _ => []
  | .bu => []

/-- The row of a unit offset, if a register lies there. -/
def findRow (o : Nat) : List RegRow → Option RegRow
  | [] => none
  | r :: rs =>
    if r.off ≤ o && (o - r.off) % r.stride == 0 && (o - r.off) / r.stride < r.n then some r else findRow o rs

/-- The reset value of a register. -/
def Blk.resetOf (b : Blk) (o : Nat) : Word :=
  match findRow o b.rows with
  | some r => BitVec.ofNat 32 r.reset
  | none => 0

/-- The register file: active and pending copies that differ from the reset value, and the copies whose stored parity is bad,
each with whether an injected fire made it so. -/
structure RegFile where
  act : Tbl Word
  pend : Tbl Word
  badA : Tbl Bool
  badP : Tbl Bool
  deriving DecidableEq, Repr

def RegFile.reset : RegFile := ⟨[], [], [], []⟩

/-- The active copy of a register. -/
def RegFile.get (f : RegFile) (b : Blk) (o : Nat) : Word := Tbl.get f.act (b.key o) (b.resetOf o)

/-- Write the active copy of a register. -/
def RegFile.set (f : RegFile) (b : Blk) (o : Nat) (v : Word) : RegFile :=
  { f with act := Tbl.set f.act (b.key o) v (b.resetOf o) }

/-- The pending copy of a staged register (17 R404). -/
def RegFile.pending (f : RegFile) (b : Blk) (o : Nat) : Word := Tbl.get f.pend (b.key o) (b.resetOf o)

/-- Write the pending copy of a staged register. -/
def RegFile.setPending (f : RegFile) (b : Blk) (o : Nat) (v : Word) : RegFile :=
  { f with pend := Tbl.set f.pend (b.key o) v (b.resetOf o) }

/-- The block of a 16 KiB slot of register space, and which of its slots that is (17 Tables 17-1, 17-2); none where the slot is
reserved. -/
def Blk.ofSlot (off : Nat) : Option (Blk × Nat) :=
  if 0x80000000 ≤ off then
    let u := settOf ((off - 0x80000000) / 0x40000000) ((off % 0x40000000) / 0x800000)
    match off % 0x800000 / 0x4000 with
    | 0 => some (.sq u, 0)
    | 1 => some (.te u, 0)
    | 2 => some (.ve u, 0)
    | 3 => some (.se u, 0)
    | 4 => some (.dm u, 0)
    | 5 => some (.kvw u, 0)
    | 6 => some (.ftS u, 0)
    | 7 => some (.injS u, 0)
    | 8 => some (.pmS u, 0)
    | _ => none
  else if 0x02000000 ≤ off && off < 0x02020000 then
    some (.ht ⟨(off - 0x02000000) / 0x4000 % 8, Nat.mod_lt _ (by decide)⟩, 0)
  else if 0x01000000 ≤ off && off < 0x01200000 then
    let d : Fin 2 := ⟨(off - 0x01000000) / 0x100000 % 2, Nat.mod_lt _ (by decide)⟩
    match off % 0x100000 / 0x4000 with
    | 0 => some (.tr d, 0)
    | 1 => some (.sp d, 0)
    | 2 => some (.spool d, 0)
    | 3 => if d = 0 then some (.kvpool, 0) else none
    | 4 => some (.ftD d, 0)
    | 5 => some (.injD d, 0)
    | 6 => some (.pmD d, 0)
    | _ => none
  else if off < 0x100000 then
    match off / 0x4000 with
    | 0 => some (.enHost, 0)
    | 1 => some (.enMgmt, 0)
    | 2 => some (.sm, 0)
    | 3 => some (.vd, 0)
    | 4 => some (.vd, 1)
    | 5 => some (.intake, 0)
    | 6 => some (.dmX, 0)
    | 7 => some (.dmX, 1)
    | 8 => some (.ftX, 0)
    | 9 => some (.injX, 0)
    | 10 => some (.pmX, 0)
    | 11 => some (.sc, 0)
    | 12 => some (.tm, 0)
    | 13 => some (.bu, 0)
    | _ => none
  else none

/-- First address of register space, and of the sett windows (17 R394, 07 R180). -/
def regBase : Nat := 0x0FF000000000
def settWindows : Nat := 0x0F0000000000

/-- Offset in register space of an address that reaches registers, in either of a sett's two places (17 R395). -/
def regOffset (a : Nat) : Option Nat :=
  if regBase ≤ a && a < regBase + 2 ^ 32 then some (a - regBase)
  else if settWindows ≤ a && a < settWindows + 2 ^ 32 then
    let o := a - settWindows
    if o % 0x1000000 < 0x800000 then none
    else some (0x80000000 + o / 0x80000000 * 0x40000000 + o % 0x80000000 / 0x1000000 * 0x800000 + o % 0x800000)
  else none

/-- What a register access reaches (17 R396 to R398): block, unit offset, alias number (0 the register itself); none in a
reserved slot or range. -/
def regTarget (a : Nat) : Option (Blk × Nat × Nat) :=
  if a % 4 ≠ 0 then none
  else
    match regOffset a with
    | none => none
    | some off =>
      match Blk.ofSlot off with
      | none => none
      | some (b, k) => some (b, k * 0x1000 + off % 0x1000, off % 0x4000 / 0x1000)

/-- Register-space address of a register. -/
def Blk.addr (b : Blk) (o : Nat) : Nat := regBase + b.key o

/-- The sett whose island holds a block, if one (17 R401). -/
def Blk.sett? : Blk → Option SettId
  | .sq u => some u
  | .te u => some u
  | .ve u => some u
  | .se u => some u
  | .dm u => some u
  | .kvw u => some u
  | .ftS u => some u
  | .injS u => some u
  | .pmS u => some u
  | _ => none

/-- Every block of the module. -/
def allBlks : List Blk :=
  (List.finRange 256).flatMap (fun u => [.sq u, .te u, .ve u, .se u, .dm u, .kvw u, .ftS u, .injS u, .pmS u]) ++
  (List.finRange 2).flatMap (fun d => [.tr d, .sp d, .spool d, .ftD d, .injD d, .pmD d]) ++
  (List.finRange 8).map .ht ++ [.kvpool, .enHost, .enMgmt, .sm, .vd, .intake, .dmX, .ftX, .injX, .pmX, .sc, .tm, .bu]

end Sys2Proof.Machine
end

