-- ==== Sys2Proof/Machine/SettState.lean ====
section
/-!
DEFINITION. The state of one sett: sequencer, engine queues, tensor engine, vector engine, stash engine, KV walker,
DMA channels, sett store and WAB (04, 03, 10, 09, 11, 13, 07). Registers that only hold a value stand in the register
file (Machine/Regs.lean); those that a sequencer or an engine moves stand here.
-/
namespace Sys2Proof.Machine

/-- SQ_STATUS.STATE apart from FROZEN (04 Table 04-7). -/
inductive SqSt where
  | idle | run | wait | brk | done | halted
  deriving DecidableEq, Repr

/-- One active loop level (04 R118 to R120, Table 04-12). -/
structure LoopLv where
  latch : Word
  /-- Iterations not yet begun. -/
  remain : Nat
  /-- First body instruction. -/
  first : Nat
  /-- Last body instruction. -/
  last : Nat
  imm : Bool
  src : BitVec 4
  deriving DecidableEq, Repr

/-- What holds issue after an instruction has issued (04 R113, R123, R127). -/
inductive Hold where
  | none
  | waits (sg : BitVec 5) (amt : Nat) (peek : Bool)
  | rend
  | halt
  deriving DecidableEq, Repr

/-- What REGN snapshots (04 R122). -/
structure Snap where
  ct : List Word
  ctsh : List Word
  shpend : BitVec 16
  cmp : List Word
  loops : List LoopLv
  tag : BitVec 16
  sig : List Word
  mask : Nat
  nrung : Nat
  deriving DecidableEq, Repr

/-- A command in an engine's queue, with what it captured at issue (05 R135, 06 R168). -/
structure QCmd where
  cmd : Instr
  hdr : Hdr
  index : Nat
  /-- Sett cycle of issue. -/
  issue : Nat
  /-- Count of REGNs and promotions at issue (10 R271). -/
  epoch : Nat
  /-- The sixteen counters as the issue read them. -/
  ct : List Word
  /-- The descriptors the command names, in the order DD, DS1, DS2 or DA, DB, and the captured extents of each. -/
  descs : List (BitVec 14)
  ext : List (List Nat)
  /-- SQ_STEP at issue. -/
  step : Word
  deriving DecidableEq, Repr

/-- A command that has started and not completed. -/
structure RCmd where
  q : QCmd
  start : Nat
  status : Nat
  /-- Cycle of completion, where it is a fixed event (05 R140). -/
  doneAt : Option Nat
  /-- Memory work still to be done. -/
  work : Bool
  /-- An injected fire took part in its fault (17 R414). -/
  inj : Bool
  deriving DecidableEq, Repr

/-- An engine of a sett: its queue of 16, the commands started, when its last occupancy ends, the first cycle in which an entry freed in
the full queue takes a command (04 R103), the last status. -/
structure Eng where
  queue : List QCmd
  run : List RCmd
  occEnd : Nat
  room : Nat
  last : Nat
  /-- Words of the head command whose parity has been checked (07 R194): of its descriptors and lists, and, once those have been
  `named`, of its operands. -/
  checked : Nat
  named : Bool
  deriving DecidableEq, Repr

def Eng.reset : Eng := ⟨[], [], 0, 0, 0, 0, false⟩

/-- Where an open tile is held (03 R85 to R88). -/
inductive Place where
  | live
  | file
  | slot (n : Nat)
  deriving DecidableEq, Repr

/-- An open tile (03 R72, R85, R90). -/
structure Tile where
  id : BitVec 6
  da : BitVec 14
  db : BitVec 14
  strict : Bool
  place : Place
  /-- Blocks summed so far (03 R75). -/
  blocks : Nat
  /-- Rows and columns its MMAs have reached: the valid region (03 R71, R88). -/
  rows : Nat
  cols : Nat
  /-- Fast: FP32 acc of element 96 r + c; an unlisted element is +0.0. -/
  acc : Tbl Nat
  /-- Strict: exact sum of element 96 r + c in units of 2^-285, none for NaN; an unlisted element is 0. -/
  exact : Tbl (Option Int)
  deriving DecidableEq, Repr

/-- The resident-operand registers (03 R83): column c, block j holds 32 codes and a block scale. -/
structure Resident where
  db : BitVec 14
  k0 : Nat
  nb : Nat
  fmt : Fmt
  cols : List (List (List Nat × Int))
  deriving DecidableEq, Repr

/-- An entry of a KV walker's look-aside buffer (11 R291). -/
structure LabEnt where
  seq : Nat
  idx : Nat
  page : Nat
  gen : Nat
  deriving DecidableEq, Repr

/-- DM_CH_STATUS.STATE (13 Table 13-3). -/
inductive ChSt where
  | idle | run | wait | fence | aborting | halted
  deriving DecidableEq, Repr

/-- Where a physical address lies; a remote place is a queue pair, a virtual address of its peer and the key used (07 R187). -/
inductive Loc where
  | hbm (a : Nat)
  | burrow (o : Nat)
  | remote (qp va rkey : Nat)
  | store (u : SettId) (o : Nat)
  | wab (u : SettId) (o : Nat)
  deriving DecidableEq, Repr

/-- Bytes a write replaced, so that a failing burst can give them back (log entry 8); none where it has not been made. -/
structure Undo where
  loc : Loc
  old : List Byte
  deriving DecidableEq, Repr

/-- A STASH that has started: its staging lines, the stream of its two sections as the codec hands it to ZB, and, once its
placement is decided, where it went (09 R230 to R240). -/
structure Staged where
  entry : Nat
  /-- The staging lines it holds, in the ring's order. -/
  lines : List Nat
  elem : List Byte
  bsc : List Byte
  /-- ZB unit size of the element section. -/
  unit : Nat
  codec : Nat
  fmt : Nat
  ndim : Nat
  ext : List Nat
  cs : Nat
  placed : Bool
  /-- 0 to 2 the pool, 3 fallback, 4 nothing. -/
  pool : Nat
  again : Bool
  deriving DecidableEq, Repr

/-- One burst of a transfer (13 R321). -/
structure Burst where
  src : Nat
  dst : Nat
  n : Nat
  deriving DecidableEq, Repr

/-- Bytes that a burst brought into a sett store: the burst, the sett, the store offset, the HBM address they came from where they
came from HBM, their number (07 R195). -/
structure Part where
  burst : Nat
  sett : SettId
  off : Nat
  from_ : Option Nat
  n : Nat
  deriving DecidableEq, Repr

/-- The transfer a channel last issued. -/
structure Xfer where
  /-- Byte offset of its instruction. -/
  pc : Nat
  /-- AOR it used, and the loops open at it. -/
  aor : Nat
  loops : List (Nat × Nat)
  /-- Bursts in order. -/
  bursts : List Burst
  /-- First burst of each piece; a MOVE is one piece (07 R195, 13 R323). -/
  cut : List Nat
  /-- Bytes per row or piece. -/
  row : Nat
  /-- What its bursts brought into sett stores. -/
  parts : List Part
  /-- Granules its translations used, and whether TR_GT_INV has dropped one of them since (07 R192). -/
  grans : List Nat
  stale : Bool
  /-- What each issued burst's destination held before, in issue order. -/
  undo : List Undo
  /-- Bursts that have failed and not been moved. -/
  dead : List Nat
  /-- Re-issues of each burst. -/
  tries : Tbl Nat
  /-- A multicast write (13 R322), and whether a member's copy has been delivered. -/
  multi : Bool
  landed : Bool
  /-- An injected BUS_ERR took part; every re-issue is corrupted too (17 R413). -/
  inj : Bool
  persist : Bool
  deriving DecidableEq, Repr

/-- Who started a system channel (13 R317, 15 Table 15-3, Table 15-4). -/
inductive Owner where
  | none
  /-- REG_WRITE of an endpoint. -/
  | reg (ep : Fin 2)
  /-- DMA_START of an endpoint, with its sequence number. -/
  | cmd (ep : Fin 2) (seq : Nat)
  deriving DecidableEq, Repr

/-- A DMA channel (13 R317 to R330). -/
structure DmaCh where
  st : ChSt
  last : Nat
  irq : Bool
  retryMax : Nat
  /-- Byte offset of the current instruction from the program start. -/
  pc : Nat
  rowLeft : Nat
  byteLeft : Nat
  aor : Nat
  prog : Nat
  faddr : Nat
  retry : Nat
  /-- Open loops, innermost first: byte offset of the first body instruction, iterations not begun. -/
  loops : List (Nat × Nat)
  /-- WAIT in progress: counter, amount, peek. -/
  waiting : Option (BitVec 6 × Nat × Bool)
  /-- The SIGNAL or HALT word that waits for the channel's writes. -/
  fence : Option (BitVec 64)
  xfer : Option Xfer
  /-- Writes of the program's earlier transfers that no SIGNAL has waited for (13 R321). -/
  unfenced : List Undo
  /-- The fault that stops the channel, until its bursts in flight have ended (13 R328): status and address. -/
  fault : Option (Nat × Nat)
  owner : Owner
  /-- Words that the instruction at PC has consumed, in the order it consumes them (07 R194). -/
  checked : Nat
  deriving DecidableEq, Repr

def DmaCh.reset : DmaCh :=
  { st := .idle, last := 0, irq := false, retryMax := 4, pc := 0, rowLeft := 0, byteLeft := 0, aor := 0, prog := 0,
    faddr := 0, retry := 0, loops := [], waiting := none, fence := none, xfer := none, unfenced := [], fault := none, owner := .none,
    checked := 0 }

/-- The word whose parity a freeze resolves (04 R109, 07 R194). -/
inductive Bad where
  | store (addr : Nat)
  | wab (addr : Nat)
  | acc (tile : BitVec 6) (elem : Nat)
  | flit
  deriving DecidableEq, Repr

/-- A freeze in progress (07 R194). -/
structure Freeze where
  bad : Bad
  /-- Engine that consumed the word: 0 the sequencer, 9 the Trestle interface. -/
  eng : Nat
  attempts : Nat
  /-- Clean-line refetch: 0 not asked for, 1 requested, 2 done. -/
  refetch : Nat
  /-- The mismatch is an injected fire (17 R413). -/
  injected : Bool
  /-- Every re-read of this recovery is corrupted too. -/
  persist : Bool
  /-- The DMA channel whose transfer consumes the word, if a channel's does. -/
  who : Option Chan
  deriving DecidableEq, Repr

/-- What a vector command that has started will show in VE_FLAGS and the captures at its completion (10 R258): its issue cycle, the
least flat index of a NaN or infinity and of a saturation, and its other flags. -/
structure VeNote where
  issue : Nat
  nan : Option Nat
  sat : Option Nat
  bits : Nat
  deriving DecidableEq, Repr

/-- One sett. -/
structure SettSt where
  st : SqSt
  pc : Nat
  ct : Vector Word 16
  ctsh : Vector Word 16
  shpend : BitVec 16
  cmp : Vector Word 8
  /-- Innermost level first. -/
  loops : List LoopLv
  sig : Vector Word 32
  /-- An increment by an absent engine's command that is not visible before the cycle after this one (05 R158, 04 R113). -/
  absSig : Option (Nat × BitVec 5)
  /-- The last host write of a counter: the counter, the cycle it may share with an instruction, the value before it, and the
  free choice whether it shares it (04 R116). -/
  hostWr : Option (BitVec 4 × Nat × Word × Bool)
  step : Word
  tag : BitVec 16
  region : Option (BitVec 10)
  snap : Option Snap
  /-- Counts REGNs and promotions. -/
  epoch : Nat
  hold : Hold
  /-- First cycle of the WAITS or drain in progress; in BREAK, the cycles a drain had lasted when the break stopped its count. -/
  held : Nat
  haltInfo : Word
  lastFault : Nat
  stepReq : Bool
  /-- The count break of this value has been taken. -/
  brkSeen : Bool
  /-- SQ_CYC: the next sett cycle in which the sequencer can act. -/
  cyc : Nat
  cmdCnt : Nat
  stallCnt : Nat
  frzCnt : Nat
  absentCnt : Nat
  /-- Sticky SQ_STATUS bits. -/
  sticky : Word
  /-- Region overflow latch, one bit per enabled source that fired, and the last sampled rung's (10 R271). -/
  latch : BitVec 5
  cause : BitVec 5
  freeze : Option Freeze
  /-- Mismatches found during the freeze, which extend it (04 R111). -/
  frzMore : List Freeze
  /-- Words of the instruction at SQ_PC whose parity has been checked. -/
  fetched : Nat
  /-- Signal increments that arrived during a freeze, with the sett whose TSIG sent them, if one did (04 R110, 05 R155). -/
  lateSig : List (BitVec 5 × Nat × Option SettId)
  eng : Vector Eng 9
  /-- Flags of the vector commands started and not completed. -/
  veDue : List VeNote
  /-- Cycle at which the last CVT's drain occupancy ends. -/
  drainEnd : Nat
  /-- Open tiles, the least recently named first (03 R87). -/
  tiles : List Tile
  resident : Option Resident
  /-- STASH commands started and not completed, in issue order. -/
  staged : List Staged
  lab : List LabEnt
  ch : Vector DmaCh 4
  store : Mem
  wab : Mem
  /-- Words of the store and of the WAB whose parity is bad, accumulator words likewise (07 R193). -/
  bad : List Bad
  /-- Clean lines of the store and their backing HBM lines (07 R195). -/
  clean : Tbl Nat
  deriving DecidableEq, Repr

/-- A sett after a module reset: every field at the value its chapter states, zero where it states none (log entries 4, 6). -/
def SettSt.reset : SettSt :=
  { st := .idle, pc := 0, ct := Vector.replicate 16 0, ctsh := Vector.replicate 16 0, shpend := 0,
    cmp := Vector.replicate 8 0, loops := [], sig := Vector.replicate 32 0, absSig := none, hostWr := none, step := 0, tag := 0, region := none,
    snap := none, epoch := 0, hold := .none, held := 0, haltInfo := 0, lastFault := 0, 
    stepReq := false, brkSeen := false, cyc := 0, cmdCnt := 0, stallCnt := 0, frzCnt := 0, absentCnt := 0, sticky := 0, latch := 0,
    cause := 0, freeze := none, frzMore := [], fetched := 0, lateSig := [], eng := Vector.replicate 9 Eng.reset, veDue := [], drainEnd := 0, tiles := [],
    resident := none, staged := [], lab := [], ch := Vector.replicate 4 DmaCh.reset, store := [], wab := [], bad := [], clean := [] }

end Sys2Proof.Machine
end

