-- ==== Sys2Proof/Machine/HoltState.lean ====
section
/-!
DEFINITION. Holt commands in progress (08 R202, R208).
-/
namespace Sys2Proof.Machine

/-- Who issued a Holt command (08 R206, R209): a sett, a control endpoint, or the management core. -/
inductive HIss where
  | sett (u : SettId)
  | ep (ep : Fin 2) (seq : Nat)
  | mgmt
  deriving DecidableEq, Repr

/-- What one Holt's sub-command leaves for the completion step. -/
structure HSub where
  holt : Nat
  /-- NORM: partial sum of each group. -/
  sums : Tbl Nat
  /-- UPDATE: largest magnitude, non-finite and saturated elements of each group. -/
  amax : Tbl Nat
  nonfin : Tbl Nat
  nsat : Tbl Nat
  a : Nat
  b : Nat
  c : Nat
  /-- CKIN: least failed line. -/
  bad : Option Nat
  /-- A fault: address and status (08 R226), and whether it was injected. -/
  fail : Option (Nat × Nat)
  inj : Bool
  /-- BOXG: the boxes it left unfinished. -/
  undone : List Nat
  deriving DecidableEq, Repr

/-- A failure that a running sub-command of a Holt has met (08 R226): the address, its status, whether its controller has counted and
recorded it, whether it was injected. -/
structure HFlt where
  holt : Nat
  addr : Nat
  status : Nat
  counted : Bool
  inj : Bool
  deriving DecidableEq, Repr

/-- A Holt command that has not completed: its block, the Holts it names, those not yet ended, what the others left, and the
status its checks gave (none where sub-commands were sent). -/
structure HCmd where
  id : Nat
  iss : HIss
  block : List Byte
  names : List Nat
  left : List Nat
  subs : List HSub
  early : Option Nat
  /-- It was refused on RESULT and writes nothing (08 R207). -/
  mute : Bool
  deriving DecidableEq, Repr

end Sys2Proof.Machine
end

