-- ==== Sys2Proof/Machine/HostState.lean ====
section
/-!
DEFINITION. The state of the host port: control endpoints, queue pairs, remote accesses outstanding, and what the module
transmits (15 R351 to R376).
-/
namespace Sys2Proof.Machine

/-- A response datagram (15 Table 15-2). -/
structure Resp where
  opcode : Nat
  epoch : Nat
  seq : Nat
  status : Nat
  orig : Nat
  flags : Nat
  /-- ADDR where the spec states it (17 R402). -/
  addr : Option Nat
  arg : Nat
  cycle : Nat
  data : List Byte
  deriving DecidableEq, Repr

/-- What an Ethernet frame of the module carries. -/
inductive EthBody where
  /-- A response of the port's endpoint. -/
  | resp (r : Resp)
  /-- A notification: mask bit of its event, count, status, argument, module cycle (15 R368). -/
  | note (event count status arg cycle : Nat)
  /-- A congestion notification packet of a queue pair (15 R375). -/
  | cnp (qp : Nat)
  /-- Acknowledgement of an inbound request (15 R371): NAK with a remote access error, or data of a read. -/
  | ack (qp : Nat) (ok : Bool) (data : List Byte)
  /-- RDMA READ and RDMA WRITE of a remote window (07 R187): remote virtual address, key, and length or data. -/
  | read (qp va rkey n : Nat)
  | write (qp va rkey : Nat) (data : List Byte)
  /-- A transport retransmission of a queue pair (15 R370). -/
  | resend (qp : Nat)
  /-- Answers of the port itself (15 R352): to ARP and to a neighbour solicitation with the address asked for and the port's MAC
  address, to an echo request with its payload. -/
  | arp (ip mac : Nat)
  | neighbour (ip mac : Nat)
  | echo (payload : List Byte)
  deriving DecidableEq, Repr

/-- A frame that a port sends: its priority and, where frames are tagged, its VLAN (15 R372); the address it goes to, IPv6 or
IPv4-mapped, and its UDP ports, 0 where it has none. -/
structure EthFrame where
  port : Fin 2
  prio : Nat
  vlan : Option Nat
  dip : Nat
  sport : Nat
  dport : Nat
  body : EthBody
  deriving DecidableEq, Repr

/-- What the module sends. -/
inductive Tx where
  | eth (f : EthFrame)
  /-- A PFC frame: priority and quanta (15 R374). -/
  | pfc (prio quanta : Nat)
  /-- A Viaduct flit or message (16): port, kind, contents. -/
  | viaduct (port kind : Nat) (data : List Byte)
  deriving DecidableEq, Repr

/-- An accepted sequence number with its response once sent (15 R358). -/
structure Win where
  seq : Nat
  resp : Option Resp
  deriving DecidableEq, Repr

/-- A deferred command, known by its sequence number plus 2^32 times the RESYNCs before it: its result once ready, whether it has been read, and whether a RESYNC marked it (15 R359, R362). -/
structure Held where
  seq : Nat
  ready : Option (Nat × List Byte)
  read : Bool
  marked : Bool
  deriving DecidableEq, Repr

/-- A control endpoint (15 R354 to R368). -/
structure EpSt where
  epoch : Nat
  /-- RESYNCs carried out since reset. -/
  gen : Nat
  high : Option Nat
  win : List Win
  held : List Held
  /-- Sequence numbers retired while in the window (15 R363). -/
  retired : List Nat
  noteCnt : Nat
  /-- Notification address and port, 18 bytes, and event mask. -/
  naddr : List Byte
  mask : Nat
  deriving DecidableEq, Repr

def EpSt.reset : EpSt :=
  { epoch := 0, gen := 0, high := none, win := [], held := [], retired := [], noteCnt := 0, naddr := List.replicate 18 0, mask := 0 }

/-- A queue pair: its context (15 Table 15-5), its send rate `rate / 2^rateExp` in Gb/s and the transport retries made. -/
structure Qp where
  st : Nat
  pmtu : Nat
  retry : Nat
  timeout : Nat
  prio : Nat
  dscp : Nat
  maxRd : Nat
  sport : Nat
  dqpn : Nat
  spsn : Nat
  epsn : Nat
  dmac : Nat
  dip : Nat
  rqBase : Nat
  rqSize : Nat
  rqSig : Nat
  rqCount : Nat
  rate : Nat
  rateExp : Nat
  tries : Nat
  deriving DecidableEq, Repr

def Qp.reset : Qp :=
  { st := 0, pmtu := 0, retry := 0, timeout := 0, prio := 0, dscp := 0, maxRd := 0, sport := 0, dqpn := 0, spsn := 0, epsn := 0,
    dmac := 0, dip := 0, rqBase := 0, rqSize := 0, rqSig := 0, rqCount := 0, rate := 0, rateExp := 0, tries := 0 }

/-- Whose a remote access is: burst i of a channel's last transfer, the bytes from `off` on of an endpoint's memory access, or the line
of a checkpoint command whose HBM address is `a`, fetched the second time or not (08 R224, R225). -/
inductive RWho where
  | burst (c : Chan) (i : Nat)
  | mem (ep : Fin 2) (no off : Nat)
  | holt (id h a : Nat) (again : Bool)
  deriving DecidableEq, Repr

/-- A remote access of a queue pair (07 R187, R188), in the order its requests leave. -/
structure RAcc where
  qp : Nat
  write : Bool
  who : RWho
  /-- Physical module address, in a remote window, and length. -/
  pa : Nat
  n : Nat
  /-- Where a burst's read puts its bytes; what a write carries. -/
  dst : Option Loc
  data : List Byte
  /-- Remote virtual address and key, once the request has left (07 R189). -/
  sent : Option (Nat × Nat)
  deriving DecidableEq, Repr

/-- A MEM_READ or MEM_WRITE that has been accepted and not completed (15 R355, R361): what it accesses, whether it has reached its
target, how many remote accesses of it are outstanding, its status and the bytes read so far. -/
structure MemAcc where
  ep : Fin 2
  /-- Number as of a deferred command, and ARG. -/
  no : Nat
  arg : Nat
  addr : Nat
  n : Nat
  write : Bool
  data : List Byte
  /-- Where its responses go. -/
  peer : Nat × Nat
  /-- Words of sett windows that it has consumed (07 R194). -/
  checked : Nat
  /-- How the memory it reaches fails it, if it does. -/
  flt : Option Nat
  begun : Bool
  out : Nat
  status : Nat
  /-- Its command was answered as deferred (15 R361); a RESYNC marked it (15 R359). -/
  conv : Bool
  mute : Bool
  deriving DecidableEq, Repr

/-- A register access of a requester, word after word (17 R400 to R402): address of the next word, the words still to be
written, the bytes read, the first status other than DONE. -/
structure RegReq where
  addr : Nat
  write : Bool
  vals : List Word
  left : Nat
  out : List Byte
  status : Nat
  /-- The next word has been issued and waits in a crossing; its place in the order of arrival. -/
  issued : Bool
  ord : Nat
  /-- Endpoint command it belongs to: endpoint, opcode, number as of a deferred command, ARG, and where its response goes. -/
  link : Option (Fin 2 × Nat × Nat × Nat × Nat × Nat)
  /-- Its command was answered as deferred (15 R361); a RESYNC marked it (15 R359). -/
  conv : Bool
  mute : Bool
  deriving DecidableEq, Repr

/-- A load that the loader has taken (06 R171): endpoint, sequence number, image and report addresses. -/
structure Load where
  ep : Fin 2
  seq : Nat
  image : Nat
  report : Nat
  /-- The status by which an access of the loader has failed (07 R186, R198, R199). -/
  flt : Option Nat
  deriving DecidableEq, Repr

/-- A Trestle signal packet on its way (04 R112, 05 R155): from, to, counter, increment, its place in the order of Trestle traffic. -/
structure Pkt where
  src : SettId
  dst : SettId
  sg : BitVec 5
  inc : BitVec 16
  ord : Nat
  deriving DecidableEq, Repr

/-- A multicast copy on its way to a member (03 R80): runs of bytes with their store offsets and, where they come from HBM,
their physical addresses, and the counter its completion increments; none where the transfer stopped short (13 R322). -/
structure McDel where
  iss : SettId
  ch : Nat
  mem : SettId
  parts : List (Nat × Option Nat × List Byte)
  msig : Option Nat
  /-- Its place in the order of Trestle traffic (01 R20), and the old words of the member it has consumed (07 R193). -/
  ord : Nat
  checked : Nat
  deriving DecidableEq, Repr

end Sys2Proof.Machine
end

