-- ==== Sys2Proof/Machine/IntakeState.lean ====
section
/-!
DEFINITION. The state of Intake (14 R331 to R350).
-/
namespace Sys2Proof.Machine

/-- A sample a core decodes: its submission number, descriptor and profile (14 R334, R340). -/
structure InJob where
  seq : Nat
  desc : List Byte
  prof : List Byte
  deriving DecidableEq, Repr

/-- A finished sample in a staging slot (14 R339, R343). -/
structure InReady where
  core : Nat
  /-- Staging slot of the core, 0 or 1. -/
  slot : Nat
  seq : Nat
  id : Nat
  status : Nat
  prof : Nat
  conc : Nat
  total : Nat
  frame : Nat
  row : Nat
  col : Nat
  off : Nat
  mask : List Byte
  maskBits : Nat
  /-- Bytes of the tensor. -/
  size : Nat
  deriving DecidableEq, Repr

/-- A drop record (14 Table 14-4). -/
structure InDrop where
  id : Nat
  status : Nat
  conc : Nat
  off : Nat
  deriving DecidableEq, Repr

/-- The open or closing batch: its slots, each with whether its copy has completed. -/
structure InBatch where
  slots : List (InReady × Bool)
  drops : List InDrop
  dropCnt : Nat
  /-- CAUSE and module cycle of the close. -/
  closing : Option (Nat × Nat)
  deriving DecidableEq, Repr

structure InSt where
  cores : Vector (Option InJob) 8
  /-- Samples that wait in staging for a batch slot, in completion order. -/
  ready : List InReady
  batch : Option InBatch
  /-- Drops made while no batch is open. -/
  nextDrops : List InDrop
  nextCnt : Nat
  /-- The consumer's count. -/
  cons : Nat
  halted : Bool
  last : Nat
  /-- Submission numbers marked LAST whose close is still due. -/
  lasts : List Nat
  deriving DecidableEq, Repr

def InSt.reset : InSt :=
  { cores := Vector.replicate 8 none, ready := [], batch := none, nextDrops := [], nextCnt := 0, cons := 0, halted := false,
    last := 0, lasts := [] }

end Sys2Proof.Machine
end

