-- ==== Sys2Proof/Machine/PowerState.lean ====
section
/-!
DEFINITION. The state of the power unit, the boot ROM and the security block, and the pins (18 R415 to R432, 19 R435 to R439).
Registers that only hold a value stand in the register file.
-/
namespace Sys2Proof.Machine

structure PwSt where
  /-- A module reset is held. -/
  held : Bool
  /-- RESET_N is low. -/
  pinLow : Bool
  /-- The input has been below 30.0 V since the reset. -/
  lost : Bool
  /-- The warning cap of 18 R417 holds. -/
  warnCap : Bool
  /-- A software reset is due (18 R420). -/
  swDue : Bool
  /-- Input energy of the latest ticks in mJ, newest first, at most 9; budget B of the current tick in W. -/
  ticks : List Nat
  budget : Int
  deriving DecidableEq, Repr

/-- SC_STATUS.STAGE (18 R425, Table 18-11). -/
inductive Stage where
  | rom | waitsup | bringup | verify | run | recovery
  deriving DecidableEq, Repr

/-- An entry of the measurement log (18 Table 18-6). -/
structure MeasEnt where
  type : Nat
  svn : Nat
  cycle : Nat
  digest : List Byte
  deriving DecidableEq, Repr

/-- An ATTEST accepted: endpoint, sequence number, address, nonce, and what it snapshots (18 R429). -/
structure Attest where
  ep : Fin 2
  seq : Nat
  addr : Nat
  nonce : List Byte
  cycle : Nat
  flags : Nat
  rst : Nat
  m : List Byte
  log : List MeasEnt
  ctrs : List Nat
  deriving DecidableEq, Repr

structure ScSt where
  stage : Stage
  unlocked : Bool
  injEver : Bool
  recovery : Bool
  logFull : Bool
  locked : Bool
  slotB : Bool
  errA : Nat
  errB : Nat
  /-- CTR0 to CTR3, and the counter whose blow is in progress (18 R426). -/
  ctrs : Vector Nat 4
  blow : Option (Fin 4)
  /-- Number of the free value that is SC_DBG_NONCE. -/
  nonce : Nat
  m : List Byte
  log : List MeasEnt
  attest : List Attest
  /-- The identity key has been made (18 R428). -/
  keyed : Bool
  deriving DecidableEq, Repr

def PwSt.reset : PwSt :=
  { held := false, pinLow := false, lost := true, warnCap := false, swDue := false, ticks := [], budget := 2950 }

def ScSt.reset : ScSt :=
  { stage := .rom, unlocked := false, injEver := false, recovery := false, logFull := false, locked := false, slotB := false, errA := 0,
    errB := 0, ctrs := Vector.replicate 4 0, blow := none, nonce := 0, m := List.replicate 64 0, log := [], attest := [], keyed := false }

end Sys2Proof.Machine
end

