-- ==== Sys2Proof/Machine/ViaductState.lean ====
section
/-!
DEFINITION. The state of the Viaduct links, work queues and reduction gates (16 R377 to R393).
-/
namespace Sys2Proof.Machine

/-- A sequenced flit waiting for a credit (16 R381). -/
structure OutFlit where
  ty : Nat
  vc : Nat
  src : Nat
  dst : Nat
  sgen : Nat
  payload : List Byte
  deriving DecidableEq, Repr

/-- The link state of a port (16 R378 to R381). -/
structure VPort where
  up : Bool
  /-- A retrain is due or under way; the port is not up meanwhile. -/
  training : Bool
  rxShift : Nat
  txShift : Nat
  /-- Credits held for each virtual channel. -/
  credits : Vector Nat 3
  /-- SEQ of the next sequenced flit sent, and ACK: the last one received in order. -/
  txSeq : Nat
  rxAck : Nat
  /-- Sequenced flits sent and not acknowledged, oldest first. -/
  held : List (Nat × List Byte)
  waiting : List OutFlit
  /-- Failures in a row of the flit awaited, and NAKs in a row with one ACK. -/
  fails : Nat
  naks : Nat
  nakAck : Nat
  /-- A persistent injection spoils every resend of the flit awaited (17 R413). -/
  spoil : Bool
  deriving DecidableEq, Repr

def VPort.reset : VPort :=
  { up := false, training := false, rxShift := 0, txShift := 0, credits := Vector.replicate 3 0, txSeq := 0, rxAck := 0xFFF, held := [],
    waiting := [], fails := 0, naks := 0, nakAck := 0, spoil := false }

/-- How a contribution was classed when it opened (16 R388, R390): on time, late for the step that closes next (`soon`) or for
the one after, or dropped. -/
inductive VCls where
  | onTime (k : Nat)
  | late (k : Nat) (soon : Bool)
  | drop
  deriving DecidableEq, Repr

/-- An inbound message: the port it came by (none: an own rank) with the entry of its sender, its work-queue entry, its bytes. -/
structure VMsg where
  port : Option Nat
  orig : Nat × Nat
  src : Nat
  dst : Nat
  vc : Nat
  entry : List Byte
  data : List Byte
  full : Bool
  cls : Option VCls
  /-- Old words of sett windows that its write has consumed (07 R193). -/
  checked : Nat
  /-- The status by which an access of it has failed (07 R186, R198, R199). -/
  flt : Option Nat
  deriving DecidableEq, Repr

/-- An entry taken and not completed: queue, number, bytes, port of its route (none: LOCAL). -/
structure VRun where
  q : Nat
  k : Nat
  entry : List Byte
  port : Option Nat
  deriving DecidableEq, Repr

/-- The end of an entry that its status word holds up in a frozen sett (16 R383, 04 R110): queue, number, address, status, its LSIG
where it has one, the words consumed. -/
structure VEnd where
  q : Nat
  k : Nat
  addr : Nat
  status : Nat
  lsig : Option Word
  checked : Nat
  deriving DecidableEq, Repr

/-- VD_GATE_STATE.STATE (16 Table 16-7). -/
inductive GateSt where
  | idle | armed | opened | closing | closed
  deriving DecidableEq, Repr

/-- A reduction gate (16 R387 to R390). -/
structure Gate where
  st : GateSt
  step : Nat
  desc : List Byte
  members : List Nat
  openCyc : Nat
  closeCyc : Nat
  /-- OPEN + DEADLINE has been reached. -/
  due : Bool
  /-- On-time contributions, by member: complete or not. -/
  on : List (Nat × Bool)
  cut : List Nat
  /-- Late contributions for the step before: complete or not. -/
  late : List (Nat × Bool)
  /-- Late contributions for this step, with their bytes once complete. -/
  late2 : List (Nat × Option (List Byte))
  deriving DecidableEq, Repr

def Gate.reset : Gate := ⟨.idle, 0, [], [], 0, 0, false, [], [], [], []⟩

structure VdSt where
  ports : Vector VPort 8
  /-- TAIL value each queue last accepted. -/
  tails : Vector Nat 32
  run : List VRun
  /-- Entries completed while still queued (16 R379). -/
  skip : List (Nat × Nat)
  msgs : List VMsg
  /-- Statuses of entries to the module's own ranks: queue, number, status. -/
  done : List (Nat × Nat × Nat)
  /-- Entries that a sett's channel handed to a queue by writing its TAIL word and that have not completed: sett, queue, number
  (R382, 04 R123). -/
  owed : List (SettId × Nat × Nat)
  /-- Ends whose status words wait for a frozen sett, oldest first, and the words that the next source of each queue has consumed. -/
  ends : List VEnd
  checked : Tbl Nat
  gates : Vector Gate 64
  deriving DecidableEq, Repr

def VdSt.reset : VdSt :=
  { ports := Vector.replicate 8 VPort.reset, tails := Vector.replicate 32 0, run := [], skip := [], msgs := [], done := [], owed := [], ends := [], checked := [],
    gates := Vector.replicate 64 Gate.reset }

end Sys2Proof.Machine
end

