-- ==== Sys2Proof/Machine/State.lean ====
section
/-!
DEFINITION. The state of the module, its reset, and the reasons a step could stop.
-/
namespace Sys2Proof.Machine

/-- Reasons a step ends in a fault: none of the block's events stops it (every fault of the spec is a next state). -/
inductive Fault where
  /-- Raised by no meaning: kept so that the type is inhabited. Safe. -/
  | stuck
  deriving DecidableEq, Repr

/-- Reasons a command is refused. -/
inductive Refusal where
  /-- The command has no meaning in the model yet. Raised by Dispatch only. Safe. -/
  | notModelled (mnemonic : String)
  deriving DecidableEq, Repr

/-- An event record on its way to the log (17 Table 17-7); SEQ is given when it is offered. -/
structure EvRec where
  status : Nat
  inj : Bool
  src : Nat
  step : Nat
  layer : Nat
  cycle : Nat
  addr : Nat
  detail : List Byte
  deriving DecidableEq, Repr

/-- Interrupts pending to the management core. -/
inductive Irq where
  | settDone (u : SettId)
  | settResume (u : SettId)
  | chan (c : Chan)
  | logMark
  | cfgParity
  | intake
  | supply
  deriving DecidableEq, Repr

/-- A KV command's claim on frames that eviction is freeing (11 R300). -/
structure Move where
  page : Nat
  /-- HBM frame the page leaves and spill frame it moves to. -/
  hf : Nat
  bf : Nat
  u : SettId
  deriving DecidableEq, Repr

/-- The allocation that the KV allocator is evicting pages for: its walker, the issue cycle of its command, and a fault of one of its
moves (11 R300). -/
structure KvReq where
  u : SettId
  issue : Nat
  fault : Nat
  deriving DecidableEq, Repr

/-- A cached granule-table entry of a die (07 R191). -/
structure Gte where
  gran : Nat
  word : Nat
  deriving DecidableEq, Repr

structure State where
  pending : List Instr
  setts : Vector SettSt 256
  regs : RegFile
  hbm : Mem
  burrow : Mem
  /-- What remote memory last returned or was last given, by queue pair × 2^64 + remote virtual address (log entry 9). -/
  remote : Mem
  /-- Granule-table caches of the two dies (07 R191). -/
  gtc : Vector (List Gte) 2
  /-- Blocks halted by a configuration parity mismatch, by base (17 R407). -/
  cfgHalt : List Nat
  /-- Records made and not yet arrived at the log controller, in the order made. -/
  recs : List EvRec
  irqs : List Irq
  moves : List Move
  kvReq : Option KvReq
  /-- Allocator cursors of the KV pool (11 R289, R300). -/
  kvCursor : Nat
  kvEvict : Nat
  /-- Injection points: opportunities still to skip, by the key of INJ_CTL (17 R413). -/
  inj : Tbl Nat
  xsig : Vector Word 64
  xch : Vector DmaCh 64
  /-- Trestle signal packets on their way (04 R112, 05 R155), and the number of packets and multicast copies sent so far. -/
  pkts : List Pkt
  trOrd : Nat
  /-- Multicast copies not yet delivered (03 R80). -/
  mcast : List McDel
  eps : Vector EpSt 2
  qps : Tbl Qp
  roce : List RAcc
  /-- Memory accesses of the endpoints in progress, oldest first (15 R355). -/
  mems : List MemAcc
  /-- Receive-buffer units held, and pause quanta received, by priority (15 R373, R374); when each queue pair last sent a CNP. -/
  rxOcc : Vector Nat 8
  pause : Vector Nat 8
  cnpAt : Tbl Nat
  /-- Value and status of the last register access of endpoint A, endpoint B and the management core. -/
  rdata : Vector (Word × Nat) 3
  /-- Register accesses of the three requesters, the outstanding one first; count of words that have arrived at crossings. -/
  acc : Vector (List RegReq) 3
  accOrd : Nat
  /-- The _HI value latched for each requester, by key (17 R399). -/
  latch : Vector (Option (Nat × Word)) 3
  /-- Strobe groups not yet applied everywhere, and groups with a fire held (17 R405), one bit each. -/
  stbBusy : Nat
  stbHeld : Nat
  /-- The log controller (17 R411): arrival queue with SEQ, the record being written with its LOST flag, records offered,
  records lost since the last one written. -/
  logQ : List (Nat × EvRec)
  logCur : Option (Nat × EvRec × Bool)
  logSeq : Nat
  logGap : Bool
  /-- The load in progress (06 R171). -/
  load : Option Load
  /-- Command blocks that have reached a pier and wait to be dispatched, oldest first. -/
  hin : List (HIss × List Byte)
  /-- Holt commands in progress, oldest first, and the number of the next one. -/
  hcmds : List HCmd
  hnext : Nat
  /-- Sub-commands at each Holt, the running one first, by command number; and those waiting at the pier (08 R202). -/
  hq : Vector (List Nat) 128
  hwait : List (Nat × Nat)
  /-- Failures that running sub-commands have met (08 R226). -/
  hflt : List HFlt
  intake : InSt
  vd : VdSt
  pw : PwSt
  sc : ScSt
  /-- The boot flash and the management core's SRAM (18 R425). -/
  flash : Mem
  sram : Mem
  /-- TAP instruction; none in Test-Logic-Reset (19 R438). -/
  jtag : Option JtagInstr
  /-- What the module has sent, in order; frames of the host port that wait for a paused priority (15 R373). -/
  tx : List Tx
  txWait : List EthFrame
  cycle : Nat
  /-- The model's own counter of free values (log entry 1). -/
  freeCtr : Nat
  deriving DecidableEq, Repr

def State.reset : State :=
  { pending := [], setts := Vector.replicate 256 SettSt.reset, regs := RegFile.reset, hbm := [], burrow := [], remote := [],
    gtc := Vector.replicate 2 [], cfgHalt := [], recs := [], irqs := [], moves := [], kvReq := none, kvCursor := 0, kvEvict := 0, inj := [],
    xsig := Vector.replicate 64 0, xch := Vector.replicate 64 DmaCh.reset, pkts := [], trOrd := 0, mcast := [],
    eps := Vector.replicate 2 EpSt.reset, qps := [], roce := [], mems := [], rxOcc := Vector.replicate 8 0, pause := Vector.replicate 8 0, cnpAt := [],
    rdata := Vector.replicate 3 (0, 0), acc := Vector.replicate 3 [], accOrd := 0, latch := Vector.replicate 3 none, stbBusy := 0,
    stbHeld := 0, logQ := [], logCur := none, logSeq := 0, logGap := false, load := none, hin := [], hcmds := [], hnext := 0, hq := Vector.replicate 128 [], hwait := [], hflt := [], intake := InSt.reset, vd := VdSt.reset, pw := PwSt.reset, sc := ScSt.reset, flash := [],
    sram := [], jtag := none, tx := [], txWait := [], cycle := 0, freeCtr := 1 }

end Sys2Proof.Machine
end

