-- ==== Sys2Proof/Machine/Ops.lean ====
section
/-!
DEFINITION. Named operations every family uses: access to setts and registers, event records, interrupts, signal counters,
and the halt of a sett (04 R112 to R114, R128; 17 R410).
-/
namespace Sys2Proof.Machine

/-- A sett of the module. -/
def State.sett (s : State) (u : SettId) : SettSt := s.setts[u.val]

/-- Change one sett. -/
def State.modSett (s : State) (u : SettId) (f : SettSt → SettSt) : State :=
  { s with setts := s.setts.set u.val (f (s.setts[u.val])) }

/-- The active copy of a register. -/
def State.reg (s : State) (b : Blk) (o : Nat) : Word := s.regs.get b o

/-- Set the active copy of a register. -/
def State.setReg (s : State) (b : Blk) (o : Nat) (v : Word) : State := { s with regs := s.regs.set b o v }

/-- Set bits of a register. -/
def State.orReg (s : State) (b : Blk) (o : Nat) (m : Word) : State := s.setReg b o (s.reg b o ||| m)

/-- Set or clear one bit of a register. -/
def State.putBit (s : State) (b : Blk) (o i : Nat) (v : Bool) : State :=
  s.setReg b o (if v then s.reg b o ||| BitVec.ofNat 32 (2 ^ i) else s.reg b o &&& ~~~ BitVec.ofNat 32 (2 ^ i))

/-- A field of a register. -/
def State.fld (s : State) (b : Blk) (o hi lo : Nat) : Nat := fieldOf (s.reg b o) hi lo

/-- Add to a counter that stops at 0xFFFF_FFFF (07 R200, 09 R247, 11 R301, 13 R330). -/
def satAdd (v n : Nat) : Nat := min 0xFFFFFFFF (v + n)

/-- Add to a saturating counter register. -/
def State.bump (s : State) (b : Blk) (o n : Nat) : State :=
  s.setReg b o (BitVec.ofNat 32 (satAdd (s.reg b o).toNat n))

/-- A fresh free value, and the state with its counter advanced (log entry 1). -/
def State.fresh (s : State) : Nat × State :=
  (Config.freeValue s.freeCtr, { s with freeCtr := s.freeCtr + 1 })

/-- Make an event record, which then travels to the log controller (17 R410, R411). -/
def State.post (s : State) (r : EvRec) : State := { s with recs := s.recs ++ [r] }

/-- Raise an interrupt to the management core. -/
def State.raise (s : State) (q : Irq) : State :=
  if s.irqs.contains q then s else { s with irqs := s.irqs ++ [q] }

/-- With no command waiting the block idles: a cycle of the module passes (log entry 2). -/
def State.idle (s : State) : State := { s with cycle := s.cycle + 1 }

/-- The module sends something. -/
def State.emit (s : State) (t : Tx) : State := { s with tx := s.tx ++ [t] }

/-- The register block of a port: 0 the host port, 1 the management port. -/
def portBlk (p : Fin 2) : Blk := if p = 0 then .enHost else .enMgmt

/-- VLAN of the frames that a port sends, where it tags them (15 R372). -/
def State.vlan (s : State) (p : Fin 2) : Option Nat :=
  let v := s.reg (portBlk p) 0x24
  if Word.bit v 31 then some (fieldOf v 11 0) else none

/-- A port sends a frame of a priority; the host port starts none of a paused priority, which then waits (15 R372, R373). -/
def State.send (s : State) (p : Fin 2) (prio : Nat) (to_ : Nat × Nat) (sport : Nat) (body : EthBody) : State :=
  let f : EthFrame := { port := p, prio := prio, vlan := s.vlan p, dip := to_.1, sport := sport, dport := to_.2, body := body }
  if p = 0 && s.pause.toList.getD prio 0 != 0 then { s with txWait := s.txWait ++ [f] } else s.emit (.eth f)

/-- A datagram of an endpoint: command transport, with EN_CT's priority, from EN_CT's port (15 R354, R372; log entry 53). -/
def State.sendCt (s : State) (ep : Fin 2) (to_ : Nat × Nat) (body : EthBody) : State :=
  let v := s.reg (portBlk ep) 0x28
  s.send ep (fieldOf v 18 16) to_ (fieldOf v 15 0) body

/-- A RoCEv2 frame of a queue pair: to its peer, with its priority and source port, to UDP port 4791 (15 R369, R372). -/
def State.sendRoce (s : State) (n : Nat) (body : EthBody) : State :=
  let q := Tbl.get s.qps n Qp.reset
  s.send 0 q.prio (q.dip, 4791) q.sport body

/-- Is a block halted by a configuration parity mismatch (17 R407)? -/
def State.cfgBad (s : State) (b : Blk) : Bool := s.cfgHalt.contains b.base

/-- A notification of an endpoint (15 R368): sent to the address and port of NOTIFY_SET where the event's mask bit is set. -/
def State.notify (s : State) (ep : Fin 2) (event status arg : Nat) : State :=
  let e := s.eps[ep.val]
  if bitOf e.mask event then
    { s with eps := s.eps.set ep.val { e with noteCnt := (e.noteCnt + 1) % 2 ^ 32 } }.sendCt ep
      (leNat (e.naddr.take 16), leNat (e.naddr.drop 16)) (.note event ((e.noteCnt + 1) % 2 ^ 32) status arg s.cycle)
  else s

/-- A notification to both endpoints. -/
def State.notifyBoth (s : State) (event status arg : Nat) : State := (s.notify 0 event status arg).notify 1 event status arg

/-- The result of a deferred command becomes ready (15 R362); a command that a RESYNC marked is retired instead (R359). -/
def State.deferDone (s : State) (ep : Fin 2) (seq status : Nat) (data : List Byte) : State :=
  let e := s.eps[ep.val]
  match e.held.find? (fun h => h.seq == seq && h.ready.isNone) with
  | none => s
  | some h =>
    if h.marked then { s with eps := s.eps.set ep.val { e with held := e.held.erase h } }
    else
      { s with eps := s.eps.set ep.val { e with held := e.held.map (fun x =>
          if x = h then { x with ready := some (status, data) } else x) } }.notify ep 0 status (seq % 2 ^ 32)

/-- SRC of a block of a sett. -/
def settSrc (u : SettId) (block : Nat) : Nat := srcCode 0 (dieOf u) (numOf u) block

/-- The layer field of a sett's records: SQ_CUR.REGION, or 0xFFFF where no region is active. -/
def SettSt.layer (t : SettSt) : Nat :=
  match t.region with
  | some id => id.toNat
  | none => 0xFFFF

/-- A sett's event record from one of its blocks. An island's copy of the counter may lag the master by 0 to 4 counts (01 R29); the model
stamps every record with the master count (log entry 51). -/
def State.postSett (s : State) (u : SettId) (block status layer : Nat) (inj : Bool) (detail : List Byte) : State :=
  s.post { status := status, inj := inj, src := settSrc u block, step := (s.sett u).step.toNat, layer := layer,
           cycle := s.cycle, addr := 0, detail := detail }

/-- A counter of 32 bits after an increment, and whether it saturated (04 R114). -/
def sigBump (v : Word) (k : Nat) : Word × Bool :=
  let n := v.toNat + k
  if 0xFFFFFFFF < n then (BitVec.ofNat 32 0xFFFFFFFF, true) else (BitVec.ofNat 32 n, false)

/-- SQ_STATUS sticky bits. -/
def stkShadow : Word := 0x0800
def stkHostLost : Word := 0x1000
def stkSigSat : Word := 0x2000
def stkGoRefused : Word := 0x4000

/-- An increment of a signal counter as the sequencer applies it (04 R112 to R114). -/
def SettSt.sigAdd (t : SettSt) (n : BitVec 5) (k : Nat) : SettSt :=
  let (v, sat) := sigBump t.sig[n.toNat] k
  { t with sig := t.sig.set n.toNat v, sticky := if sat then t.sticky ||| stkSigSat else t.sticky }

/-- An increment that reaches a sett, from a TSIG of sett `src` where one sent it: during a freeze it is applied in the first cycle
after it (04 R110). -/
def SettSt.sigArrive (t : SettSt) (n : BitVec 5) (k : Nat) (src : Option SettId := none) : SettSt :=
  match t.freeze with
  | some _ => { t with lateSig := t.lateSig ++ [(n, k, src)] }
  | none => t.sigAdd n k

/-- An increment of SIG[n] of a sett. -/
def State.sig (s : State) (u : SettId) (n : BitVec 5) (k : Nat) (src : Option SettId := none) : State :=
  if k = 0 then s else s.modSett u (fun t => t.sigArrive n k src)

/-- An increment of DM_XSIG[n] (13 R325). -/
def State.xsigAdd (s : State) (n : BitVec 6) (k : Nat) : State :=
  { s with xsig := s.xsig.set n.toNat (sigBump s.xsig[n.toNat] k).1 }

/-- The increment that a word in the layout of IN_NOTIFY names (14 Table 14-8, 13 R326). -/
def State.targetSig (s : State) (v : Word) : State :=
  if !Word.bit v 31 then s
  else if Word.bit v 14 then s.xsigAdd (v.extractLsb' 0 6) 1
  else if 32 ≤ fieldOf v 5 0 then s
  else s.sig (settOf (fieldOf v 13 13) (fieldOf v 12 6)) (v.extractLsb' 0 5) 1

/-- Index of engine e (1 to 9) among the engines of a sett. -/
def engIx (e : BitVec 4) : Fin 9 := ⟨(e.toNat - 1) % 9, Nat.mod_lt _ (by decide)⟩

/-- Is e the number of an engine with a queue (04 Table 04-2)? -/
def engOk (e : BitVec 4) : Bool := decide (1 ≤ e.toNat) && decide (e.toNat ≤ 9)

/-- An engine of a sett. -/
def SettSt.engine (t : SettSt) (e : BitVec 4) : Eng := t.eng[(engIx e).val]

/-- Does a command that names the engine stall: its queue holds 16, or has been freed of an entry in this very cycle (04 R103)? -/
def SettSt.queueFull (t : SettSt) (e : BitVec 4) : Bool :=
  decide (16 ≤ (t.engine e).queue.length) || decide (t.cyc < (t.engine e).room)

/-- Change an engine of a sett. -/
def SettSt.modEng (t : SettSt) (e : BitVec 4) (f : Eng → Eng) : SettSt :=
  { t with eng := t.eng.set (engIx e).val (f (t.eng[(engIx e).val])) }

/-- Has any engine of the sett a queued or running command (04 Table 04-7, ENG_BUSY)? -/
def SettSt.engBusy (t : SettSt) : Bool :=
  t.eng.toList.any (fun e => !e.queue.isEmpty || !e.run.isEmpty)

/-- Has the sett drained (04 R123, R127): no command of its engines is queued or running (a Holt command, a DMA program and a KV
walk are running commands of their engines), and no Viaduct transfer that its channels started is still to complete (16 R382). -/
def State.drained (s : State) (u : SettId) : Bool := !(s.sett u).engBusy && !s.vd.owed.any (fun o => o.1 == u)

/-- The queued commands of an engine complete with ABORTED (04 R128 step 2). -/
def Eng.abortQueue (e : Eng) : Eng :=
  if e.queue.isEmpty then e else { e with queue := [], last := Code.aborted, checked := 0, named := false }

/-- An abort raised on a channel (13 R329): it issues no new burst; a HALT that has begun its wait goes on. -/
def DmaCh.abort (c : DmaCh) : DmaCh :=
  match c.st with
  | .run => { c with st := .aborting }
  | .wait => { c with st := .aborting, waiting := none }
  | .fence =>
    match c.fence with
    | some w => if bitsOf w.toNat 63 60 = 6 then c else { c with st := .aborting, fence := none }
    | none => c
  | _ => c

/-- SQ_HALT_INFO (04 Table 04-10). -/
def haltWord (status engine cause index : Nat) : Word :=
  BitVec.ofNat 32 (status * 2 ^ 24 + engine * 2 ^ 20 + cause * 2 ^ 16 + index % 2 ^ 15)

/-- The halt of a sett (04 R128): issue stops, queued commands complete with ABORTED, started ones run on, the channels
abort, SQ_HALT_INFO is recorded and one event record is written. A sett already halted keeps its record. -/
def State.haltSett (s : State) (u : SettId) (status engine cause index : Nat) (inj : Bool := false) : State :=
  if (s.sett u).st = .halted then s
  else
    let w := haltWord status engine cause index
    let s1 := s.modSett u (fun t =>
      { t with st := .halted, hold := .none, held := 0, stepReq := false, haltInfo := w, lastFault := status,
               eng := t.eng.map Eng.abortQueue, ch := t.ch.map DmaCh.abort })
    let s2 := s1.postSett u 0 status (s.sett u).layer inj (leBytes 4 w.toNat)
    if cause = 2 then s2.notifyBoth 3 status (dieOf u * 256 + numOf u) else s2

/-- A break is taken (04 R129): SQ_HALT_INFO holds the cause and the instruction concerned. A WAITS is abandoned; a drain keeps
the cycles it has lasted, for the break only stops the watchdog's count (04 R115). -/
def SettSt.takeBreak (t : SettSt) (cause index : Nat) : SettSt :=
  { t with st := .brk, stepReq := false,
           hold := (match t.hold with
             | .waits _ _ _ => .none
             | h => h),
           held := (match t.hold with
             | .rend => t.cyc - t.held
             | .halt => t.cyc - t.held
             | _ => 0),
           brkSeen := t.brkSeen || cause == 5, haltInfo := haltWord 0 0 cause index }

/-- Set a sticky VE flag with the capture of its first occurrence (10 R258). -/
def State.veFlag (s : State) (u : SettId) (bit capCmd capIdx seq : Nat) (idx : Option Nat) : State :=
  match idx with
  | none => s
  | some i =>
    if Word.bit (s.reg (.ve u) 0x04) bit then s
    else ((s.orReg (.ve u) 0x04 (BitVec.ofNat 32 (2 ^ bit))).setReg (.ve u) capCmd (BitVec.ofNat 32 seq)).setReg (.ve u) capIdx
      (BitVec.ofNat 32 i)

/-- A vector command completes with DONE: its flags and captures, under the sequence number that VE_SEQ holds, which then counts it
(10 R258). -/
def State.veDone (s : State) (u : SettId) (issue : Nat) : State :=
  let seq := s.reg (.ve u) 0x10
  let s1 := match (s.sett u).veDue.find? (fun n => n.issue == issue) with
    | some n => ((s.veFlag u 0 0x14 0x18 seq.toNat n.nan).veFlag u 1 0x1C 0x20 seq.toNat n.sat).orReg (.ve u) 0x04 (BitVec.ofNat 32 n.bits)
    | none => s
  (s1.modSett u (fun t => { t with veDue := t.veDue.filter (fun n => n.issue != issue) })).setReg (.ve u) 0x10 (seq + 1)

/-- A command completes (05 R134, R140; 04 R128): its engine keeps the status, its signal increment is made where the
status is below 0x10 or ENGINE_ABSENT, and any other status halts the sett. -/
def State.completeCmd (s : State) (u : SettId) (e : BitVec 4) (q : QCmd) (status : Status) (inj : Bool := false) : State :=
  let s1 := s.modSett u (fun t => t.modEng e (fun g => { g with last := status }))
  let s2 := if e = 1 && status = Code.spilled then s1.orReg (.te u) 0x10 4 else s1
  let s3 := if e = 2 && status = Code.done then s2.veDone u q.issue else s2
  if status < 0x10 || status = Code.engineAbsent then
    if q.hdr.sen then s3.sig u q.hdr.sign 1 else s3
  else s3.haltSett u status e.toNat 2 q.index inj

/-- A word of the sett store. -/
def SettSt.word (t : SettSt) (a : Nat) : Nat := t.store.num a 4

/-- The 4-byte words that a byte range touches. -/
def wordsOf (a n : Nat) : List Nat :=
  if n = 0 then [] else (List.range ((a + n - 1) / 4 + 1 - a / 4)).map (fun i => (a / 4 + i) * 4)

/-- Is the word at `w` wholly inside the range? -/
def coversWord (a n w : Nat) : Bool := decide (a ≤ w) && decide (w + 4 ≤ a + n)

/-- A write into the sett store: words wholly written get good parity, the lines touched stop being clean (07 R193, R195). -/
def SettSt.putStore (t : SettSt) (a : Nat) (bs : List Byte) : SettSt :=
  if bs.isEmpty then t else
  { t with store := t.store.store a bs,
           bad := t.bad.filter (fun b => match b with
             | .store w => !coversWord a bs.length w
             | _ => true),
           clean := t.clean.filter (fun c => decide (c.1 < a / 4096) || decide ((a + bs.length - 1) / 4096 < c.1)) }

/-- A write into the WAB. -/
def SettSt.putWab (t : SettSt) (a : Nat) (bs : List Byte) : SettSt :=
  { t with wab := t.wab.store a bs,
           bad := t.bad.filter (fun b => match b with
             | .wab w => !coversWord a bs.length w
             | _ => true) }

/-- Bytes of the sett store (07 Table 07-3). -/
def storeSize : Nat := 0x300000

/-- Bytes of the WAB (07 Table 07-3). -/
def wabSize : Nat := 0x100000

end Sys2Proof.Machine
end

