-- ==== Sys2Proof/Machine/Operands.lean ====
section
/-!
DEFINITION. Tile descriptors: layout, capture of extents at issue, the checks at start, and access to elements and block
scales (06 R161 to R170, 02 R42, R51).
-/
namespace Sys2Proof.Machine

/-- A dimension field (06 Table 06-6). -/
structure Dim where
  xsel : Nat
  xsrc : Nat
  bound : Nat
  stride : Int
  raw : Nat
  deriving DecidableEq, Repr

/-- A tile descriptor (06 Table 06-5). -/
structure Desc where
  base : Nat
  trn : Bool
  ndim : Nat
  fmtc : Nat
  csp : Bool
  space : Nat
  bdim : Nat
  bsptr : Nat
  mcg : Nat
  cscale : Nat
  plc : Nat
  pld : Nat
  pl : Bool
  dims : List Dim
  /-- Reserved bits of bytes 7 and 13 are 0. -/
  resv : Bool
  deriving DecidableEq, Repr

/-- A dimension from its 72 bits. -/
def Dim.parse (v : Nat) : Dim :=
  { xsel := bitsOf v 71 59, xsrc := bitsOf v 58 57, bound := bitsOf v 56 32 + 1, stride := signedOf 32 (bitsOf v 31 0), raw := v }

/-- A descriptor from its 64 bytes. -/
def Desc.parse (bs : List Byte) : Desc :=
  let n (o k : Nat) : Nat := leNat ((bs.drop o).take k)
  let b6 := n 6 1
  let b7 := n 7 1
  let b13 := n 13 1
  let b18 := n 18 1
  { base := n 0 6, trn := bitOf b6 7, ndim := bitsOf b6 6 4, fmtc := bitsOf b6 3 0, csp := bitOf b7 5, space := bitsOf b7 4 3,
    bdim := bitsOf b7 2 0, bsptr := n 8 5, mcg := bitsOf b13 5 0, cscale := n 14 4, plc := bitsOf b18 7 4,
    pld := bitsOf b18 3 1, pl := bitOf b18 0, dims := (List.range 5).map (fun d => Dim.parse (n (19 + 9 * d) 9)),
    resv := bitsOf b7 7 6 == 0 && bitsOf b13 7 6 == 0 }

/-- Dimension k, all zero beyond the fifth. -/
def Desc.dim (d : Desc) (k : Nat) : Dim := d.dims.getD k ⟨0, 0, 1, 0, 0⟩

/-- Bytes of the descriptor named by a 14-bit field (05 R136). -/
def SettSt.descBytes (t : SettSt) (f : BitVec 14) : List Byte := t.store.load (f.toNat * 64) 64

/-- The descriptor named by a 14-bit field. -/
def SettSt.desc (t : SettSt) (f : BitVec 14) : Desc := Desc.parse (t.descBytes f)

/-- The counters as an instruction reads them (04 R116, R120). -/
def SettSt.ctr (t : SettSt) (n : Nat) : Nat := (t.ct.toList.getD (n % 16) 0).toNat

/-- Plan bound of dimension k; dimensions at or above NDIM act as extent 1 (06 R162). -/
def Desc.bound (d : Desc) (k : Nat) : Nat := if k < d.ndim then (d.dim k).bound else 1

/-- The extent of dimension k as issue captures it (06 R167). -/
def Desc.extent (d : Desc) (t : SettSt) (k : Nat) : Nat :=
  if k < d.ndim then
    match (d.dim k).xsrc with
    | 1 => t.ctr (d.dim k).xsel
    | 2 => t.word (4 * (d.dim k).xsel)
    | _ => (d.dim k).bound
  else 1

/-- What issue captures of a descriptor: five extents, then the first pointer-list index (06 R168, R170). -/
def Desc.capture (d : Desc) (t : SettSt) : List Nat :=
  (List.range 5).map (fun k => d.extent t k) ++ [if d.pl then t.ctr d.plc else 0]

/-- Stored dimension that is blocked: the transpose option exchanges dimensions 0 and 1, and BDIM names the place after it
(06 R166; log entry 10). -/
def Desc.sbdim (d : Desc) : Nat := if d.trn && d.bdim < 2 then 1 - d.bdim else d.bdim

def Desc.isLn (d : Desc) : Bool := decide (d.fmtc < 4)

/-- The format; FP32 stands for a reserved code, which every check refuses first. -/
def Desc.fmt (d : Desc) : Fmt := (Fmt.ofCode d.fmtc).getD .fp32

/-- Are the descriptor's own fields valid (06 R161, R162, R167, R170, Table 06-7 check 0x07)? -/
def Desc.fieldsOk (d : Desc) : Bool :=
  decide (d.fmtc < 12) && decide (1 ≤ d.ndim) && decide (d.ndim ≤ 5) && decide (d.space < 3) && d.resv &&
  (List.range 5).all (fun k =>
    let x := d.dim k
    if d.ndim ≤ k then x.raw == 0 else x.xsrc != 3 && (x.xsrc != 1 || x.xsel < 16)) &&
  (if d.isLn then decide (d.bdim < d.ndim) else d.bdim == 0) &&
  (!d.csp || (d.cscale % 4 == 0 && decide (d.cscale < storeSize))) &&
  (!d.pl || (decide (d.pld < d.ndim) && d.pld != d.bdim && d.base == 0 && d.bsptr == 0 &&
    bitsOf (d.dim d.pld).raw 31 0 % 16 == 0))

/-- Can a command use the descriptor: its fields are valid, and the header of its pointer list lies in the store (06 R169, R170)? -/
def Desc.valid (d : Desc) : Bool := d.fieldsOk && (!d.pl || decide (bitsOf (d.dim d.pld).raw 31 0 + 16 ≤ storeSize))

/-- Does dimension k take part in the element offset (06 R164, R170)? -/
def Desc.counts (d : Desc) (k : Nat) : Bool := !(d.pl && k == d.pld)

/-- Least and greatest element offset over given extents, each at least 1 (06 R164). -/
def Desc.offRange (d : Desc) (ext : List Nat) : Int × Int :=
  (List.range 5).foldl (fun (lo, hi) k =>
    if d.counts k then
      let top := ((ext.getD k 1 : Nat) - 1 : Int) * (d.dim k).stride
      if top < 0 then (lo + top, hi) else (lo, hi + top)
    else (lo, hi)) (0, 0)

/-- Bytes per element of the formats of 8 bits and more. -/
def Desc.esize (d : Desc) : Nat := max 1 (d.fmt.bits / 8)

/-- Inclusive byte range of one plane relative to BASE (06 R164). -/
def Desc.byteRange (d : Desc) (ext : List Nat) : Int × Int :=
  let (lo, hi) := d.offRange ext
  if d.fmtc = 0 then (lo / 2, hi / 2) else (lo * d.esize, hi * d.esize + d.esize - 1)

def Desc.bounds (d : Desc) : List Nat := (List.range 5).map d.bound

/-- Byte size of a plane, rounded up to 4 KiB (02 R51; its footprint at plan bounds, log entry 10). -/
def Desc.planeSize (d : Desc) : Nat :=
  let (lo, hi) := d.byteRange d.bounds
  roundUp (hi - lo + 1).toNat 4096

/-- Size of dimension k in the block-scale array (06 R165). -/
def Desc.bsDim (d : Desc) (k : Nat) : Nat := if k = d.sbdim then ceilDiv (d.bound k) 32 else d.bound k

/-- Number of block scales in one plane (06 R165, R170). -/
def Desc.bsCount (d : Desc) : Nat :=
  (List.range 5).foldl (fun n k => if d.counts k then n * d.bsDim k else n) 1

/-- Position of the block scale of an element in its plane (06 R165). -/
def Desc.bsOff (d : Desc) (ix : List Nat) : Nat :=
  ((List.range 5).foldl (fun (p : Nat × Nat) k =>
    if d.counts k then
      let i := ix.getD k 0
      (p.1 + (if k = d.sbdim then i / 32 else i) * p.2, p.2 * d.bsDim k)
    else p) (0, 1)).1

/-- Pointer-list offset (06 R170). -/
def Desc.listOff (d : Desc) : Nat := bitsOf (d.dim d.pld).raw 31 0

/-- The pointer-list entries a command uses, (BASE, block-scale base); none where the list is too short or leaves the
store (06 R170). Without a pointer list, the descriptor's own. -/
def Desc.entries (d : Desc) (t : SettSt) (ext : List Nat) : Option (List (Nat × Nat)) :=
  if d.pl then
    let off := d.listOff
    let n := ext.getD d.pld 1
    let j0 := ext.getD 5 0
    if t.word off < j0 + n || storeSize < off + 16 + 16 * (j0 + n) then none
    else some ((List.range n).map (fun i =>
      let a := off + 16 + 16 * (j0 + i)
      (t.store.num a 6, t.store.num (a + 8) 5 * 256)))
  else some [(d.base, d.bsptr * 256)]

/-- The FP32 coarse scale in force (06 R165). -/
def Desc.coarse (d : Desc) (t : SettSt) : Nat := if d.csp then t.word d.cscale else d.cscale

/-- Size of a descriptor's space. -/
def spaceSize (space : Nat) : Nat := if space = 1 then wabSize else storeSize

/-- Alignment of element bases (06 R164) and of a transposed operand (03 R78). -/
def Desc.aligned (d : Desc) (ents : List (Nat × Nat)) : Bool :=
  ents.all (fun e => e.1 % d.esize == 0) &&
  (!d.trn || (ents.all (fun e => if d.fmtc = 0 then e.1 % 4 == 0 else e.1 % (8 * d.esize) == 0) &&
    (d.dim 0).stride % 8 == 0 && (d.dim 1).stride % 8 == 0))

/-- Footprint and block scales within the space (06 R163 to R165, log entry 10). -/
def Desc.inside (d : Desc) (ents : List (Nat × Nat)) : Bool :=
  let (lo, hi) := d.byteRange d.bounds
  let extra : Nat := (d.fmt.planes - 1) * d.planeSize
  let size := spaceSize d.space
  ents.all (fun e =>
    decide (0 ≤ (e.1 : Int) + lo) && decide ((e.1 : Int) + hi + extra < size) &&
    (!d.isLn || decide (e.2 + d.bsCount + (d.fmt.planes - 1) * roundUp d.bsCount 4096 ≤ size)))

/-- First status of a list that is not DONE. -/
def firstFault : List Status → Status
  | [] => Code.done
  | c :: cs => if c = Code.done then firstFault cs else c

/-- A status where a condition fails. -/
def demand (ok : Bool) (c : Status) : Status := if ok then Code.done else c

/-- The checks a command makes of its descriptors at its start, after SHAPE_OVER and zero extents (06 R169 step 3):
fields and spaces, coarse scales, alignment, then bounds. `spaces` are the spaces the engine takes (06 R163). -/
def checkDescs (t : SettSt) (spaces : List Nat) (l : List (Desc × List Nat)) : Status :=
  firstFault
    (l.map (fun p => demand (p.1.valid && spaces.contains p.1.space) Code.bounds) ++
     l.map (fun p => demand (!p.1.isLn || f32CoarseOk (p.1.coarse t)) Code.bounds) ++
     l.map (fun p => demand (p.1.aligned ((p.1.entries t p.2).getD [])) Code.align) ++
     l.map (fun p => match p.1.entries t p.2 with
       | none => Code.bounds
       | some es => demand (p.1.inside es) Code.bounds))

/-- Any captured extent above its plan bound (06 R169 step 1). -/
def Desc.exceeds (d : Desc) (ext : List Nat) : Bool := (List.range 5).any (fun k => decide (d.bound k < ext.getD k 1))

/-- Any captured extent zero (06 R169 step 2). -/
def Desc.empty (d : Desc) (ext : List Nat) : Bool := (List.range (min d.ndim 5)).any (fun k => ext.getD k 1 == 0)

/-- Stored dimension of K in tensor operand A (`b` false) or B (06 R166). -/
def Desc.kdim (d : Desc) (b : Bool) : Nat := if b != d.trn then 1 else 0

/-- An MMA's SHAPE_OVER and zero tests leave K out (06 R169). -/
def Desc.overX (d : Desc) (b : Bool) (ext : List Nat) : Bool :=
  (List.range 5).any (fun k => k != d.kdim b && decide (d.bound k < ext.getD k 1))
def Desc.emptyX (d : Desc) (b : Bool) (ext : List Nat) : Bool :=
  (List.range (min d.ndim 5)).any (fun k => k != d.kdim b && ext.getD k 1 == 0)

/-- A descriptor ready for access: its entries, its coarse scale and the memory it lies in. -/
structure View where
  d : Desc
  ext : List Nat
  ents : List (Nat × Nat)
  c : Num
  deriving Repr

/-- The view of a descriptor that passed its checks. -/
def Desc.view (d : Desc) (t : SettSt) (ext : List Nat) : View :=
  ⟨d, ext, (d.entries t ext).getD [], if d.isLn then f32Num (d.coarse t) else f32Num 0x3F800000⟩

/-- Memory of a space of a sett. -/
def SettSt.spaceMem (t : SettSt) (space : Nat) : Mem := if space = 1 then t.wab else t.store

/-- Base of the elements that an index selects. -/
def View.entry (v : View) (ix : List Nat) : Nat × Nat :=
  v.ents.getD (if v.d.pl then ix.getD v.d.pld 0 else 0) (0, 0)

/-- Element offset of an index (06 R164). -/
def View.eoff (v : View) (ix : List Nat) : Int :=
  (List.range 5).foldl (fun e k => if v.d.counts k then e + (ix.getD k 0 : Nat) * (v.d.dim k).stride else e) 0

/-- Byte address of an element in plane p (06 R164, 02 R51). -/
def View.addr (v : View) (ix : List Nat) (p : Nat) : Nat :=
  let e := v.eoff ix
  let b : Int := (v.entry ix).1
  if v.d.fmtc = 0 then (b + e / 2).toNat else (b + e * v.d.esize).toNat + p * v.d.planeSize

/-- The code of an element in plane p. -/
def View.code (v : View) (m : Mem) (ix : List Nat) (p : Nat) : Nat :=
  let a := v.addr ix p
  if v.d.fmtc = 0 then
    let b := (m.read a).toNat
    if v.eoff ix % 2 = 0 then b % 16 else b / 16
  else m.num a v.d.esize

/-- Address of the block scale of an element in plane p (06 R165). -/
def View.bsAddr (v : View) (ix : List Nat) (p : Nat) : Nat :=
  (v.entry ix).2 + v.d.bsOff ix + p * roundUp v.d.bsCount 4096

/-- The block scale of an element in plane p. -/
def View.bs (v : View) (m : Mem) (ix : List Nat) (p : Nat) : Int := signedOf 8 (m.read (v.bsAddr ix p)).toNat

/-- A write of bytes into a space of a sett. -/
def SettSt.putSpace (t : SettSt) (space a : Nat) (bs : List Byte) : SettSt :=
  if space = 1 then t.putWab a bs else t.putStore a bs

/-- Write the code of an element in plane p. -/
def View.set (v : View) (t : SettSt) (ix : List Nat) (p code : Nat) : SettSt :=
  let a := v.addr ix p
  if v.d.fmtc = 0 then
    let b := ((t.spaceMem v.d.space).read a).toNat
    t.putSpace v.d.space a [BitVec.ofNat 8 (if v.eoff ix % 2 = 0 then b / 16 * 16 + code % 16 else b % 16 + 16 * (code % 16))]
  else t.putSpace v.d.space a (leBytes v.d.esize code)

/-- Write the block scale of an element in plane p. -/
def View.setBs (v : View) (t : SettSt) (ix : List Nat) (p : Nat) (bs : Int) : SettSt :=
  t.putSpace v.d.space (v.bsAddr ix p) [BitVec.ofNat 8 (twosOf 8 bs)]

/-- The LN8 code of a stored LN code (02 R39). -/
def View.ln8 (v : View) (code : Nat) : Nat := if v.d.fmtc = 0 then ln4Widen code else code

/-- The exact value of an element: the sum of its pieces for an LN format (02 R41, R54). -/
def View.num (v : View) (m : Mem) (ix : List Nat) : Num :=
  if v.d.isLn then
    (List.range v.d.fmt.planes).foldl (fun x p => x.add (ln8Num (v.ln8 (v.code m ix p)) (v.bs m ix p) v.c)) Num.zero
  else decodeElem v.d.fmt (v.code m ix 0)

/-- Every index of given extents, dimension 0 fastest. -/
def indices : List Nat → List (List Nat)
  | [] => [[]]
  | n :: ns => (indices ns).flatMap (fun r => (List.range n).map (fun i => i :: r))

/-- The indices of a view's actual extents. -/
def View.indices (v : View) : List (List Nat) := Machine.indices (v.ext.take 5)

/-- Where an element lies in plane p, in half bytes: its first one and how many. -/
def View.span (v : View) (ix : List Nat) (p : Nat) : Nat × Nat :=
  if v.d.fmtc = 0 then (2 * v.addr ix p + (v.eoff ix % 2).toNat, 1) else (2 * v.addr ix p, 2 * v.d.esize)

/-- Runs of half bytes, each joined to the one before where it follows it. -/
def joinSpans (l : List (Nat × Nat)) : List (Nat × Nat) :=
  (l.foldl (fun acc x => match acc with
    | y :: ys => if y.1 + y.2 = x.1 then (y.1, y.2 + x.2) :: ys else x :: y :: ys
    | [] => [x]) []).reverse

/-- The runs that the block scales of a view lie in. -/
def View.scaleSpans (v : View) : List (Nat × Nat) :=
  if v.d.isLn then
    let firsts := v.indices.filter (fun ix => ix.getD v.d.sbdim 0 % 32 == 0)
    joinSpans ((List.range v.d.fmt.planes).flatMap (fun p => firsts.map (fun ix => (2 * v.bsAddr ix p, 2))))
  else []

/-- The runs that the elements and block scales of a view's actual extents lie in. -/
def View.spans (v : View) : List (Nat × Nat) :=
  joinSpans ((List.range v.d.fmt.planes).flatMap (fun p => v.indices.map (fun ix => v.span ix p))) ++ v.scaleSpans

/-- The words that runs touch, one after another, a word named once where runs share it in passing. -/
def spanWords (l : List (Nat × Nat)) : List Nat :=
  ((l.flatMap (fun x => (List.range ((x.1 + x.2 + 7) / 8 - x.1 / 8)).map (fun i => 4 * (x.1 / 8 + i)))).foldl (fun acc w =>
    if acc.head? = some w then acc else w :: acc) []).reverse

/-- Do the runs hold every part of a word? -/
def spansCover (l : List (Nat × Nat)) (w : Nat) : Bool :=
  (List.range 8).all (fun i => l.any (fun x => decide (x.1 ≤ 2 * w + i) && decide (2 * w + i < x.1 + x.2)))

/-- The words that runs touch and do not hold whole. -/
def partWords (l : List (Nat × Nat)) : List Nat :=
  ((l.flatMap (fun x => (if x.1 % 8 = 0 then [] else [x.1 / 8 * 4]) ++
    (if (x.1 + x.2) % 8 = 0 then [] else [(x.1 + x.2) / 8 * 4]))).eraseDups).filter (fun w => !spansCover l w)

/-- A command has written runs of a space: the words it wrote whole have good parity (07 R193, log entry 52). -/
def SettSt.wrote (t : SettSt) (space : Nat) (l : List (Nat × Nat)) : SettSt :=
  if t.bad.isEmpty then t
  else { t with bad := t.bad.filter (fun b => match b with
    | .store w => space == 1 || !spansCover l w
    | .wab w => space != 1 || !spansCover l w
    | _ => true) }

end Sys2Proof.Machine
end

