-- ==== Sys2Proof/Machine/Parity.lean ====
section
/-!
DEFINITION. Injection points and the check of the words a sett consumes (07 R193, R194; 17 R412 to R414).
-/
namespace Sys2Proof.Machine

/-- `k` opportunities of injection point p of a block whose SEL matches (17 R413): the 0-based opportunity at which the
point fires, with PERSIST, and the state after the opportunities up to it. -/
def State.injStep (s : State) (b : Blk) (p : Nat) (sel : Nat → Bool) (k : Nat) : Option (Nat × Bool) × State :=
  let o := 0x100 + 16 * p
  let ctl := s.reg b o
  if (s.reg .injX 0).toNat % 2 = 1 && Word.bit ctl 28 && sel (fieldOf ctl 23 0) then
    let rem := Tbl.get s.inj (b.key o) 0
    if rem < k then
      let s1 := s.bump b (o + 12) 1
      let s2 := if Word.bit ctl 30 then
          { s1 with inj := Tbl.put s1.inj (b.key o) ((s.reg b (o + 8)).toNat - 1) }
        else
          { s1.setReg b o (ctl &&& 0x6FFFFFFF) with inj := Tbl.drop s1.inj (b.key o) }
      (some (rem, Word.bit ctl 29), s2)
    else (none, { s with inj := Tbl.put s.inj (b.key o) (rem - k) })
  else (none, s)

/-- A run of words that a command consumes. -/
inductive Reads where
  | store (a n : Nat)
  | wab (a n : Nat)
  | acc (tile : BitVec 6) (n : Nat)
  deriving DecidableEq, Repr

/-- Words of a space of the sett. -/
def readsOf (space : Nat) (ws : List Nat) : List Reads := ws.map (fun w => if space = 1 then .wab w 4 else .store w 4)

/-- The words that reading a view's elements and block scales consumes (07 R194). -/
def View.reads (v : View) : List Reads := readsOf v.d.space (spanWords v.spans)

/-- The words that reading a view's block scales consumes. -/
def View.scaleReads (v : View) : List Reads := readsOf v.d.space (spanWords v.scaleSpans)

/-- The old words that a write of a view reads first: those it writes in part (07 R193, log entry 52). -/
def View.oldReads (v : View) : List Reads := readsOf v.d.space (partWords v.spans)

/-- The words that issue reads to capture a descriptor's extents: the descriptor and its extent words (06 R167, R168). -/
def SettSt.captureReads (t : SettSt) (f : BitVec 14) : List Reads :=
  let d := t.desc f
  .store (f.toNat * 64) 64 :: ((List.range (min d.ndim 5)).filter (fun k => (d.dim k).xsrc == 2)).map (fun k => .store (4 * (d.dim k).xsel) 4)

/-- The pointer list and the coarse-scale word of a descriptor, which a start reads (06 R165, R168, R170). -/
def SettSt.listReads (t : SettSt) (d : Desc) (ext : List Nat) : List Reads :=
  if !d.valid then []
  else
    (if d.pl then
      .store d.listOff 4 :: (if (d.entries t ext).isSome then
        [.store (d.listOff + 16 + 16 * ext.getD 5 0) (16 * ext.getD d.pld 1)] else [])
    else []) ++
    (if d.csp && d.isLn then [.store d.cscale 4] else [])

/-- Does a command pass its extent tests, so that it goes on to its other checks (06 R169)? -/
def QCmd.shaped (q : QCmd) (ds : List (Desc × List Nat)) : Bool :=
  match q.cmd, ds with
  | .mma _ _ _ _ _ _ _ kc, [a, b] =>
    !(a.1.overX false a.2 || b.1.overX true b.2 || a.1.emptyX false a.2 || b.1.emptyX true b.2) &&
      bitsOf (q.ct.getD kc.toNat 0).toNat 31 20 != 0
  | _, _ => ds.all (fun p => !p.1.exceeds p.2 && !p.1.empty p.2)

/-- The words that name a command's operands, as its start reads them: its descriptors, then, where its extents allow it to go on,
their pointer lists and coarse scales, and for a CVT the coarse scales of its tile's operands (06 R168, R169; 03 R91). -/
def SettSt.namedReads (t : SettSt) (q : QCmd) : List Reads :=
  let ds := (q.descs.zip q.ext).map (fun p => (t.desc p.1, p.2))
  q.descs.map (fun f => .store (f.toNat * 64) 64) ++
  (if q.shaped ds then
    ds.flatMap (fun p => t.listReads p.1 p.2) ++
    (match q.cmd with
      | .cvt _ _ _ _ _ tile => match t.tiles.find? (fun x => x.id == tile) with
        | some x => [x.da, x.db].flatMap (fun f => .store (f.toNat * 64) 20 ::
            (if (t.desc f).csp then [.store (t.desc f).cscale 4] else []))
        | none => []
      | _ => [])
  else [])

/-- The words of a run, in order. -/
def Reads.words : Reads → List Bad
  | .store a n => (wordsOf a n).map Bad.store
  | .wab a n => (wordsOf a n).map Bad.wab
  | .acc t n => (List.range n).map (Bad.acc t)

/-- Number of words of a run. -/
def Reads.count : Reads → Nat
  | .store a n => if n = 0 then 0 else (a + n - 1) / 4 + 1 - a / 4
  | .wab a n => if n = 0 then 0 else (a + n - 1) / 4 + 1 - a / 4
  | .acc _ n => n

/-- The injection point of a word, by Table 17-10. -/
def Bad.point : Bad → Nat
  | .store _ => 0
  | .wab _ => 1
  | .acc _ _ => 2
  | .flit => 3

/-- Does SEL of a word point name the consuming engine (17 Table 17-10)? Points 2 and 3 take SEL 0. -/
def wordSel (p eng sel : Nat) : Bool :=
  if p < 2 then bitsOf sel 23 4 == 0 && (bitsOf sel 3 0 == eng || bitsOf sel 3 0 == 15) else sel == 0

/-- Check words one after another until one is bad: its place, whether it was injected, and PERSIST. -/
def State.checkWords (s : State) (u : SettId) (eng : Nat) : Nat → List Bad → Option (Nat × Bad × Bool × Bool) × State
  | _, [] => (none, s)
  | i, w :: ws =>
    if (s.sett u).bad.contains w then (some (i, w, false, false), s)
    else
      match s.injStep (.injS u) w.point (wordSel w.point eng) 1 with
      | (some (_, persist), s1) => (some (i, w, true, persist), s1)
      | (none, s1) => State.checkWords s1 u eng (i + 1) ws

/-- Is there any bad word in the sett, or may an injection point act? -/
def State.mayMismatch (s : State) (u : SettId) : Bool :=
  !(s.sett u).bad.isEmpty || (s.reg .injX 0).toNat % 2 == 1

/-- The freeze that a mismatch begins, or extends (04 R109, R111). -/
def SettSt.freezeOn (t : SettSt) (w : Bad) (eng : Nat) (injected persist : Bool) (who : Option Chan := none) : SettSt :=
  match t.freeze with
  | none => { t with freeze := some ⟨w, eng, 0, 0, injected, persist, who⟩ }
  | some _ => { t with frzMore := t.frzMore ++ [⟨w, eng, 0, 0, injected, persist, who⟩] }

/-- A unit of a frozen sett that finds a mismatch of its own in the cycle of the detection (04 R109, R111): `r` is the state its
consumption would leave, which extends the freeze; before that cycle has passed each unit adds one, and it does nothing else. -/
def State.alongside (s : State) (u : SettId) (e : Nat) (r : State) : State :=
  match (s.sett u).freeze with
  | none => r
  | some f =>
    if f.attempts = 0 && f.refetch = 0 && f.eng != e && (s.sett u).frzMore.all (fun g => g.eng != e) &&
        (s.sett u).frzMore.length < (r.sett u).frzMore.length then r
    else s

/-- The consumption of words by engine `eng` (1 to 9) of a sett, the first `checked` of them checked before: true with
the sett frozen where a word fails its parity (07 R194). -/
def State.consume (s : State) (u : SettId) (e : BitVec 4) (rs : List Reads) : Bool × State :=
  if s.mayMismatch u then
    let skip := ((s.sett u).engine e).checked
    match s.checkWords u e.toNat skip ((rs.flatMap Reads.words).drop skip) with
    | (some (i, w, injd, per), s1) =>
      (true, s1.modSett u (fun t => (t.modEng e (fun g => { g with checked := i + 1 })).freezeOn w e.toNat injd per))
    | (none, s1) => (false, s1.modSett u (fun t => t.modEng e (fun g => { g with checked := 0 })))
  else (false, s)

/-- The head command of an engine reads the words that name its operands, once (07 R194). -/
def State.readNamed (s : State) (u : SettId) (e : BitVec 4) (q : QCmd) : Bool × State :=
  if !s.mayMismatch u || ((s.sett u).engine e).named then (false, s)
  else
    match s.consume u e ((s.sett u).namedReads q) with
    | (true, s1) => (true, s1)
    | (false, s1) => (false, s1.modSett u (fun t => t.modEng e (fun g => { g with named := true })))

/-- The sequencer's own consumption of words: its fetch, LDCT, region entries (engine 0). -/
def State.consumeSq (s : State) (u : SettId) (rs : List Reads) : Bool × State :=
  if s.mayMismatch u then
    let skip := (s.sett u).fetched
    match s.checkWords u 0 skip ((rs.flatMap Reads.words).drop skip) with
    | (some (i, w, injd, per), s1) =>
      (true, s1.modSett u (fun t => ({ t with fetched := i + 1 }).freezeOn w 0 injd per))
    | (none, s1) => (false, s1.modSett u (fun t => { t with fetched := 0 }))
  else (false, s)

end Sys2Proof.Machine
end

