-- ==== Sys2Proof/Machine/Memory.lean ====
section
/-!
DEFINITION. The 48-bit module address space (07 R178 to R192): where an address lies, translation through the granule table
and its caches, and reads and writes of bytes. Remote windows are held as an image (log entry 9).
-/
namespace Sys2Proof.Machine

/-- Bytes of HBM (07 Table 07-2). -/
def hbmSize : Nat := 0x6000000000

/-- First module address of the Burrow, of the translated range, of the remote windows, of the sett windows (07 Table 07-2). -/
def burrowBase : Nat := 0x10000000000
def transBase : Nat := 0x40000000000
def remoteBase : Nat := 0x80000000000
def settBase : Nat := 0xF0000000000

/-- Position of a remote byte in the image of remote memory (log entry 9). -/
def remoteKey (qp va : Nat) : Nat := qp * 2 ^ 64 + va % 2 ^ 64

/-- Window of a remote address, and its offset in it (07 R187). -/
def winOf (a : Nat) : Nat × Nat := ((a - remoteBase) / 2 ^ 36, (a - remoteBase) % 2 ^ 36)

/-- Offset of EN_RWIN[w] in the host-port block (07 Table 07-4). -/
def rwinOff (w : Nat) : Nat := 0x800 + 16 * w

/-- The place of a physical address; none where the access faults with BOUNDS (07 R178, R180, R187). -/
def State.place (s : State) (a : Nat) (wr : Bool) : Option Loc :=
  if a < hbmSize then some (.hbm a)
  else if burrowBase ≤ a && a < 0x20000000000 then some (.burrow (a - burrowBase))
  else if remoteBase ≤ a && a < settBase then
    let (w, x) := winOf a
    let w3 := s.reg .enHost (rwinOff w + 12)
    if Word.bit w3 31 && x < (fieldOf w3 24 10 + 1) * 0x200000 && (!wr || Word.bit w3 30) then
      some (.remote (fieldOf w3 9 0)
        (((s.reg .enHost (rwinOff w)).toNat + (s.reg .enHost (rwinOff w + 4)).toNat * 2 ^ 32 + x) % 2 ^ 64)
        (s.reg .enHost (rwinOff w + 8)).toNat)
    else none
  else if settBase ≤ a && a < 0xF0100000000 then
    let k := (a - settBase) / 0x1000000
    let o := (a - settBase) % 0x1000000
    let u : SettId := settOf (k / 128) k
    if o < storeSize then some (.store u o)
    else if 0x400000 ≤ o && o < 0x400000 + wabSize then some (.wab u (o - 0x400000))
    else none
  else none

/-- Is an address in the translated range (07 Table 07-2)? -/
def isTrans (a : Nat) : Bool := decide (transBase ≤ a) && decide (a < remoteBase)

/-- A granule whose 2 MiB lie wholly in HBM, in the Burrow or in one remote window (07 R190). -/
def granOk (pg : Nat) : Bool :=
  let a := pg * 0x200000
  decide (a < hbmSize) || (decide (burrowBase ≤ a) && decide (a < 0x20000000000)) ||
  (decide (remoteBase ≤ a) && decide (a < settBase))

/-- A granule-table entry that may be cached: valid, no reserved bit, a target in the tiers (07 R191). -/
def gteOk (w : Nat) : Bool := bitOf w 63 && bitsOf w 61 48 == 0 && bitsOf w 20 0 == 0 && granOk (bitsOf w 47 21)

/-- The pier's translation of an address (07 R190, R191): the physical address, none for BOUNDS; a full cache replaces an
entry that nothing constrains (log entry 1). -/
def State.translate (s : State) (die : Fin 2) (a : Nat) (wr : Bool) : Option Nat × State :=
  let base := s.reg (.tr die) 0x100
  let g := (a - transBase) / 0x200000
  let addr := fieldOf base 14 0 * 0x1000000 + 8 * g
  if !Word.bit base 31 || hbmSize ≤ addr || s.cfgBad (.tr die) then (none, s)
  else
    let use (w : Nat) : Option Nat :=
      if wr && !bitOf w 62 then none else some (bitsOf w 47 21 * 0x200000 + (a - transBase) % 0x200000)
    match (s.gtc[die.val]).find? (fun e => e.gran == g) with
    | some e => (use e.word, s)
    | none =>
      let w := s.hbm.num addr 8
      let s1 := s.bump (.tr die) 0x108 1
      if gteOk w then
        let c := s1.gtc[die.val]
        if c.length < 4096 then (use w, { s1 with gtc := s1.gtc.set die.val (c ++ [⟨g, w⟩]) })
        else
          let (r, s2) := s1.fresh
          (use w, { s2 with gtc := s2.gtc.set die.val (c.eraseIdx (r % 4096) ++ [⟨g, w⟩]) })
      else (none, s1)

/-- The place of a module address for a requester on a die, or for a system requester, which does not reach the translated
range (07 R179). -/
def State.locate (s : State) (die : Option (Fin 2)) (a : Nat) (wr : Bool) : Option Loc × State :=
  if isTrans a then
    match die with
    | none => (none, s)
    | some d =>
      match s.translate d a wr with
      | (some p, s1) => (s1.place p wr, s1)
      | (none, s1) => (none, s1)
  else (s.place a wr, s)

/-- Status of an access that has no place: BOUNDS, or CFG_PARITY for a translation on a die whose Trestle block is halted
(07 R178, 17 Table 17-5). -/
def State.denied (s : State) (die : Option (Fin 2)) (a : Nat) : Status :=
  match die with
  | some d => if isTrans a && s.cfgBad (.tr d) then Code.cfgParity else Code.bounds
  | none => Code.bounds

/-- Bytes at a place. -/
def State.peek (s : State) (l : Loc) (n : Nat) : List Byte :=
  match l with
  | .hbm a => s.hbm.load a n
  | .burrow o => s.burrow.load o n
  | .remote q va _ => s.remote.load (remoteKey q va) n
  | .store u o => (s.sett u).store.load o n
  | .wab u o => (s.sett u).wab.load o n

/-- Write bytes at a place. -/
def State.poke (s : State) (l : Loc) (bs : List Byte) : State :=
  match l with
  | .hbm a => { s with hbm := s.hbm.store a bs }
  | .burrow o => { s with burrow := s.burrow.store o bs }
  | .remote q va _ => { s with remote := s.remote.store (remoteKey q va) bs }
  | .store u o => s.modSett u (fun t => t.putStore o bs)
  | .wab u o => s.modSett u (fun t => t.putWab o bs)

/-- A byte range cut at 4 KiB boundaries, at most `fuel` pieces: no range, granule or window boundary lies inside a piece. -/
def piecesFuel : Nat → Nat → Nat → List (Nat × Nat)
  | 0, _, _ => []
  | f + 1, a, n =>
    if n = 0 then [] else
    let k := min n (4096 - a % 4096)
    (a, k) :: piecesFuel f (a + k) (n - k)

/-- A byte range cut at 4 KiB boundaries. -/
def pieces (a n : Nat) : List (Nat × Nat) := piecesFuel (n / 4096 + 2) a n

/-- The places of a byte range; none where any byte of it faults (07 R178: before any byte moves). -/
def State.locateAll (s : State) (die : Option (Fin 2)) (wr : Bool) : List (Nat × Nat) → Option (List (Loc × Nat)) × State
  | [] => (some [], s)
  | (a, n) :: ps =>
    match s.locate die a wr with
    | (none, s1) => (none, s1)
    | (some l, s1) =>
      match State.locateAll s1 die wr ps with
      | (none, s2) => (none, s2)
      | (some ls, s2) => (some ((l, n) :: ls), s2)

/-- The bytes of a list of places. -/
def State.gather (s : State) (ls : List (Loc × Nat)) : List Byte := ls.flatMap (fun p => s.peek p.1 p.2)

/-- Spread bytes over a list of places. -/
def State.scatter (s : State) : List (Loc × Nat) → List Byte → State
  | [], _ => s
  | (l, n) :: ls, bs => State.scatter (s.poke l (bs.take n)) ls (bs.drop n)

/-- Read a range of module memory: none for BOUNDS. -/
def State.readMod (s : State) (die : Option (Fin 2)) (a n : Nat) : Option (List Byte) × State :=
  match s.locateAll die false (pieces a n) with
  | (some ls, s1) => (some (s1.gather ls), s1)
  | (none, s1) => (none, s1)

/-- Write a range of module memory: false for BOUNDS, with nothing written. -/
def State.writeMod (s : State) (die : Option (Fin 2)) (a : Nat) (bs : List Byte) : Bool × State :=
  match s.locateAll die true (pieces a bs.length) with
  | (some ls, s1) => (true, s1.scatter ls bs)
  | (none, s1) => (false, s1)

/-- STATE of a queue pair. -/
def State.qp (s : State) (n : Nat) : Qp := Tbl.get s.qps n Qp.reset

/-- Is a place remote, over a queue pair that is not ready to send (07 R188)? -/
def State.notReady (s : State) (l : Loc) : Bool :=
  match l with
  | .remote q _ _ => (s.qp q).st != 3
  | _ => false

/-- The RDMA READ or RDMA WRITE of a remote place leaves (07 R187). -/
def State.rdmaOut (s : State) (l : Loc) (wr : Bool) (n : Nat) (bs : List Byte) : State :=
  match l with
  | .remote q va k => s.sendRoce q (if wr then .write q va k bs else .read q va k n)
  | _ => s

/-- The RDMA requests of a read or a write over a list of places. -/
def State.rdmaAll (s : State) (wr : Bool) : List (Loc × Nat) → List Byte → State
  | [], _ => s
  | (l, n) :: ls, bs => State.rdmaAll (s.rdmaOut l wr n (bs.take n)) wr ls (bs.drop n)

/-- Read a range, or the status that turns the access away (07 R178, R187, R188). -/
def State.readOr (s : State) (die : Option (Fin 2)) (a n : Nat) : Except Status (List Byte) × State :=
  match s.locateAll die false (pieces a n) with
  | (none, s1) => (.error (s1.denied die a), s1)
  | (some ls, s1) =>
    if ls.any (fun p => s1.notReady p.1) then (.error Code.busErr, s1)
    else (.ok (s1.gather ls), s1.rdmaAll false ls [])

/-- Write a range, or nothing with the status that turns the access away (07 R178, R187, R188). -/
def State.writeOr (s : State) (die : Option (Fin 2)) (a : Nat) (bs : List Byte) : Status × State :=
  match s.locateAll die true (pieces a bs.length) with
  | (none, s1) => (s1.denied die a, s1)
  | (some ls, s1) =>
    if ls.any (fun p => s1.notReady p.1) then (Code.busErr, s1) else (Code.done, (s1.scatter ls bs).rdmaAll true ls bs)

/-- Module address of a sett's window (07 R180). -/
def windowOf (u : SettId) : Nat := settBase + dieOf u * 0x80000000 + numOf u * 0x1000000

/-- A place as a number: places of one memory keep their distance, places of different memories lie apart (13 R320). -/
def Loc.flat : Loc → Nat
  | .hbm a => a
  | .burrow o => burrowBase + o
  | .store u o => windowOf u + o
  | .wab u o => windowOf u + 0x400000 + o
  | .remote q va _ => 2 ^ 80 + remoteKey q va

/-- The sett whose window a place lies in. -/
def Loc.sett? : Loc → Option SettId
  | .store u _ => some u
  | .wab u _ => some u
  | _ => none

/-- WAB offset of a spill slot (03 R88). -/
def State.slotAddr (s : State) (u : SettId) (n : Nat) : Nat := s.fld (.te u) 0x20 7 0 * 4096 + n * 0x6000

/-- Does the tensor engine hold a tile, rather than its spill slot? -/
def Tile.held (x : Tile) : Bool :=
  match x.place with
  | .slot _ => false
  | _ => true

/-- Do two byte ranges meet? -/
def rangesMeet (a n b m : Nat) : Bool := decide (a < b + m) && decide (b < a + n) && decide (0 < n) && decide (0 < m)

/-- A write of the WAB that reaches the spill area while a tile is spilled (03 R88). -/
def State.hitsSpill (s : State) (u : SettId) (a n : Nat) : Bool :=
  (s.sett u).tiles.any (fun x => !x.held) && rangesMeet a n (s.slotAddr u 0) (s.fld (.te u) 0x24 5 0 * 0x6000)

/-- Words that a write covers in part, whose old value is read first (07 R193). -/
def edgeReads (o n : Nat) : List (Nat × Nat) :=
  if n = 0 then []
  else (([o / 4 * 4, (o + n - 1) / 4 * 4].eraseDups).filter (fun w => !coversWord o n w)).map (fun w => (w, 4))

/-- The words that a read of `n` bytes at a place consumes, and those that a write of them reads first (07 R193, R194). -/
def Loc.reads (l : Loc) (n : Nat) : List (SettId × Reads) :=
  match l with
  | .store u o => [(u, .store o n)]
  | .wab u o => [(u, .wab o n)]
  | _ => []
def Loc.oldReads (l : Loc) (n : Nat) : List (SettId × Reads) :=
  match l with
  | .store u o => (edgeReads o n).map (fun e => (u, .store e.1 e.2))
  | .wab u o => (edgeReads o n).map (fun e => (u, .wab e.1 e.2))
  | _ => []

/-- Number of words of a list of runs. -/
def readCount (rs : List (SettId × Reads)) : Nat := rs.foldl (fun n r => n + r.2.count) 0

/-- Does a range touch the window of a frozen sett (04 R110)? -/
def State.rangeFrozen (s : State) (a n : Nat) : Bool :=
  (pieces a n).any (fun p => (((s.place p.1 false).bind Loc.sett?).map (fun u => (s.sett u).freeze.isSome)).getD false)

/-- The sett words that a read, or a write, of a physical range consumes at the sett side of the Trestle (07 R193, R194). -/
def State.sideReads (s : State) (a n : Nat) (wr : Bool) : List (SettId × Reads) :=
  (pieces a n).flatMap (fun p => ((s.place p.1 false).map (fun l => if wr then l.oldReads p.2 else l.reads p.2)).getD [])

/-- Words of several setts consumed in order on behalf of a channel (none: of the host port or of Xalor), the first `skip` of them
before (07 R194): by engine `own` in the channel's own sett, elsewhere by the sett side of the Trestle. None where all are good; else
how many have been consumed, with a sett frozen. -/
def State.consumeAll (who : Option Chan) (own : BitVec 4) : Nat → List (SettId × Reads) → Nat → State → Option Nat × State
  | _, [], _, s => (none, s)
  | skip, (u, r) :: rs, done, s =>
    if !s.mayMismatch u then State.consumeAll who own (skip - r.count) rs (done + r.count) s
    else
      let e : Nat := match who with
        | some (.sett v _) => if u = v then own.toNat else 9
        | _ => 9
      match s.checkWords u e 0 (r.words.drop skip) with
      | (some (i, w, injd, per), s1) => (some (done + skip + i + 1), s1.modSett u (fun t => t.freezeOn w e injd per who))
      | (none, s1) => State.consumeAll who own (skip - r.count) rs (done + r.count) s1

/-- Address of the TAIL word of a work queue (16 R382). -/
def State.wqTailAddr (s : State) (q : Nat) : Nat :=
  (s.reg .vd (0x40C + 0x20 * q)).toNat + fieldOf (s.reg .vd (0x410 + 0x20 * q)) 15 0 * 2 ^ 32

/-- A write of HBM by a sett's channel hands the entries below the new TAIL to their queue: the sett waits for them as it drains
(16 R382, 04 R123). `old` is HBM before the write. -/
def State.noteTail (s : State) (u : SettId) (a n : Nat) (old : Mem) : State :=
  { s with vd := { s.vd with owed := s.vd.owed ++ (List.range 32).flatMap (fun q =>
      let w := s.wqTailAddr q
      if rangesMeet a n w 4 && Word.bit (s.reg .vd (0x418 + 0x20 * q)) 31 then
        let t0 := old.num w 4
        let k := (s.hbm.num w 4 + 2 ^ 32 - t0) % 2 ^ 32
        if k ≤ fieldOf (s.reg .vd (0x408 + 0x20 * q)) 16 0 then (List.range k).map (fun i => (u, q, (t0 + i) % 2 ^ 32)) else []
      else []) } }

/-- Do `n` bytes at an HBM address lie in HBM? -/
def inHbm (a n : Nat) : Bool := decide (a + n ≤ hbmSize)

/-- Write bytes of HBM. -/
def State.putHbm (s : State) (a : Nat) (bs : List Byte) : State := { s with hbm := s.hbm.store a bs }

/-- The die of a sett as an index. -/
def dieIx (u : SettId) : Fin 2 := ⟨dieOf u % 2, Nat.mod_lt _ (by decide)⟩

end Sys2Proof.Machine
end

