-- ==== Sys2Proof/Machine/Decoder.lean ====
section
/-!
DEFINITION. The decoder cores of Intake: supported streams, dimension claims, damage and concealment, colour (14 R331 to R341). What the
standards decode from the bytes of a stream is Config's (log entry 11); everything the spec says of it is here.
-/
namespace Sys2Proof

/-- Mid-grey, half the code range (14 R338). -/
def StreamHdr.grey (h : StreamHdr) : Nat := if h.depth = 10 then 512 else 128

/-- Units across and down a picture; the unit that a pixel lies in. -/
def DecPic.unitsX (p : DecPic) : Nat := Machine.ceilDiv p.w (max 1 p.uw)
def DecPic.unitsY (p : DecPic) : Nat := Machine.ceilDiv p.h (max 1 p.uh)
def DecPic.unitOf (p : DecPic) (x y : Nat) : Nat := y / max 1 p.uh * p.unitsX + x / max 1 p.uw
def DecPic.units (p : DecPic) : Nat := p.unitsX * p.unitsY

end Sys2Proof

namespace Sys2Proof.Machine

/-- Is what a header declares within the row of a codec (14 Table 14-1, R332)? Film grain of AV1 is parsed and not applied. -/
def supported (codec : Nat) (h : StreamHdr) : Bool :=
  let c420 := h.comps == 3 && h.sx == 2 && h.sy == 2
  match codec with
  | 0 => h.profile == .av1Main && (h.depth == 8 || h.depth == 10) && (h.comps == 1 || c420) && h.tools.all (· == .filmGrain)
  | 1 => ((h.profile == .hevcMain && h.depth == 8) || (h.profile == .hevcMain10 && (h.depth == 8 || h.depth == 10))) && c420 &&
      h.tools.isEmpty
  | 2 => h.profile == .avcHigh && h.depth == 8 && c420 && h.tools.isEmpty
  | _ => h.profile == .jpegBaseline && h.depth == 8 && h.tools.isEmpty &&
      (h.comps == 1 || (h.comps == 3 && [(1, 1), (2, 1), (2, 2), (1, 2)].contains (h.sx, h.sy)))

/-- Width and height of a unit in luma pixels (14 R337): superblock, coding tree block, macroblock, minimum coded unit. -/
def unitSize (codec : Nat) (h : StreamHdr) : Nat × Nat :=
  match codec with
  | 0 => if h.unit = 128 then (128, 128) else (64, 64)
  | 1 => if h.unit = 16 ∨ h.unit = 32 then (h.unit, h.unit) else (64, 64)
  | 2 => (16, 16)
  | _ => if h.comps = 1 then (8, 8) else (8 * max 1 h.sx, 8 * max 1 h.sy)

/-- A plane with its concealed units filled in: the co-located samples of the preceding picture, or mid-grey (14 R338). -/
def concealPlane (p : DecPic) (fx fy : Nat) (pl : List Nat) (prev : Option (DecPic × List Nat)) : List Nat :=
  let w := ceilDiv p.w fx
  let g := p.hdr.grey
  (List.range (w * ceilDiv p.h fy)).map (fun i =>
    let x := i % max 1 w
    let y := i / max 1 w
    if p.conc.contains (p.unitOf (x * fx) (y * fy)) then
      match prev with
      | none => g
      | some (q, ql) => if x * fx < q.w && y * fy < q.h then ql.getD (y * ceilDiv q.w fx + x) g else g
    else pl.getD i g)

/-- A picture with its concealed units filled in. -/
def conceal (prev : Option DecPic) (p : DecPic) : DecPic :=
  let go (fx fy : Nat) (f : DecPic → List Nat) : List Nat := concealPlane p fx fy (f p) (prev.map (fun q => (q, f q)))
  let mono := p.hdr.comps == 1
  { p with y := go 1 1 (·.y), cb := if mono then [] else go p.hdr.sx p.hdr.sy (·.cb),
           cr := if mono then [] else go p.hdr.sx p.hdr.sy (·.cr) }

/-- The picture that precedes index k in display order, of those decoded. -/
def preceding (pics : List DecPic) (k : Nat) : Option DecPic :=
  (pics.filter (fun p => decide (p.order < k))).foldl (fun m p =>
    match m with
    | some q => if q.order < p.order then some p else some q
    | none => some p) none

/-- Where a sample's first damage lies: display-order frame, unit row, unit column, stream byte (14 R339). -/
structure Damage where
  frame : Nat
  row : Nat
  col : Nat
  off : Nat
  deriving DecidableEq, Repr, Inhabited

/-- A core part of the way through a stream: the pictures decoded, in decoding order, the first damage met, and whether an injected one
was met. -/
structure Decoding where
  pics : List DecPic
  first : Option Damage
  inj : Bool
  deriving DecidableEq, Repr

/-- The units of a picture in order (14 R337): one that is damaged, by the stream or by injection point 8 (17 Table 17-10), is concealed
with those after it up to the next restart. `upto` is the unit concealment has reached. Answers the concealed units, the first damaged
one, and whether an injection did it. -/
def walkUnits (core : Nat) (bad : Nat → Bool) (stop : Nat → Nat) : List Nat → Nat → State → List Nat × Option (Nat × Bool) × State
  | [], _, s => ([], none, s)
  | u :: us, upto, s =>
    if u < upto then
      let (l, f, s1) := walkUnits core bad stop us upto s
      (u :: l, f, s1)
    else
      let (fire, s1) := s.injStep .injX 8 (fun x => x == core) 1
      if bad u || fire.isSome then
        let (l, _, s2) := walkUnits core bad stop us (stop u) s1
        (u :: l, some (u, fire.isSome), s2)
      else walkUnits core bad stop us upto s1

/-- The n-th picture of a stream is decoded, and concealed where it is damaged (14 R337, R338). A frame larger than its claim is damaged
from its first unit, and takes the claimed size. -/
def decodePic (codec core : Nat) (bytes : List Byte) (heads : List StreamHdr) (d : Decoding) (s : State) (n : Nat) : Decoding × State :=
  let r := Config.picture codec bytes n d.pics
  let hdr := heads.getD r.head (heads.headD default)
  let big := decide (hdr.w < r.w) || decide (hdr.h < r.h)
  let (uw, uh) := unitSize codec hdr
  let p : DecPic := { order := r.order, hdr := hdr, uw := uw, uh := uh, w := min r.w hdr.w, h := min r.h hdr.h, y := r.y, cb := r.cb,
                      cr := r.cr, conc := [] }
  let last := r.ends.getD p.units
  let stop (u : Nat) : Nat := if big then p.units else (r.restart.filter (fun x => decide (u < x) && decide (x < last))).foldl min p.units
  let bad (u : Nat) : Bool := (big && u == 0) || r.bad.contains u || r.ends == some u
  let (conc, dmg, s1) := walkUnits core bad stop (List.range p.units) 0 s
  let q := conceal (preceding d.pics r.order) { p with conc := conc }
  let first := match d.first, dmg with
    | none, some (u, _) => some ⟨r.order, u / max 1 p.unitsX, u % max 1 p.unitsX,
        if r.ends == some u then bytes.length else r.offs.getD u 0⟩
    | f, _ => f
  (⟨d.pics ++ [q], first, d.inj || (dmg.map (·.2)).getD false⟩, s1)

/-- The pictures of a stream in decoding order, until every output frame has been decoded. -/
def decodePics (codec core : Nat) (bytes : List Byte) (heads : List StreamHdr) (want : List Nat) :
    List Nat → Decoding → State → Decoding × State
  | [], d, s => (d, s)
  | n :: ns, d, s =>
    if want.all (fun k => d.pics.any (fun p => p.order == k)) then (d, s)
    else
      let (d1, s1) := decodePic codec core bytes heads d s n
      decodePics codec core bytes heads want ns d1 s1

/-- An output frame that the stream ended before: concealed whole (14 R338). -/
def missing (codec : Nat) (heads : List StreamHdr) (pics : List DecPic) (k : Nat) : DecPic :=
  let prev := preceding pics k
  let hdr := (prev.map (·.hdr)).getD (heads.headD default)
  let (uw, uh) := unitSize codec hdr
  let p : DecPic := { order := k, hdr := hdr, uw := uw, uh := uh, w := (prev.map (·.w)).getD hdr.w, h := (prev.map (·.h)).getD hdr.h,
                      y := [], cb := [], cr := [], conc := [] }
  conceal prev { p with conc := List.range p.units }

/-- A stream decoded for its output frames `want` (14 R335, R338, R339): those frames, the first damage, whether it was injected. -/
def decodeStream (codec core : Nat) (bytes : List Byte) (want : List Nat) (s : State) : List DecPic × Option Damage × Bool × State :=
  let heads := Config.headers codec bytes
  let (d, s1) := decodePics codec core bytes heads want (List.range (Config.pictures codec bytes)) ⟨[], none, false⟩ s
  let lost := want.filter (fun k => !d.pics.any (fun p => p.order == k))
  (want.map (fun k => (d.pics.find? (fun p => p.order == k)).getD (missing codec heads d.pics k)),
   d.first.orElse (fun _ => lost.head?.map (fun k => ⟨k, 0, 0, bytes.length⟩)), d.inj, s1)

/-- Luma weights of red and blue, in 1/10,000 (log entry 11): ITU-R BT.601, BT.709, BT.2020. -/
def lumaWeights (matrix : Nat) : Int × Int :=
  match matrix with
  | 1 => (2990, 1140)
  | 2 => (2126, 722)
  | _ => (2627, 593)

/-- Channel c of the RGB value of a pixel, on the code range 0 to 2g − 1, before its clamp (14 R341 step 2; log entry 11): the exact value
of the matrix, rounded once. `range` 1 is limited. -/
def toRgb (matrix range g : Nat) (l cb cr c : Nat) : Num :=
  let (a, b) := lumaWeights matrix
  let k : Int := 10000
  let kg := k - a - b
  let top : Int := 2 * g - 1
  let sc : Int := g / 128
  let (yn, yd, pd) : Int × Int × Int := if range = 1 then (l - 16 * sc, 219 * sc, 224 * sc) else (l, top, top)
  let pb : Int := cb - g
  let pr : Int := cr - g
  let chroma : Int := match c with
    | 0 => 2 * (k - a) * kg * pr
    | 1 => -(2 * b * (k - b) * pb + 2 * a * (k - a) * pr)
    | _ => 2 * (k - b) * kg * pb
  ((Num.ofInt (top * (yn * pd * k * kg + chroma * yd))).div (Num.ofInt (yd * pd * k * kg))).rne

/-- Channel c of a pixel after steps 1 and 2 of 14 R341. -/
def pixel (codec colour : Nat) (p : DecPic) (c x y : Nat) : Num :=
  let g := p.hdr.grey
  let l := p.y.getD (y * p.w + x) g
  let ch (pl : List Nat) : Nat :=
    if p.hdr.comps = 1 then g else pl.getD (y / max 1 p.hdr.sy * ceilDiv p.w (max 1 p.hdr.sx) + x / max 1 p.hdr.sx) g
  match colour % 4 with
  | 0 =>
    let m := bitsOf colour 3 2
    let r := bitsOf colour 5 4
    let matrix := if m ≠ 0 then m else if codec = 3 then 1 else if p.hdr.matrix = 0 then 2 else p.hdr.matrix
    let range := if r ≠ 0 then r else if codec = 3 then 2 else if p.hdr.range = 0 then 1 else p.hdr.range
    (Num.ofInt 0).max ((Num.ofInt (2 * g - 1)).min (toRgb matrix range g l (ch p.cb) (ch p.cr) c))
  | 1 => Num.ofInt ([l, ch p.cb, ch p.cr].getD c 0)
  | _ => Num.ofInt l

end Sys2Proof.Machine
end

