-- ==== Sys2Proof/Machine/Sequencer.lean ====
section
/-!
DEFINITION. The sequencer: issue, control flow, counters, signal waits, replay regions, breaks and the sequencer
instructions (04 R101 to R130, 05 R142 to R147). A command that the sett is not ready for leaves the state as it is (log entry 3).
-/
namespace Sys2Proof.Machine

/-- What a meaning answers. -/
abbrev Result := Host.Outcome State Fault Refusal

/-- May the sett issue an instruction now (04 R102, R109, R113)? -/
def SettSt.issuing (t : SettSt) : Bool := t.st == .run && t.hold == .none && t.freeze.isNone

/-- Is the count break of 04 R129 due? -/
def State.countDue (s : State) (u : SettId) : Bool :=
  let t := s.sett u
  Word.bit (s.reg (.sq u) 0x08) 0 && decide ((s.reg (.sq u) 0x24).toNat ≤ t.cmdCnt) && !t.brkSeen

/-- Instruction words in the instruction region (04 R101). -/
def State.regionWords (s : State) (u : SettId) : Nat := s.fld (.sq u) 0x10 6 0 * 512

/-- Store address of an instruction index. -/
def State.codeAddr (s : State) (u : SettId) (ix : Nat) : Nat := s.fld (.sq u) 0x10 25 16 * 4096 + 8 * ix

/-- One instruction of a sett: nothing where the sett may not issue or a count break is due; a fetch beyond the region halts
with BOUNDS (04 R101); a word of bad parity freezes the sett, or extends its freeze (04 R111); otherwise `f`. `more` are further words the instruction reads. -/
def State.seqStep (s : State) (u : SettId) (more : List Reads) (f : State → State) : State :=
  let t := s.sett u
  if t.st != .run || t.hold != .none || s.countDue u then s
  else if s.regionWords u ≤ t.pc then (if t.freeze.isSome then s else s.haltSett u Code.bounds 0 2 t.pc)
  else
    match s.consumeSq u (.store (s.codeAddr u t.pc) 8 :: more) with
    | (true, s1) => s.alongside u 0 s1
    | (false, s1) => if t.freeze.isSome then s else f s1

/-- Leave the innermost loop; its shadow is copied when no other active level binds the counter (04 R120). -/
def SettSt.exitLoop (t : SettSt) : SettSt :=
  match t.loops with
  | [] => t
  | l :: ls =>
    let n := l.src.toNat
    if !l.imm && !ls.any (fun x => !x.imm && x.src == l.src) && t.shpend.getLsbD n then
      { t with loops := ls, ct := t.ct.set n t.ctsh[n], shpend := t.shpend &&& ~~~ BitVec.ofNat 16 (2 ^ n) }
    else { t with loops := ls }

/-- Move on from the instruction at SQ_PC: to the next, or back to the first of a loop that iterates (04 R118, Table 04-1). -/
def SettSt.advance (t : SettSt) : SettSt :=
  let nx := (t.pc + 1) % 2 ^ 15
  match t.loops with
  | [] => { t with pc := nx }
  | l :: ls =>
    if l.last = t.pc then
      if 0 < l.remain then { t with pc := l.first, loops := { l with remain := l.remain - 1 } :: ls }
      else SettSt.exitLoop { t with pc := nx }
    else { t with pc := nx }

/-- Spend issue cycles. -/
def SettSt.spend (t : SettSt) (n : Nat) : SettSt := { t with cyc := t.cyc + n }

/-- The breaks that follow an issue: a tag break or the one instruction of STEP; the lowest cause is recorded (04 R129). -/
def State.afterIssue (s : State) (u : SettId) (ix : Nat) (tagHit : Bool) : State :=
  let t := s.sett u
  if (t.st == .run || t.st == .wait) && (tagHit || t.stepReq) then
    let cause := if s.countDue u then 5 else if tagHit then 6 else 8
    s.modSett u (fun t => t.takeBreak cause ix)
  else s

/-- An instruction whose effect on the sett is `f` and which falls through in one cycle. -/
def State.plain (s : State) (u : SettId) (f : SettSt → SettSt) : State :=
  s.seqStep u [] (fun s =>
    let ix := (s.sett u).pc
    (s.modSett u (fun t => ((f t).advance).spend 1)).afterIssue u ix false)

/-- Write a counter; a bound counter's write goes to its shadow (04 R116, R120). -/
def SettSt.putCt (t : SettSt) (n : BitVec 4) (v : Word) : SettSt :=
  if t.loops.any (fun l => !l.imm && l.src == n) then
    { t with ctsh := t.ctsh.set n.toNat v, shpend := t.shpend ||| BitVec.ofNat 16 (2 ^ n.toNat),
             sticky := t.sticky ||| stkShadow }
  else { t with ct := t.ct.set n.toNat v }

/-- An instruction's write to counter n in the same cycle as a host write: the instruction, which has read the value before that
write, takes effect and HOSTWR_LOST is set (04 R116). Whether a host write falls in the cycle of the next instruction or before
it is a free choice made when it lands (log entry 15). -/
def SettSt.collide (t : SettSt) (n : BitVec 4) : SettSt :=
  match t.hostWr with
  | some (k, c, old, true) =>
    if k = n ∧ c = t.cyc ∧ !t.loops.any (fun l => !l.imm && l.src == n) then
      { t with ct := t.ct.set n.toNat old, hostWr := none, sticky := t.sticky ||| stkHostLost }
    else t
  | _ => t

/-- An instruction's write to a counter, whose value it computes from the counters it reads (04 R116, R120). -/
def SettSt.insCt (t : SettSt) (n : BitVec 4) (f : SettSt → Word) : SettSt :=
  let t1 := t.collide n
  t1.putCt n (f t1)

/-- Read a counter. -/
def SettSt.getCt (t : SettSt) (n : BitVec 4) : Word := t.ct[n.toNat]

/-- Does a comparator hold (04 R117, Table 04-11)? -/
def SettSt.cmpHolds (t : SettSt) (k : BitVec 3) : Bool :=
  let c := t.cmp[k.toNat]
  let a := t.getCt (c.extractLsb' 0 4)
  let b := if Word.bit c 15 then t.getCt (c.extractLsb' 8 4) else (c.extractLsb' 16 16).signExtend 32
  match fieldOf c 14 12 with
  | 0 => a == b
  | 1 => a != b
  | 2 => decide (a.toInt < b.toInt)
  | 3 => decide (b.toInt ≤ a.toInt)
  | 4 => decide (a.toNat < b.toNat)
  | 5 => decide (b.toNat ≤ a.toNat)
  | 6 => true
  | _ => false

/-- The functions of 05 Table 05-3. -/
def aluFn (fn : BitVec 4) (a b : Word) : Word :=
  let k := b.toNat % 32
  match fn.toNat with
  | 0 => a + b
  | 1 => a - b
  | 2 => a * b
  | 3 => a &&& b
  | 4 => a ||| b
  | 5 => a ^^^ b
  | 6 => a <<< k
  | 7 => a >>> k
  | 8 => a.sshiftRight k
  | 9 => if a.toNat ≤ b.toNat then a else b
  | _ => if a.toNat ≤ b.toNat then b else a

/-- An instruction with a reserved field halts the sett with PLAN_MISMATCH before it issues (05 R133). -/
def State.badWord (s : State) (u : SettId) (engine : Nat) : State :=
  s.seqStep u [] (fun s => s.haltSett u Code.planMismatch engine 2 (s.sett u).pc)

/-- NOP (05 Table 05-2). -/
def execNop (u : Sett) (s : State) : Result := .next (s.plain u id)

/-- LI (05 R142). -/
def execLi (u : Sett) (d : BitVec 4) (imm : BitVec 32) (s : State) : Result := .next (s.plain u (fun t => t.insCt d (fun _ => imm)))

/-- ALU (05 R142, Table 05-3). -/
def execAlu (u : Sett) (d a b fn : BitVec 4) (s : State) : Result :=
  .next (if fn.toNat ≤ 10 then s.plain u (fun t => t.insCt d (fun t => aluFn fn (t.getCt a) (t.getCt b))) else s.badWord u 0)

/-- ALUI: the immediate is sign-extended (05 R142). -/
def execAlui (u : Sett) (d a : BitVec 4) (imm : BitVec 16) (fn : BitVec 4) (s : State) : Result :=
  .next (if fn.toNat ≤ 10 then s.plain u (fun t => t.insCt d (fun t => aluFn fn (t.getCt a) (imm.signExtend 32))) else s.badWord u 0)

/-- Byte address of an LDCT or STCT: a plain sum, beyond the store where it is 2^32 or more (05 Table 05-2, R143). -/
def SettSt.ctAddr (t : SettSt) (bc : BitVec 4) (bz : Bool) (off : BitVec 20) : Nat :=
  (if bz then 0 else (t.getCt bc).toNat) + 4 * off.toNat

/-- LDCT (05 R143). -/
def execLdct (u : Sett) (d bc : BitVec 4) (bz : Bool) (off : BitVec 20) (s : State) : Result :=
  let a := (s.sett u).ctAddr bc bz off
  let ok := a % 4 = 0 ∧ a < storeSize
  .next (s.seqStep u (if ok then [.store a 4] else []) (fun s =>
    let ix := (s.sett u).pc
    if a % 4 ≠ 0 then s.haltSett u Code.align 0 2 ix
    else if storeSize ≤ a then s.haltSett u Code.bounds 0 2 ix
    else (s.modSett u (fun t => ((t.insCt d (fun t => BitVec.ofNat 32 (t.word a))).advance).spend 1)).afterIssue u ix false))

/-- STCT (05 R143): a store into the instruction region faults with BOUNDS. -/
def execStct (u : Sett) (src bc : BitVec 4) (bz : Bool) (off : BitVec 20) (s : State) : Result :=
  let a := (s.sett u).ctAddr bc bz off
  .next (s.seqStep u [] (fun s =>
    let ix := (s.sett u).pc
    let lo := s.codeAddr u 0
    if a % 4 ≠ 0 then s.haltSett u Code.align 0 2 ix
    else if storeSize ≤ a || (lo ≤ a && a < lo + 8 * s.regionWords u) then s.haltSett u Code.bounds 0 2 ix
    else (s.modSett u (fun t => ((t.putStore a (leBytes 4 (t.getCt src).toNat)).advance).spend 1)).afterIssue u ix false))

/-- SETCMP (04 Table 04-11, 05 Table 05-2). -/
def execSetcmp (u : Sett) (k : BitVec 3) (img : BitVec 32) (s : State) : Result :=
  .next (if img &&& 0x000000F0#32 = 0#32 then s.plain u (fun t => { t with cmp := t.cmp.set k.toNat img }) else s.badWord u 0)

/-- SETSTEP (05 Table 05-2). -/
def execSetstep (u : Sett) (ctr : BitVec 4) (s : State) : Result :=
  .next (s.plain u (fun t => { t with step := t.getCt ctr }))

/-- Leave every loop, innermost first, whose body does not hold the target (04 R119). -/
def SettSt.leaveLoops : Nat → Nat → SettSt → SettSt
  | 0, _, t => t
  | n + 1, tgt, t =>
    match t.loops with
    | [] => t
    | l :: _ => if l.first ≤ tgt && tgt ≤ l.last then t else SettSt.leaveLoops n tgt t.exitLoop

/-- BR (05 R144, 04 R119): 3 cycles taken, 1 not taken. -/
def execBr (u : Sett) (k : BitVec 3) (always : Bool) (tgt : BitVec 15) (s : State) : Result :=
  .next (s.seqStep u [] (fun s =>
    let ix := (s.sett u).pc
    (s.modSett u (fun t =>
      if always || t.cmpHolds k then
        { (t.leaveLoops 4 tgt.toNat).spend 3 with pc := tgt.toNat }
      else t.advance.spend 1)).afterIssue u ix false))

/-- ENG and OP of the instruction word at an index. -/
def State.opAt (s : State) (u : SettId) (ix : Nat) : Nat × Nat :=
  let w := (s.sett u).store.num (s.codeAddr u ix) 8
  (bitsOf w 63 60, bitsOf w 59 54)

/-- LOOP (04 R118 to R120, 05 R145). Where a LOOP both breaks R145 and finds four levels active, PLAN_MISMATCH comes before BOUNDS:
the spec gives no order (log entry 51). -/
def execLoop (u : Sett) (ci : Bool) (ctr : BitVec 4) (endIx : BitVec 15) (imm : BitVec 16) (s : State) : Result :=
  .next (s.seqStep u [] (fun s =>
    let t := s.sett u
    let ix := t.pc
    let e := endIx.toNat
    let (eng, op) := s.opAt u e
    if e ≤ ix || t.loops.any (fun l => decide (l.last ≤ e)) ||
        (eng == 0 && (op == 0x01 || op == 0x08 || op == 0x09 || op == 0x0C || op == 0x0D)) then
      s.haltSett u Code.planMismatch 0 2 ix
    else if 4 ≤ t.loops.length then s.haltSett u Code.bounds 0 2 ix
    else
      let n : Word := if ci then imm.setWidth 32 else t.getCt ctr
      (s.modSett u (fun t =>
        if n = 0 then { t.spend 3 with pc := (e + 1) % 2 ^ 15 }
        else { t.spend 1 with pc := ix + 1, loops := ⟨n, n.toNat - 1, ix + 1, e, ci, ctr⟩ :: t.loops })).afterIssue u ix false))

/-- What a WAITS that issues now sees of a signal counter: an absent engine's increment made in this very cycle is not yet visible
(04 R113, 05 R158). -/
def SettSt.sigSeen (t : SettSt) (n : BitVec 5) : Nat :=
  t.sig[n.toNat].toNat - (if t.absSig = some (t.cyc, n) then 1 else 0)

/-- WAITS (04 R113, 05 R146): satisfied at its issue, or held. -/
def execWaits (u : Sett) (sg : BitVec 5) (peek cs : Bool) (ctr : BitVec 4) (amt : BitVec 16) (s : State) : Result :=
  .next (if !cs && amt = 0 then s.badWord u 0
  else s.seqStep u [] (fun s =>
    let t := s.sett u
    let ix := t.pc
    let k := if cs then (t.getCt ctr).toNat else amt.toNat
    if 65535 < k then s.haltSett u Code.bounds 0 2 ix
    else
      let have_ := t.sig[sg.toNat].toNat
      (s.modSett u (fun t =>
        if k ≤ t.sigSeen sg then
          (({ t with sig := t.sig.set sg.toNat (BitVec.ofNat 32 (if peek then have_ else have_ - k)) }).advance).spend 1
        else { t.spend 1 with st := .wait, hold := .waits sg k peek, held := t.cyc })).afterIssue u ix false))

/-- WAITS_SATISFIED: the held WAITS finds its counter at the amount (04 R113). -/
def execWaitsSatisfied (u : Sett) (s : State) : Result :=
  let t := s.sett u
  .next (match t.hold with
    | .waits sg k peek =>
      let have_ := t.sig[sg.toNat].toNat
      if t.st = .wait ∧ t.freeze = none ∧ k ≤ have_ then
        s.modSett u (fun t =>
          (SettSt.advance { t with st := .run, hold := .none, held := 0,
                                   sig := t.sig.set sg.toNat (BitVec.ofNat 32 (if peek then have_ else have_ - k)) }).spend 1)
      else s
    | _ => s)

/-- TAG, and the tag break (04 R129). -/
def execTag (u : Sett) (tg : BitVec 16) (s : State) : Result :=
  .next (s.seqStep u [] (fun s =>
    let ix := (s.sett u).pc
    let b := s.reg (.sq u) 0x28
    let hit := Word.bit (s.reg (.sq u) 0x08) 1 && (tg ^^^ b.extractLsb' 0 16) &&& b.extractLsb' 16 16 == 0
    (s.modSett u (fun t => (SettSt.advance { t with tag := tg }).spend 1)).afterIssue u ix hit))

/-- Records of a sett still in its 8-entry buffer (05 R147). -/
def State.recCount (s : State) (u : SettId) : Nat := (s.recs.filter (fun r => r.src == settSrc u 0)).length

/-- EVLOG (05 R147). -/
def execEvlog (u : Sett) (code : BitVec 8) (lf : Bool) (layer : BitVec 16) (s : State) : Result :=
  .next (if 16 ≤ code.toNat then s.badWord u 0
  else if 8 ≤ s.recCount u then s
  else s.seqStep u [] (fun s =>
    let t := s.sett u
    let s1 := s.postSett u 0 code.toNat (if lf then layer.toNat else t.layer) false []
    (s1.modSett u (fun t => t.advance.spend 1)).afterIssue u t.pc false))

/-- Store address of a region entry (04 R121). -/
def State.rgnAddr (s : State) (u : SettId) (id : Nat) : Nat := s.fld (.sq u) 0x14 9 0 * 4096 + 16 * id

/-- A field of a region entry (04 Table 04-4): rung k for k below 4, CONT for 4. -/
def SettSt.rgnIndex (t : SettSt) (a k : Nat) : Nat := t.store.num (a + 2 * k) 2 % 2 ^ 15

/-- NRUNG and CUR of a region entry. -/
def SettSt.rgnRungs (t : SettSt) (a : Nat) : Nat × Nat :=
  let b := (t.store.read (a + 10)).toNat
  (bitsOf b 4 2, bitsOf b 1 0)

/-- The overflow latch cleared, and commands from now on counted apart from earlier ones (10 R271). -/
def SettSt.newEpoch (t : SettSt) : SettSt := { t with epoch := t.epoch + 1, latch := 0 }

/-- REGN (04 R122). -/
def execRegn (u : Sett) (id : BitVec 10) (s : State) : Result :=
  let a := s.rgnAddr u id.toNat
  .next (s.seqStep u (if a + 16 ≤ storeSize then [.store a 16] else []) (fun s =>
    let t := s.sett u
    let (nr, cur) := t.rgnRungs a
    if storeSize < a + 16 then s.haltSett u Code.bounds 0 2 t.pc
    else if nr = 0 || 4 < nr || nr ≤ cur || t.region.isSome then s.haltSett u Code.planMismatch 0 2 t.pc
    else
      (s.modSett u (fun t =>
        { (t.newEpoch).spend 7 with
            region := some id, pc := t.rgnIndex a cur,
            snap := some ⟨t.ct.toList, t.ctsh.toList, t.shpend, t.cmp.toList, t.loops, t.tag, t.sig.toList,
              t.store.num (a + 12) 4, nr⟩ })).afterIssue u t.pc false))

/-- HALT has drained the sett: DONE, with the sett-done interrupt (04 R127). -/
def State.enterDone (s : State) (u : SettId) : State :=
  (s.modSett u (fun t =>
    { t with st := .done, hold := .none, held := 0, stepReq := false, haltInfo := haltWord 0 0 1 t.pc })).raise (.settDone u)

/-- HALT (04 R127): drains the sett, at once where nothing is left to drain. -/
def execHalt (u : Sett) (s : State) : Result :=
  .next (s.seqStep u [] (fun s =>
    let s1 := s.modSett u (fun t => { t.spend 1 with st := .wait, hold := .halt, held := t.cyc })
    if s.drained u then s1.enterDone u else s1))

/-- A list of counters as the vector of a register file. -/
def vecOf {n : Nat} (l : List Word) : Vector Word n := Vector.ofFn (fun i => l.getD i.val 0)

/-- What a promotion restores (04 R122 to R124). -/
def SettSt.restore (t : SettSt) (p : Snap) : SettSt :=
  { t with ct := vecOf p.ct, ctsh := vecOf p.ctsh, shpend := p.shpend, cmp := vecOf p.cmp, loops := p.loops, tag := p.tag,
           sig := Vector.ofFn (fun i => if bitOf p.mask i.val then p.sig.getD i.val 0 else t.sig[i.val]) }

/-- The end of a REND drain: read the region's entry, sample the latch, then continue, promote or halt (04 R123; 10 R271, R273). The
next instruction issues 4 cycles after the drain's last cycle, 10 with a promotion (04 Table 04-1); that cycle is the one before the
sett's present cycle. -/
def State.rendEnd (s : State) (u : SettId) : State :=
  let t := s.sett u
  match t.region, t.snap with
  | some id, some p =>
    let a := s.rgnAddr u id.toNat
    match s.consumeSq u (if a + 16 ≤ storeSize then [.store a 16] else []) with
    | (true, s1) => s1
    | (false, s0) =>
    let (nr, cur) := t.rgnRungs a
    let s1 := s0.modSett u (fun t => { t with cause := t.latch })
    if t.latch = 0 then
      (s1.modSett u (fun t =>
        { t.spend 3 with st := .run, hold := .none, held := 0, region := none, snap := none, pc := t.rgnIndex a 4 })).afterIssue
          u t.pc false
    else if cur + 1 < nr then
      let b10 := (t.store.read (a + 10)).toNat
      let promo := (t.store.read (a + 11)).toNat
      let s2 := s1.modSett u (fun t =>
        let t1 := t.putStore (a + 10) [BitVec.ofNat 8 (b10 + 1), BitVec.ofNat 8 (min 255 (promo + 1))]
        let t2 := (t1.restore p).newEpoch
        { t2.spend 9 with st := .run, hold := .none, held := 0, pc := t2.rgnIndex a (cur + 1) })
      (s2.postSett u 0 Code.done id.toNat false (leBytes 1 cur ++ leBytes 1 (cur + 1) ++ leBytes 1 t.latch.toNat)).afterIssue
        u t.pc false
    else s1.haltSett u Code.overflowPersist 0 2 t.pc
  | _, _ => s

/-- REND: a wrong id is PLAN_MISMATCH; otherwise the drain begins, and ends in the cycle of its issue where nothing is left to
drain (04 R105, R123). -/
def execRend (u : Sett) (id : BitVec 10) (s : State) : Result :=
  .next (s.seqStep u [] (fun s =>
    let t := s.sett u
    if t.region ≠ some id then s.haltSett u Code.planMismatch 0 2 t.pc
    else
      let s1 := s.modSett u (fun t => { t.spend 1 with st := .wait, hold := .rend, held := t.cyc })
      if s.drained u then s1.rendEnd u else s1))

/-- REND_DRAIN_END: nothing of the sett is queued or running any more (04 R123, R127). -/
def execRendDrainEnd (u : Sett) (s : State) : Result :=
  let t := s.sett u
  .next (if t.st = .wait ∧ t.freeze = none ∧ s.drained u then
    match t.hold with
    | .rend => s.rendEnd u
    | .halt => s.enterDone u
    | _ => s
  else s)

/-- INVALID_WORD_DECODE: a word the decoder refuses halts the sett with PLAN_MISMATCH; ENGINE is its ENG (05 R133). -/
def execInvalidWordDecode (u : Sett) (w : BitVec 64) (s : State) : Result :=
  .next (match decodeWord u w with
    | some _ => s
    | none => s.badWord u (w.extractLsb' 60 4).toNat)

/-- ENGINE_ABSENT (04 R104, 05 R133, R158): its own event record is written whether or not it halts the sett (log entry 48); its
increment is made in the cycle after the issue. -/
def execEngineAbsent (u : Sett) (eng : BitVec 4) (_op : BitVec 6) (h : Hdr) (_low : BitVec 44) (s : State) : Result :=
  .next (if eng.toNat < 10 then s else s.seqStep u [] (fun s =>
    let t := s.sett u
    let ix := t.pc
    let s1 := s.modSett u (fun t => SettSt.spend { t.advance with cmdCnt := satAdd t.cmdCnt 1 } 1)
    if h.pen && !t.cmpHolds h.pcmp then s1.afterIssue u ix false
    else
      let s2 := s1.modSett u (fun t => { t with absentCnt := satAdd t.absentCnt 1 })
      let s3 := if h.sen then (s2.sig u h.sign 1).modSett u (fun t => { t with absSig := some (t.cyc, h.sign) }) else s2
      let s4 := s3.postSett u 0 Code.engineAbsent t.layer false []
      if Word.bit (s4.reg (.sq u) 0x08) 2 then s4.haltSett u Code.engineAbsent eng.toNat 2 ix
      else s4.afterIssue u ix false))

/-- May a stall of the engine's queue last (04 R103; 05 R147, R152: a STASH also waits for staging lines that started or queued STASHes
hold)? -/
def State.stalled (s : State) (u : SettId) (e : BitVec 4) : Bool :=
  if e = 0 then decide (8 ≤ s.recCount u)
  else if e = 3 then
    (s.sett u).queueFull 3 || !((s.sett u).engine 3).run.isEmpty ||
    ((s.sett u).engine 3).queue.any (fun q => match q.cmd with
      | .stash _ _ _ _ _ => true
      | _ => false)
  else engOk e && (s.sett u).queueFull e

/-- QUEUE_FULL_STALL: stalled cycles, counted (04 R103). -/
def execQueueFullStall (u : Sett) (eng : BitVec 4) (n : BitVec 32) (s : State) : Result :=
  .next (if (s.sett u).issuing && s.stalled u eng then
    s.modSett u (fun t => { t.spend n.toNat with stallCnt := satAdd t.stallCnt n.toNat })
  else s)

/-- WATCHDOG_EXPIRY: a WAITS or a REND's drain has lasted LIMIT × 1,024 cycles (04 R115, which does not name HALT's drain: log
entry 51). -/
def execWatchdogExpiry (u : Sett) (s : State) : Result :=
  let t := s.sett u
  let limit := s.fld (.sq u) 0x2C 15 0
  .next (if limit ≠ 0 ∧ t.st = .wait ∧ t.hold ≠ .halt ∧ t.freeze = none then
    (s.modSett u (fun t => { t with cyc := max t.cyc (t.held + limit * 1024) })).haltSett u Code.aborted 0 4 t.pc
  else s)

/-- COUNT_BREAK: SQ_CMD_CNT has reached SQ_BRK_CNT (04 R129). -/
def execCountBreak (u : Sett) (s : State) : Result :=
  .next (if (s.sett u).issuing && s.countDue u then s.modSett u (fun t => t.takeBreak 5 t.pc) else s)

/-- The start of a sett (04 R130): refused while it runs or an engine is busy. -/
def State.go (s : State) (u : SettId) : State :=
  s.modSett u (fun t =>
    if (t.st = .idle ∨ t.st = .done ∨ t.st = .halted) ∧ t.engBusy = false then
      { t with st := .run, loops := [], ctsh := Vector.replicate 16 0, shpend := 0, haltInfo := 0, tag := 0, region := none,
               snap := none, hold := .none, held := 0, stepReq := false, brkSeen := false, fetched := 0, hostWr := none }
    else { t with sticky := t.sticky ||| stkGoRefused })

/-- A break request (04 R129): at once, since no instruction is between issue and effect. -/
def State.brk (s : State) (u : SettId) : State :=
  let cause := if (s.sett u).hold == .none && s.countDue u then 5 else 7
  s.modSett u (fun t => if t.st = .run ∨ t.st = .wait then t.takeBreak cause t.pc else t)

/-- RESUME (04 R129): leave the break and interrupt the management core. -/
def State.resume (s : State) (u : SettId) : State :=
  let t := s.sett u
  if t.st = .brk then
    (s.modSett u (fun t => { t with st := if t.hold = .none then .run else .wait, held := t.cyc - t.held })).raise (.settResume u)
  else s

/-- STEP in BREAK: one instruction, then break again (04 R129). -/
def State.stepOne (s : State) (u : SettId) : State :=
  s.modSett u (fun t =>
    if t.st = .brk then { t with st := if t.hold = .none then .run else .wait, stepReq := true, held := t.cyc - t.held } else t)

/-- ABORT (04 R128). -/
def State.abortSett (s : State) (u : SettId) : State :=
  let t := s.sett u
  if t.st = .run ∨ t.st = .wait ∨ t.st = .brk then s.haltSett u Code.aborted 0 3 t.pc else s

/-- A write to SQ_CTL acts when the sett can accept a register access (04 R110). -/
def State.sqAct (s : State) (u : SettId) (f : State → State) : State :=
  if (s.sett u).freeze = none then f s else s

/-- GO (04 R130). -/
def execGo (u : Sett) (s : State) : Result := .next (s.sqAct u (fun s => s.go u))

/-- BREAK (04 R129). -/
def execBreak (u : Sett) (s : State) : Result := .next (s.sqAct u (fun s => s.brk u))

/-- RESUME (04 R129). -/
def execResume (u : Sett) (s : State) : Result := .next (s.sqAct u (fun s => s.resume u))

/-- STEP (04 R129). -/
def execStep (u : Sett) (s : State) : Result := .next (s.sqAct u (fun s => s.stepOne u))

/-- ABORT (04 R128). -/
def execAbort (u : Sett) (s : State) : Result := .next (s.sqAct u (fun s => s.abortSett u))

end Sys2Proof.Machine
end

