-- ==== Sys2Proof/Machine/Engines.lean ====
section
/-!
DEFINITION. Issue of engine commands, their start and their completion (04 R103, R117; 05 R134 to R141; 03 R97).
A command's checks and data effects are taken at its start (log entry 8).
-/
namespace Sys2Proof.Machine

/-- What an engine answers when a command reaches its start. -/
inductive Start where
  /-- A word it consumes has bad parity: the sett froze and the command waits at the head. -/
  | freeze (s : State)
  /-- It cannot start yet (11 R292). -/
  | wait
  /-- It started: status, array occupancy, drain occupancy, completion offset of a fixed event, work left for later. -/
  | go (s : State) (status : Status) (occ drain : Nat) (vis : Option Nat) (work : Bool)

/-- A fault found before the start: the command completes in its start cycle and does nothing (06 R169). -/
def Start.fault (s : State) (c : Status) : Start := .go s c 0 0 (some 0) false

/-- A zero extent: occupancy 1, completion 1 cycle after start (05 R139, R158). -/
def Start.zero (s : State) : Start := .go s Code.zeroExtent 1 0 (some 1) false

/-- Cycle at which the head of an engine's queue may start (03 R97, 05 R138): `cvt` adds the drain's occupancy. -/
def SettSt.startCycle (t : SettSt) (e : BitVec 4) (q : QCmd) (cvt : Bool) : Nat :=
  let c := max (q.issue + 1) (t.engine e).occEnd
  if cvt then max c t.drainEnd else c

/-- Is the command a CVT? -/
def isCvt : Instr → Bool
  | .cvt _ _ _ _ _ _ => true
  | _ => false

/-- Does a fault found at the start wait for the commands before it: the tensor and the stash engine complete in issue order, but
SHAPE_OVER completes in its start cycle (03 R98, 06 R169, 09 R245)? -/
def Eng.waitsTurn (g : Eng) (e : BitVec 4) (status : Status) : Bool :=
  (e == 1 || e == 3) && status != Code.shapeOver && !g.run.isEmpty

/-- The first cycle in which the queue takes a command once its head has left it in cycle c (04 R103). -/
def Eng.roomAt (g : Eng) (c : Nat) : Nat := if 16 ≤ g.queue.length then c + 1 else g.room

/-- Start the head of an engine's queue with the meaning `f` (04 R103: it leaves the queue in the cycle it starts), its descriptors
having been read. -/
def State.begin (s : State) (u : SettId) (e : BitVec 4) (f : State → QCmd → Start) : State :=
  let t := s.sett u
  match (t.engine e).queue with
  | [] => s
  | q :: rest =>
      match s.readNamed u e q with
      | (true, s1) => s.alongside u e.toNat s1
      | (false, s0) =>
      match f s0 q with
      | .freeze s1 => s.alongside u e.toNat s1
      | .wait => if t.freeze.isSome then s else s0
      | .go s1 status occ drain vis work =>
        if t.freeze.isSome then s else
        let c := t.startCycle e q (isCvt q.cmd)
        if 0x10 ≤ status && !(t.engine e).waitsTurn e status then
          let s2 := s1.modSett u (fun t => SettSt.modEng { t with cyc := max t.cyc c } e (fun g =>
            { g with queue := rest, occEnd := c, room := g.roomAt c, checked := 0, named := false }))
          s2.completeCmd u e q status
        else
          s1.modSett u (fun t => SettSt.modEng
            { t with cyc := max t.cyc c, drainEnd := if isCvt q.cmd then c + drain else t.drainEnd } e (fun g =>
            { g with queue := rest, occEnd := c + occ, room := g.roomAt c, checked := 0, named := false,
                     run := g.run ++ [⟨q, c, status, vis.map (fun v => c + v), work, false⟩] }))

/-- May the head start in the cycle after issue: the engine has nothing running that would hold it back? -/
def SettSt.engFree (t : SettSt) (e : BitVec 4) (cvt : Bool) : Bool :=
  let g := t.engine e
  if e.toNat ≤ 3 then decide (g.occEnd ≤ t.cyc) && (!cvt || decide (t.drainEnd ≤ t.cyc)) && (e != 3 || decide (g.run.length < 16))
  else if e.toNat = 8 then decide (g.run.length < 4)
  else g.run.isEmpty

/-- Is the predicate of a command false (04 R117)? -/
def SettSt.predFalse (t : SettSt) (h : Hdr) : Bool := h.pen && !t.cmpHolds h.pcmp

/-- Issue of an engine command (04 R103, R117; 05 R134): a false predicate takes the issue cycle alone; a full queue (or
a closed gate) stalls, its word having been fetched; otherwise the command enters the queue with what it captured, and starts if its
engine is idle. -/
def State.issueCmd (s : State) (u : SettId) (e : BitVec 4) (h : Hdr) (cmd : Instr) (descs : List (BitVec 14))
    (gate : Bool) (f : State → QCmd → Start) : State :=
  let stall (t : SettSt) : Bool := !gate || t.queueFull e
  s.seqStep u (if (s.sett u).predFalse h || stall (s.sett u) then [] else descs.flatMap (s.sett u).captureReads) (fun s =>
    let t := s.sett u
    let ix := t.pc
    let issued : SettSt → SettSt := fun t => SettSt.spend { t.advance with cmdCnt := satAdd t.cmdCnt 1 } 1
    if t.predFalse h then (s.modSett u issued).afterIssue u ix false
    else if stall t then s.modSett u (fun t => { t with fetched := if s.mayMismatch u then 2 else 0 })
    else
      let q : QCmd := { cmd := cmd, hdr := h, index := ix, issue := t.cyc, epoch := t.epoch, ct := t.ct.toList,
                        descs := descs, ext := descs.map (fun f => (t.desc f).capture t), step := t.step }
      let idle := (t.engine e).queue.isEmpty
      let s1 := s.modSett u (fun t => (issued t).modEng e (fun g => { g with queue := g.queue ++ [q] }))
      let s2 := s1.afterIssue u ix false
      if idle && (s2.sett u).engFree e (isCvt cmd) then s2.begin u e f else s2)

/-- Captured extents of the k-th descriptor of a command. -/
def QCmd.extOf (q : QCmd) (k : Nat) : List Nat := q.ext.getD k []

/-- A captured counter. -/
def QCmd.ctr (q : QCmd) (n : BitVec 4) : Nat := (q.ct.getD n.toNat 0).toNat

/-- Does an occurrence of this command count for the region latch (10 R271)? Source bit `i` of Table 10-6. -/
def State.occur (s : State) (u : SettId) (q : QCmd) (i : Nat) (yes : Bool) : State :=
  let t := s.sett u
  if yes && t.region.isSome && q.epoch == t.epoch && Word.bit (s.reg (.ve u) 0x0C) i then
    s.modSett u (fun t => { t with latch := t.latch ||| BitVec.ofNat 5 (2 ^ i) })
  else s

/-- The oldest started command of an engine completes (05 R140): at its fixed event, or `n` cycles after its start. -/
def State.finishHead (s : State) (u : SettId) (e : BitVec 4) (n : Nat) : State :=
  match ((s.sett u).engine e).run with
  | [] => s
  | r :: rest =>
    let c := r.doneAt.getD (r.start + n)
    (s.modSett u (fun t => SettSt.modEng { t with cyc := max t.cyc (c + 1) } e (fun g => { g with run := rest }))).completeCmd
      u e r.q r.status r.inj

/-- The cycle in which a started command completes, where it is a fixed event. -/
def RCmd.due (r : RCmd) : Nat := r.doneAt.getD r.start

/-- The started command whose fixed event comes first, the oldest of several in one cycle. -/
def firstDue (l : List RCmd) : Option RCmd :=
  l.foldl (fun m r => match m with
    | none => some r
    | some x => if r.due < x.due then some r else some x) none

/-- The vector engine's next completion, in the order of the fixed events (05 R140, Table 05-9). -/
def State.finishFirst (s : State) (u : SettId) (e : BitVec 4) : State :=
  match firstDue ((s.sett u).engine e).run with
  | none => s
  | some r =>
    (s.modSett u (fun t => SettSt.modEng { t with cyc := max t.cyc (r.due + 1) } e (fun g => { g with run := g.run.erase r }))).completeCmd
      u e r.q r.status r.inj

end Sys2Proof.Machine
end

