-- ==== Sys2Proof/Machine/Dma.lean ====
section
/-!
DEFINITION. DMA channel programs (13 R317 to R330, 03 R79 to R82, 05 R154). A row's operands are the instruction's words as
fetched. The bytes of a transfer move at the row that issues it; bursts that fail or never finish give them back (log entry 8).
-/
namespace Sys2Proof.Machine

/-- A channel. -/
def State.chan (s : State) : Chan → DmaCh
  | .sett u c => (s.sett u).ch[c.val]
  | .sys c => s.xch[c.val]

/-- Change a channel. -/
def State.modChan (s : State) (c : Chan) (f : DmaCh → DmaCh) : State :=
  match c with
  | .sett u k => s.modSett u (fun t => { t with ch := t.ch.set k.val (f (t.ch[k.val])) })
  | .sys k => { s with xch := s.xch.set k.val (f (s.xch[k.val])) }

/-- The die whose pier translates for a channel. -/
def chanDie : Chan → Option (Fin 2)
  | .sett u _ => some (dieIx u)
  | .sys _ => none

/-- The engine number of a sett channel (04 Table 04-2). -/
def chanEng (k : Fin 4) : BitVec 4 := BitVec.ofNat 4 (4 + k.val)

/-- Is the channel's own sett frozen? -/
def State.chanFrozen (s : State) : Chan → Bool
  | .sett u _ => (s.sett u).freeze.isSome
  | .sys _ => false

/-- Module address of a byte offset of a channel's program (13 R318). -/
def State.progAddr (s : State) (c : Chan) (o : Nat) : Nat :=
  match c with
  | .sett u _ => windowOf u + (s.chan c).prog + o
  | .sys _ => (s.chan c).prog + o

/-- Do `n` program bytes at an offset lie in the sett store, or in the tier of DM_CH_PROG (13 R319)? -/
def State.progInside (s : State) (c : Chan) (o n : Nat) : Bool :=
  let p := (s.chan c).prog
  match c with
  | .sett _ _ => decide (p + o + n ≤ storeSize)
  | .sys _ =>
    if p < hbmSize then decide (p + o + n ≤ hbmSize)
    else decide (burrowBase ≤ p) && decide (p + o + n ≤ 0x20000000000)

/-- Address of the first of `n` program words that is out of reach (13 R319, R328). -/
def State.fetchEnd (s : State) (c : Chan) (o : Nat) (n : Nat) : Nat :=
  s.progAddr c (((List.range n).map (fun i => o + 8 * i)).find? (fun x => !s.progInside c x 8) |>.getD o)

/-- A word of a channel's program. -/
def State.progWord (s : State) (c : Chan) (o : Nat) : Nat :=
  match c with
  | .sett u _ => (s.sett u).store.num ((s.chan c).prog + o) 8
  | .sys _ =>
    let p := (s.chan c).prog + o
    if p < hbmSize then s.hbm.num p 8 else s.burrow.num (p - burrowBase) 8

/-- A fault of the channel: it issues nothing more, and halts once its bursts in flight have ended (13 R328). -/
def State.dmaFault (s : State) (c : Chan) (status addr : Nat) : State :=
  s.modChan c (fun h => { h with st := .aborting, waiting := none, fence := none, fault := some (status, addr) })

/-- Is a channel at rest: no program runs (13 R330)? -/
def DmaCh.still (h : DmaCh) : Bool := h.st == .idle || h.st == .halted

/-- A failure that comes after the one that stops the channel: DM_CH_FADDR takes the least failing address (13 R328). -/
def DmaCh.alsoFails (h : DmaCh) (addr : Nat) : DmaCh :=
  { h with fault := h.fault.map (fun f => (f.1, min f.2 addr)) }

/-- Consumption by the instruction at PC of words that it reads after `before` others: true where a sett froze (07 R194). -/
def State.chanReads (s : State) (c : Chan) (before : Nat) (rs : List (SettId × Reads)) : Bool × State :=
  let own : BitVec 4 := match c with
    | .sett _ k => chanEng k
    | .sys _ => 9
  match State.consumeAll (some c) own ((s.chan c).checked - before) rs before s with
  | (some k, s1) => (true, s1.modChan c (fun h => { h with checked := k }))
  | (none, s1) => (false, s1.modChan c (fun h => { h with checked := max h.checked (before + readCount rs) }))

/-- OP of an instruction. -/
def dmaOp (w : BitVec 64) : Nat := bitsOf w.toNat 63 60

/-- The sett-store words that `n` bytes of a channel's program at an offset consume (13 R319). -/
def State.progReads (s : State) (c : Chan) (o n : Nat) : List (SettId × Reads) :=
  match c with
  | .sett u _ => [(u, .store ((s.chan c).prog + o) n)]
  | .sys _ => []

/-- A channel of a frozen sett finds a mismatch of its own (04 R111); other channels are not held by it. -/
def State.chanAlongside (s : State) (c : Chan) (r : State) : State :=
  match c with
  | .sett u k => s.alongside u (chanEng k).toNat r
  | .sys _ => r

/-- One instruction of a channel: nothing where the channel does not run or the words are another instruction; a fetch out
of reach is BOUNDS, a reserved OP or a field out of range PLAN_MISMATCH (13 R319). `f` is told how many words the instruction has
consumed, and answers whether it waits. -/
def State.dmaStep (s : State) (c : Chan) (op : Nat) (ws : List (BitVec 64)) (ok : Bool) (f : State → Nat → Bool × State) : State :=
  let h := s.chan c
  let o := dmaOp (ws.headD 0)
  let rs := s.progReads c h.pc (8 * ws.length)
  if h.st ≠ .run || (o ≠ op && 1 ≤ o && o ≤ 7) then s
  else if !s.progInside c h.pc (8 * ws.length) then
    (if s.chanFrozen c then s else s.dmaFault c Code.bounds (s.fetchEnd c h.pc ws.length))
  else
    match s.chanReads c 0 rs with
    | (true, s1) => s.chanAlongside c s1
    | (false, s1) =>
      if s.chanFrozen c then s
      else if o ≠ op || !ok then s1.dmaFault c Code.planMismatch 0
      else
        match f s1 (readCount rs) with
        | (true, s2) => s2
        | (false, s2) => s2.modChan c (fun h => { h with checked := 0 })

/-- Sums modulo 2^48 (13 R320). -/
def add48 (a : Nat) (z : Int) : Nat := (((a : Int) + z) % (2 ^ 48 : Nat)).toNat

/-- Bursts of one row (13 R321): at most 4 KiB, across no 4 KiB boundary of source or destination. -/
def cutRow : Nat → Nat → Nat → Nat → List Burst
  | 0, _, _, _ => []
  | f + 1, a, d, n =>
    if n = 0 then [] else
    let k := min n (min (4096 - a % 4096) (4096 - d % 4096))
    ⟨a, d, k⟩ :: cutRow f (add48 a k) (add48 d k) (n - k)

/-- Bursts of a row of `n` bytes. -/
def rowBursts (a d n : Nat) : List Burst := cutRow (n / 2048 + 4) a d n

/-- Insert a run into runs sorted by their first byte. -/
def insertRun (x : Nat × Nat) : List (Nat × Nat) → List (Nat × Nat)
  | [] => [x]
  | y :: ys => if x.1 ≤ y.1 then x :: y :: ys else y :: insertRun x ys

/-- Runs sorted by their first byte and joined where they touch. -/
def sortRuns (l : List (Nat × Nat)) : List (Nat × Nat) :=
  ((l.foldr insertRun []).foldl (fun acc x => match acc with
    | y :: ys => if x.1 ≤ y.1 + y.2 then (y.1, max (y.1 + y.2) (x.1 + x.2) - y.1) :: ys else x :: y :: ys
    | [] => [x]) []).reverse

/-- Do two lists of joined runs meet? -/
def runsMeet : Nat → List (Nat × Nat) → List (Nat × Nat) → Bool
  | 0, _, _ => false
  | _ + 1, [], _ => false
  | _ + 1, _, [] => false
  | f + 1, x :: xs, y :: ys =>
    if rangesMeet x.1 x.2 y.1 y.2 then true
    else if x.1 + x.2 ≤ y.1 then runsMeet f xs (y :: ys) else runsMeet f (x :: xs) ys

/-- Do two lists of byte ranges meet? -/
def anyMeet (a b : List (Nat × Nat)) : Bool :=
  let x := sortRuns a
  let y := sortRuns b
  runsMeet (x.length + y.length + 1) x y

/-- Where the sources and the destinations of bursts lie, those that have a place, as numbers with lengths. -/
def State.sources (s : State) (c : Chan) (bs : List Burst) : List (Nat × Nat) :=
  bs.filterMap (fun b => (s.locate (chanDie c) b.src false).1.map (fun l => (l.flat, b.n)))
def State.targets (s : State) (c : Chan) (bs : List Burst) : List (Nat × Nat) :=
  bs.filterMap (fun b => (s.locate (chanDie c) b.dst true).1.map (fun l => (l.flat, b.n)))

/-- Do the source and destination bytes of a transfer overlap (13 R320), wherever translation puts them? -/
def State.overlaps (s : State) (c : Chan) (bs : List Burst) : Bool := anyMeet (s.sources c bs) (s.targets c bs)

/-- The sett-store and WAB words a transfer consumes, where the addresses have a place. -/
def State.burstReads (s : State) (c : Chan) (bs : List Burst) (multi : Bool) : List (SettId × Reads) :=
  bs.flatMap (fun b =>
    (((s.locate (chanDie c) b.src false).1.map (fun l => l.reads b.n)).getD []) ++
    (if multi then [] else ((s.locate (chanDie c) b.dst true).1.map (fun l => l.oldReads b.n)).getD []))

/-- Is traffic from sett u to sett v on its way: signal packets, multicast copies? Later writes and signals of u stay behind it on the
one route (01 R20, R23; 03 R81). -/
def State.trAhead (s : State) (u v : SettId) : Bool :=
  s.pkts.any (fun p => p.src == u && p.dst == v) || s.mcast.any (fun m => m.iss == u && m.mem == v)

/-- Is the item of an order number the oldest on its way from u to v? -/
def State.trFirst (s : State) (u v : SettId) (ord : Nat) : Bool :=
  s.pkts.all (fun p => p.src != u || p.dst != v || decide (ord ≤ p.ord)) &&
  s.mcast.all (fun m => m.iss != u || m.mem != v || decide (ord ≤ m.ord))

/-- Is a transfer held back: it touches the window of a frozen sett (04 R110), or it would overtake traffic of its sett on the way
to the same sett (01 R20)? -/
def State.burstsHeld (s : State) (c : Chan) (bs : List Burst) : Bool :=
  s.chanFrozen c ||
  bs.any (fun b =>
    [b.src, b.dst].any (fun a => (((s.place a false).bind Loc.sett?).map (fun u => (s.sett u).freeze.isSome)).getD false) ||
    (match c, (s.place b.dst true).bind Loc.sett? with
      | .sett u _, some v => u != v && s.trAhead u v
      | _, _ => false))

/-- Is a remote access a burst of the channel? -/
def RAcc.of (r : RAcc) (c : Chan) : Bool :=
  match r.who with
  | .burst d _ => d == c
  | .mem _ _ _ | .holt _ _ _ _ => false

/-- Is a remote access burst i of the channel? -/
def RAcc.ofBurst (r : RAcc) (c : Chan) (i : Nat) : Bool := r.who == .burst c i

/-- Does an earlier transfer of the channel hold the next one back (log entry 24)? A burst that failed has not been moved, a remote
access of it is outstanding, or, before a multicast write, a copy of an earlier one is on its way. -/
def State.xferOpen (s : State) (c : Chan) (multi : Bool) : Bool :=
  (((s.chan c).xfer).map (fun x => !x.dead.isEmpty)).getD false || s.roce.any (fun r => r.of c) ||
  (multi && (match c with
    | .sett u k => s.mcast.any (fun m => m.iss == u && m.ch == k.val)
    | .sys _ => false))

/-- A burst as an opportunity of the BUS_ERR injection point of its unit (17 Table 17-10). -/
def State.injBurst (s : State) (c : Chan) : Option (Nat × Bool) × State :=
  match c with
  | .sett u k => s.injStep (.injS u) 4 (fun sel => sel == k.val) 1
  | .sys k => s.injStep .injX 7 (fun sel => sel == k.val) 1

/-- May the next request of a queue pair leave: nothing waits before it, and for a read fewer than MAX_RD are outstanding (15 R369)? -/
def State.mayLeave (s : State) (q : Nat) (wr : Bool) : Bool :=
  s.roce.all (fun r => r.qp != q || r.sent.isSome) &&
  (wr || decide ((s.roce.filter (fun r => r.qp == q && !r.write)).length < (s.qp q).maxRd))

/-- The request of a remote access leaves, over the mapping in force (07 R187, R189): a write's bytes reach the image. -/
def State.leaves (s : State) (r : RAcc) (l : Loc) : State :=
  let s1 := (if r.write then s.poke l r.data else s).rdmaOut l r.write r.n r.data
  { s1 with roce := s1.roce.map (fun x => if x = r then { r with sent := (match l with
      | .remote _ va k => some (va, k)
      | _ => none) } else x) }

/-- A remote access of a burst is made (07 R188): its request leaves, or waits its turn. -/
def State.remoteGo (s : State) (r : RAcc) (l : Loc) : State :=
  let go := s.mayLeave r.qp r.write
  let s1 := { s with roce := s.roce ++ [r] }
  if go then s1.leaves r l else s1

/-- What a read of a channel finds at a place: a byte that an earlier transfer of its program wrote, with no SIGNAL between them, is
the new one or the old one (13 R321, log entry 54). -/
def State.readMix (s : State) (unf : List Undo) (l : Loc) (n : Nat) : List Byte × State :=
  (unf.filter (fun w => rangesMeet l.flat n w.loc.flat w.old.length)).foldl (fun (acc : List Byte × State) w =>
    let lo := max l.flat w.loc.flat - l.flat
    let hi := min (l.flat + n) (w.loc.flat + w.old.length) - l.flat
    let mid := (((acc.1.drop lo).take (hi - lo)).zip ((w.old.drop (l.flat + lo - w.loc.flat)).take (hi - lo))).zip
      (Config.freeBytes acc.2.freeCtr (hi - lo))
    (acc.1.take lo ++ mid.map (fun p => if bitOf p.2.toNat 0 then p.1.1 else p.1.2) ++ acc.1.drop hi,
     { acc.2 with freeCtr := acc.2.freeCtr + 1 })) (s.peek l n, s)

/-- The granule of a translated address. -/
def granOf (a : Nat) : List Nat := if isTrans a then [(a - transBase) / 0x200000] else []

/-- Progress of a transfer: what each burst's destination held, the bursts that failed, what reached sett stores, the fault that
stopped it, the injected failures, the granules used. -/
structure Moving where
  s : State
  undo : List Undo
  dead : List Nat
  parts : List Part
  fault : Option (Nat × Nat)
  inj : Bool
  persist : Bool
  grans : List Nat

/-- Nothing moved yet. -/
def Moving.start (s : State) : Moving := ⟨s, [], [], [], none, false, false, []⟩

/-- A burst that reached a place whose bytes came from `ls`: the part it brought into a sett store. -/
def partOf (i : Nat) (ls ld : Loc) (free : Bool) (n : Nat) : List Part :=
  match ld with
  | .store u o => [⟨i, u, o, (match ls with
      | .hbm a => if free then none else some a
      | _ => none), n⟩]
  | _ => []

/-- A write of HBM by a channel of a sett may hand entries to a work queue (16 R382). -/
def State.chanTail (s : State) (c : Chan) (l : Loc) (n : Nat) (old : Mem) : State :=
  match c, l with
  | .sett u _, .hbm a => s.noteTail u a n old
  | _, _ => s

/-- Move one burst: `free` writes bytes that nothing constrains (an overlapping MOVE, 13 R320), `unf` are the writes of the program
that no SIGNAL has waited for. A remote read's bytes follow with its data, a remote write as its request leaves. -/
def Moving.burst (m : Moving) (c : Chan) (free : Bool) (unf : List Undo) (i : Nat) (b : Burst) : Moving :=
  if m.fault.isSome then m else
  match m.s.locate (chanDie c) b.src false with
  | (none, s1) => { m with s := s1, fault := some (s1.denied (chanDie c) b.src, b.src) }
  | (some ls, s1) =>
    match s1.locate (chanDie c) b.dst true with
    | (none, s2) => { m with s := s2, fault := some (s2.denied (chanDie c) b.dst, b.dst) }
    | (some ld, s2) =>
      let m1 := { m with grans := m.grans ++ granOf b.src ++ granOf b.dst }
      if s2.notReady ls || s2.notReady ld then { m1 with s := s2, undo := m.undo ++ [⟨ld, []⟩], dead := m.dead ++ [i] }
      else
        match s2.injBurst c with
        | (some (_, per), s3) =>
          { m1 with s := s3, undo := m.undo ++ [⟨ld, []⟩], dead := m.dead ++ [i], inj := true, persist := m.persist || per }
        | (none, s3) =>
        match ls with
        | .remote q _ _ =>
          { m1 with s := s3.remoteGo ⟨q, false, .burst c i, b.src, b.n, some ld, [], none⟩ ls, undo := m.undo ++ [⟨ld, []⟩] }
        | _ =>
          let (bs, s4) := if free then (Config.freeBytes s3.freeCtr b.n, { s3 with freeCtr := s3.freeCtr + 1 })
            else s3.readMix unf ls b.n
          match ld with
          | .remote q _ _ =>
            let old := s4.peek ld b.n
            { m1 with s := s4.remoteGo ⟨q, true, .burst c i, b.dst, b.n, none, bs, none⟩ ld,
                      undo := m.undo ++ [⟨ld, if s4.mayLeave q true then old else []⟩] }
          | _ =>
            { m1 with s := (s4.poke ld bs).chanTail c ld b.n s4.hbm, undo := m.undo ++ [⟨ld, s4.peek ld b.n⟩],
                      parts := m.parts ++ partOf i ls ld free b.n }

/-- Does a list of pieces (offset, length) cover a line from `x` on? -/
def covers : Nat → Nat → List (Nat × Nat) → Bool
  | 0, _, _ => false
  | f + 1, x, ps =>
    if 4096 ≤ x then true
    else match ps.find? (fun p => decide (p.1 ≤ x) && decide (x < p.1 + p.2)) with
      | some p => covers f (p.1 + p.2) ps
      | none => false

/-- The lines that one write made clean, with their backing lines (07 R195). -/
def cleanLines (parts : List Part) : List (SettId × Nat × Nat) :=
  let lines := (parts.map (fun p => (p.sett, p.off / 4096))).eraseDups
  lines.filterMap (fun ul =>
    let ps := parts.filter (fun p => p.sett = ul.1 && p.off / 4096 == ul.2)
    match ps.head? with
    | some ⟨_, _, _, some a, _⟩ =>
      let b := a / 4096
      if ps.all (fun p => match p.from_ with
          | some a => a / 4096 == b && a % 4096 == p.off % 4096
          | none => false) && covers (ps.length + 1) 0 (ps.map (fun p => (p.off % 4096, p.n)))
      then some (ul.1, ul.2, b) else none
    | _ => none)

/-- Set the clean lines of a write: those that hold the bytes of their backing lines. -/
def State.markClean (s : State) (l : List (SettId × Nat × Nat)) : State :=
  l.foldl (fun s x =>
    if (s.sett x.1).store.load (x.2.1 * 4096) 4096 = s.hbm.load (x.2.2 * 4096) 4096 then
      s.modSett x.1 (fun t => { t with clean := Tbl.put t.clean x.2.1 x.2.2 })
    else s) s

/-- Move the pieces of a transfer one after another; each piece counts as one write (07 R195, 13 R323). -/
def Moving.pieces (m : Moving) (c : Chan) (free : Bool) (unf : List Undo) : Nat → List (List Burst) → Moving
  | _, [] => m
  | i, p :: ps =>
    let m1 := (p.zip (List.range p.length)).foldl (fun m bj => m.burst c free unf (i + bj.2) bj.1) { m with parts := [] }
    let m2 := Moving.pieces { m1 with s := m1.s.markClean (cleanLines m1.parts) } c free unf (i + p.length) ps
    { m2 with parts := m1.parts ++ m2.parts }

/-- First burst of each piece. -/
def cutsOf : Nat → List (List Burst) → List Nat
  | _, [] => []
  | i, p :: ps => i :: cutsOf (i + p.length) ps

/-- The writes of the program's earlier transfers that no SIGNAL has waited for, the last transfer's among them. -/
def DmaCh.loose (h : DmaCh) : List Undo :=
  h.unfenced ++ ((h.xfer.map (fun x => x.undo.filter (fun w => !w.old.isEmpty))).getD [])

/-- The first burst whose destination lies in the spill area of its sett while a tile is spilled (03 R88). -/
def State.intoSpill (s : State) (c : Chan) (bs : List Burst) : Option Burst :=
  bs.find? (fun b => match (s.locate (chanDie c) b.dst true).1 with
    | some (.wab u o) => s.hitsSpill u o b.n
    | _ => false)

/-- Issue a transfer of pieces: the channel goes on, or stops at the burst that has no place (13 R320, R321, R328). -/
def State.transfer (s : State) (c : Chan) (pieces : List (List Burst)) (row : Nat) : State :=
  let bs := pieces.flatten
  let h := s.chan c
  match s.intoSpill c bs with
  | some b => s.dmaFault c Code.bounds b.dst
  | none =>
    let m := Moving.pieces (Moving.start s) c (s.overlaps c bs) h.loose 0 pieces
    let issued := m.undo.length
    let x : Xfer := { pc := h.pc, aor := h.aor, loops := h.loops, bursts := bs, cut := cutsOf 0 pieces, row := row, parts := m.parts,
                      grans := m.grans.eraseDups, stale := false, undo := m.undo,
                      dead := m.dead ++ (List.range (bs.length - issued)).map (· + issued), tries := [], multi := false,
                      landed := false, inj := m.inj, persist := m.persist }
    let s1 := m.s.modChan c (fun h' => { h' with unfenced := h.loose })
    match m.fault with
    | none => s1.modChan c (fun h => { h with xfer := some { x with dead := m.dead }, pc := h.pc + 32 })
    | some (st, a) => (s1.modChan c (fun h => { h with xfer := some x })).dmaFault c st a

/-- Members of a multicast group (03 R79): TR_MCG of the issuing sett's die. -/
def State.members (s : State) (d : Fin 2) (g : Nat) : List SettId :=
  (List.range 8).flatMap (fun w =>
    let v := s.reg (.tr d) (0x800 + 32 * g + 4 * w)
    (List.range 32).filterMap (fun j => if Word.bit v j then some (settOf (w / 4) (32 * (w % 4) + j)) else none))

/-- Store offset of an address in a sett's own store. -/
def ownStore (u : SettId) (a n : Nat) : Option Nat :=
  let base := windowOf u
  if base ≤ a && a + n ≤ base + storeSize then some (a - base) else none

/-- The read of a multicast burst with `n` re-issues left (13 R322, R328): a queue pair that is not ready and a fire of the injection
point fail an attempt with BUS_ERR. None where the read is made; otherwise whether a fire made it fail for good. -/
def State.readTries (c : Chan) (ready : Bool) : Nat → State → Option Bool × State
  | n, s =>
    let again (s : State) (k : Nat) : State := s.modChan c (fun h => { h with retry := satAdd h.retry k })
    if !ready then (some false, again s n)
    else
      match s.injBurst c with
      | (none, s1) => (none, s1)
      | (some (_, true), s1) => (some true, again s1 n)
      | (some (_, false), s1) =>
        match n with
        | 0 => (some true, s1)
        | k + 1 => State.readTries c ready k (again s1 1)

/-- What the reads of a multicast write have given so far: the runs of bytes read, the fault that stopped it, whether a fire caused
that fault, the granules used. -/
structure McRead where
  s : State
  parts : List (Nat × Option Nat × List Byte)
  fault : Option (Nat × Nat)
  inj : Bool
  grans : List Nat

/-- Read one burst of a multicast write of sett `u`. -/
def McRead.burst (m : McRead) (u : SettId) (c : Chan) (free : Bool) (unf : List Undo) (i : Nat) (b : Burst) : McRead :=
  if m.fault.isSome then m
  else
    match m.s.locate (chanDie c) b.src false with
    | (none, s1) => { m with s := s1, fault := some (s1.denied (chanDie c) b.src, b.src) }
    | (some l, s1) =>
      match State.readTries c (!s1.notReady l) (s1.chan c).retryMax s1 with
      | (some inj, s2) => { m with s := s2, fault := some (Code.busErr, b.src), inj := inj }
      | (none, s2) =>
        let (bs, s3) := if free then (Config.freeBytes s2.freeCtr b.n, { s2 with freeCtr := s2.freeCtr + 1 })
          else s2.readMix unf l b.n
        { m with s := (match l with
                   | .remote q _ _ => s3.remoteGo ⟨q, false, .burst c i, b.src, b.n, none, [], none⟩ l
                   | _ => s3),
                 grans := m.grans ++ granOf b.src,
                 parts := m.parts ++ [((ownStore u b.dst b.n).getD 0, (match l with
                   | .hbm a => if free then none else some a
                   | _ => none), bs)] }

/-- Do the source bytes of a multicast write overlap its destination at some member (13 R320)? -/
def State.mcOverlaps (s : State) (u : SettId) (c : Chan) (bs : List Burst) (ms : List SettId) : Bool :=
  anyMeet (bs.filterMap (fun b => match (s.locate (chanDie c) b.src false).1 with
    | some (.store v o) => if ms.contains v then some (o, b.n) else none
    | _ => none)) (bs.filterMap (fun b => (ownStore u b.dst b.n).map (fun o => (o, b.n))))

/-- Where the destination of a multicast write leaves the issuing sett's own store (13 R322): the least such address. -/
def outsideOwn (c : Chan) (bs : List Burst) : Option Nat :=
  match c with
  | .sys _ => some ((bs.map (·.dst)).headD 0)
  | .sett u _ => ((bs.filter (fun b => (ownStore u b.dst b.n).isNone)).map (·.dst)).min?

/-- A multicast write (13 R322, 03 R80): every member's copy is on its way. -/
def State.multicast (s : State) (u : SettId) (k : Fin 4) (bs : List Burst) (row g msig : Nat) : State :=
  let c : Chan := .sett u k
  let h := s.chan c
  if s.cfgBad (.tr (dieIx u)) then s.dmaFault c Code.cfgParity 0
  else
    let ms := s.members (dieIx u) g
    let free := s.mcOverlaps u c bs ms
    let r := (bs.zip (List.range bs.length)).foldl (fun (m : McRead) bi => m.burst u c free h.loose bi.2 bi.1) ⟨s, [], none, false, []⟩
    let x : Xfer := { pc := h.pc, aor := h.aor, loops := h.loops, bursts := bs, cut := [0], row := row, parts := [],
                      grans := r.grans.eraseDups, stale := false, undo := [],
                      dead := (List.range (bs.length - r.parts.length)).map (· + r.parts.length), tries := [], multi := true,
                      landed := false, inj := r.inj, persist := false }
    let s1 := r.s.modChan c (fun h' => { h' with xfer := some x, unfenced := h.loose })
    let out (s : State) (sg : Option Nat) : State :=
      { s with mcast := s.mcast ++ (ms.map (fun m => ⟨u, k.val, m, r.parts, sg, s.trOrd, 0⟩)), trOrd := s.trOrd + 1 }
    match r.fault with
    | some (st, a) => (out s1 none).dmaFault c st a
    | none => out (s1.modChan c (fun h => { h with pc := h.pc + 32 })) (some msig)

/-- The words of a MOVE: fields in the ranges of 13 R318 to R322, Table 13-1. -/
def moveOk (w0 w1 w2 : BitVec 64) (w3 : BitVec 64) : Bool :=
  let a := w0.toNat
  let two := bitOf a 59
  bitsOf a 45 24 == 0 && bitsOf w2.toNat 63 48 == 0 && decide (1 ≤ bitsOf a 23 0) &&
  (if two then decide (1 ≤ bitsOf w1.toNat 63 48) else bitsOf w1.toNat 63 48 == 0 && w3 == 0#64) &&
  (bitsOf a 56 51 != 0 || bitsOf a 50 46 == 0)

/-- Bursts of a MOVE, row by row. -/
def moveBursts (aor : Nat) (w0 w1 w2 w3 : BitVec 64) : List Burst :=
  let a := w0.toNat
  let src := (bitsOf w1.toNat 47 0 + if bitOf a 58 then aor else 0) % 2 ^ 48
  let dst := (bitsOf w2.toNat 47 0 + if bitOf a 57 then aor else 0) % 2 ^ 48
  let rows := if bitOf a 59 then bitsOf w1.toNat 63 48 else 1
  (List.range rows).flatMap (fun (r : Nat) =>
    rowBursts (add48 src ((r : Int) * signedOf 32 (bitsOf w3.toNat 63 32))) (add48 dst ((r : Int) * signedOf 32 (bitsOf w3.toNat 31 0)))
      (bitsOf a 23 0))

/-- MOVE (13 R320 to R322). -/
def execMove (c : Chan) (w0 w1 w2 w3 : BitVec 64) (s : State) : Result :=
  .next (s.dmaStep c 1 [w0, w1, w2, w3] (moveOk w0 w1 w2 w3) (fun s n =>
    let bs := moveBursts (s.chan c).aor w0 w1 w2 w3
    let row := bitsOf w0.toNat 23 0
    let g := bitsOf w0.toNat 56 51
    match (if g = 0 then none else outsideOwn c bs) with
    | some a => (false, s.dmaFault c Code.bounds a)
    | none =>
      if s.burstsHeld c bs || s.xferOpen c (g != 0) then (true, s)
      else
        match s.chanReads c n (s.burstReads c bs (g != 0)) with
        | (true, s1) => (true, s1)
        | (false, s1) =>
          match c with
          | .sett u k => (false, if g = 0 then s1.transfer c [bs] row else s1.multicast u k bs row g (bitsOf w0.toNat 50 46))
          | .sys _ => (false, s1.transfer c [bs] row)))

/-- The words of an LMOVE in range (13 R323). -/
def lmoveOk (w0 w1 w2 : BitVec 64) : Bool :=
  bitsOf w0.toNat 57 24 == 0 && decide (1 ≤ bitsOf w0.toNat 23 0) && decide (1 ≤ bitsOf w1.toNat 63 48) &&
  bitsOf w1.toNat 31 22 == 0 && bitsOf w1.toNat 3 0 == 0 && bitsOf w2.toNat 63 48 == 0

/-- The pieces of an LMOVE over a pointer list at store offset `list` (13 R323). -/
def lmovePieces (t : SettSt) (aor list : Nat) (w0 w1 w2 w3 : BitVec 64) : List (List Burst) :=
  let n := bitsOf w0.toNat 23 0
  let other := bitsOf w2.toNat 47 0
  (List.range (bitsOf w1.toNat 63 48)).map (fun k =>
    let e := list + 16 + 16 * (bitsOf w1.toNat 47 32 + k)
    let la := ((if bitOf w0.toNat 58 then t.store.num (e + 8) 5 * 256 else t.store.num e 6) + bitsOf w3.toNat 31 0) % 2 ^ 48
    let oa := add48 other (aor + k * signedOf 32 (bitsOf w3.toNat 63 32))
    if bitOf w0.toNat 59 then rowBursts oa la n else rowBursts la oa n)

/-- LMOVE (13 R323). -/
def execLmove (c : Chan) (w0 w1 w2 w3 : BitVec 64) (s : State) : Result :=
  .next (s.dmaStep c 7 [w0, w1, w2, w3] (lmoveOk w0 w1 w2) (fun s n =>
    match c with
    | .sys _ => (false, s.dmaFault c Code.bounds 0)
    | .sett u _ =>
      let count := bitsOf w1.toNat 63 48
      let j0 := bitsOf w1.toNat 47 32
      let list := bitsOf w1.toNat 21 0
      if storeSize < list + 16 then (false, s.dmaFault c Code.bounds (windowOf u + list))
      else
        match s.chanReads c n [(u, .store list 16)] with
        | (true, s1) => (true, s1)
        | (false, s1) =>
          if (s1.sett u).word list < j0 + count || storeSize < list + 16 + 16 * (j0 + count) then
            (false, s1.dmaFault c Code.bounds (windowOf u + list))
          else
            match s1.chanReads c (n + 4) [(u, .store (list + 16 + 16 * j0) (16 * count))] with
            | (true, s2) => (true, s2)
            | (false, s2) =>
              let ps := lmovePieces (s2.sett u) (s2.chan c).aor list w0 w1 w2 w3
              if s2.burstsHeld c ps.flatten || s2.xferOpen c false then (true, s2)
              else
                match s2.chanReads c (n + 4 + 4 * count) (s2.burstReads c ps.flatten false) with
                | (true, s3) => (true, s3)
                | (false, s3) => (false, s3.transfer c ps (bitsOf w0.toNat 23 0))))

/-- Words an instruction occupies (13 R318). -/
def dmaLen (op : Nat) : Nat := if op = 1 || op = 7 then 32 else 8

/-- What stepping over a skipped loop body finds (13 R324): the offset after its ENDLOOP, or the offset of a word that faults. -/
inductive Skip where
  | found (o : Nat)
  | mismatch (o : Nat)
  | bounds (o : Nat)
  deriving DecidableEq, Repr

/-- Step over skipped words; `depth` counts loops opened in them, `open_` the loops around them. With the offsets of the words looked
at, the last first. -/
def State.skipBody (s : State) (c : Chan) (open_ : Nat) : Nat → Nat → Nat → List Nat → Skip × List Nat
  | 0, o, _, seen => (.bounds o, seen)
  | f + 1, o, depth, seen =>
    if !s.progInside c o 8 then (.bounds o, seen)
    else
      let op := bitsOf (s.progWord c o) 63 60
      if op = 0 || 8 ≤ op then (.mismatch o, o :: seen)
      else if op = 2 then
        if 2 ≤ open_ + depth + 1 then (.mismatch o, o :: seen) else State.skipBody s c open_ f (o + 8) (depth + 1) (o :: seen)
      else if op = 3 then
        (match depth with
          | 0 => (.found (o + 8), o :: seen)
          | d + 1 => State.skipBody s c open_ f (o + 8) d (o :: seen))
      else State.skipBody s c open_ f (o + dmaLen op) depth (o :: seen)

/-- LOOP (13 R324): the words that a count of 0 steps over are consumed (13 R319). -/
def execDmaLoop (c : Chan) (w : BitVec 64) (s : State) : Result :=
  .next (s.dmaStep c 2 [w] (bitsOf w.toNat 59 16 == 0 && decide ((s.chan c).loops.length < 2)) (fun s n =>
    let h := s.chan c
    let k := bitsOf w.toNat 15 0
    if 0 < k then (false, s.modChan c (fun h => { h with loops := (h.pc + 8, k - 1) :: h.loops, pc := h.pc + 8 }))
    else
      let r := s.skipBody c h.loops.length (2 ^ 39) (h.pc + 8) 0 []
      match s.chanReads c n (r.2.reverse.flatMap (fun o => s.progReads c o 8)) with
      | (true, s1) => (true, s1)
      | (false, s1) =>
        match r.1 with
        | .found o => (false, s1.modChan c (fun h => { h with pc := o }))
        | .mismatch _ => (false, s1.dmaFault c Code.planMismatch 0)
        | .bounds o => (false, s1.dmaFault c Code.bounds (s1.progAddr c o))))

/-- ENDLOOP (13 R324). -/
def execEndloop (c : Chan) (w : BitVec 64) (s : State) : Result :=
  .next (s.dmaStep c 3 [w] (bitsOf w.toNat 59 32 == 0 && !(s.chan c).loops.isEmpty) (fun s _ =>
    (false, s.modChan c (fun h =>
      let aor := add48 h.aor (signedOf 32 (bitsOf w.toNat 31 0))
      match h.loops with
      | [] => h
      | (o, r) :: l =>
        if 0 < r then { h with aor := aor, pc := o, loops := (o, r - 1) :: l }
        else { h with aor := aor, pc := h.pc + 8, loops := l }))))

/-- Signal counter that a WAIT of a channel names (13 R325). -/
def State.chanSig (s : State) (c : Chan) (n : BitVec 6) : Nat :=
  match c with
  | .sett u _ => ((s.sett u).sig[n.toNat % 32]'(Nat.mod_lt _ (by decide))).toNat
  | .sys _ => (s.xsig[n.toNat]).toNat

/-- Subtract from that counter. -/
def State.chanSigSub (s : State) (c : Chan) (n : BitVec 6) (k : Nat) : State :=
  let v := BitVec.ofNat 32 (s.chanSig c n - k)
  match c with
  | .sett u _ => s.modSett u (fun t => { t with sig := t.sig.set (n.toNat % 32) v (Nat.mod_lt _ (by decide)) })
  | .sys _ => { s with xsig := s.xsig.set n.toNat v }

/-- A WAIT whose counter has reached its amount goes on (13 R325). -/
def State.waitGo (s : State) (c : Chan) (n : BitVec 6) (k : Nat) (peek : Bool) : State :=
  (if peek then s else s.chanSigSub c n k).modChan c (fun h => { h with st := .run, waiting := none, pc := h.pc + 8 })

/-- Is a channel's WAIT on a counter satisfied while it waits? -/
def State.waitReady (s : State) (c : Chan) (n : BitVec 6) : Bool :=
  let h := s.chan c
  match h.st, h.waiting with
  | .wait, some (m, k, _) => m == n && decide (k ≤ s.chanSig c n)
  | _, _ => false

/-- Does a satisfied wait on the same counter check before this channel's: the sequencer's WAITS, or a lower-numbered channel's (13
R325)? -/
def State.waitBehind (s : State) (c : Chan) (n : BitVec 6) : Bool :=
  match c with
  | .sett u k =>
    let t := s.sett u
    (t.st == .wait && (match t.hold with
      | .waits sg amt _ => sg.toNat == n.toNat && decide (amt ≤ s.chanSig c n)
      | _ => false)) || (List.finRange 4).any (fun j => decide (j < k) && s.waitReady (.sett u j) n)
  | .sys k => (List.finRange 64).any (fun j => decide (j < k) && s.waitReady (.sys j) n)

/-- WAIT (13 R325). -/
def execDmaWait (c : Chan) (w : BitVec 64) (s : State) : Result :=
  let n := w.extractLsb' 32 6
  let k := bitsOf w.toNat 15 0
  let peek := bitOf w.toNat 40
  let sys := match c with
    | .sys _ => true
    | .sett _ _ => false
  .next (s.dmaStep c 4 [w] (bitsOf w.toNat 59 41 == 0 && bitsOf w.toNat 39 38 == 0 && bitsOf w.toNat 31 16 == 0 && k != 0 &&
      (sys || decide (n.toNat < 32))) (fun s _ =>
    (false, if k ≤ s.chanSig c n && !s.waitBehind c n then s.waitGo c n k peek
      else s.modChan c (fun h => { h with st := .wait, waiting := some (n, k, peek) }))))

/-- DMA_WAIT_SATISFIED (13 R325). -/
def execDmaWaitSatisfied (c : Chan) (s : State) : Result :=
  let h := s.chan c
  .next (match h.st, h.waiting with
    | .wait, some (n, k, peek) => if k ≤ s.chanSig c n && !s.waitBehind c n && !s.chanFrozen c then s.waitGo c n k peek else s
    | _, _ => s)

/-- The fields of a SIGNAL in range (13 R326). -/
def signalOk (c : Chan) (w : BitVec 64) : Bool :=
  let v := w.toNat
  let sys := bitOf v 47
  let self := bitOf v 46
  bitsOf v 59 48 == 0 && bitsOf v 31 16 == 0 && !(sys && self) &&
  (sys || decide (bitsOf v 37 32 < 32)) &&
  (!self || (match c with
    | .sett _ _ => true
    | .sys _ => false))

/-- SIGNAL begins its wait (13 R326). -/
def execSignal (c : Chan) (w : BitVec 64) (s : State) : Result :=
  .next (s.dmaStep c 5 [w] (signalOk c w) (fun s _ => (false, s.modChan c (fun h => { h with st := .fence, fence := some w }))))

/-- HALT begins its wait (13 R327). -/
def execDmaHalt (c : Chan) (w : BitVec 64) (s : State) : Result :=
  .next (s.dmaStep c 6 [w] (bitsOf w.toNat 59 0 == 0) (fun s _ =>
    (false, s.modChan c (fun h => { h with st := .fence, fence := some w }))))

/-- Is an access of the channel in flight: a remote access whose request has left, or a multicast copy? -/
def State.chanPending (s : State) (c : Chan) : Bool :=
  s.roce.any (fun r => r.of c && r.sent.isSome) ||
  (match c with
    | .sett u k => s.mcast.any (fun m => m.iss == u && m.ch == k.val)
    | .sys _ => false)

/-- The sett whose counter a SIGNAL increments, if a sett's (13 R326). -/
def signalSett (c : Chan) (w : BitVec 64) : Option SettId :=
  if bitOf w.toNat 47 then none
  else match bitOf w.toNat 46, c with
    | true, .sett u _ => some u
    | _, _ => some (settOf (bitsOf w.toNat 45 45) (bitsOf w.toNat 44 38))

/-- The increment of a SIGNAL (13 R326). -/
def State.signalAdd (s : State) (c : Chan) (w : BitVec 64) : State :=
  let inc := bitsOf w.toNat 15 0
  if inc = 0 then s
  else
    match signalSett c w with
    | none => s.xsigAdd (w.extractLsb' 32 6) inc
    | some u => s.sig u (w.extractLsb' 32 5) inc

/-- Would the increment of a SIGNAL overtake traffic on the same route (01 R20)? -/
def State.signalHeld (s : State) (c : Chan) (w : BitVec 64) : Bool :=
  match c, signalSett c w with
  | .sett u _, some v => u != v && s.trAhead u v
  | _, _ => false

/-- The program of a sett channel ends: its DSTART completes (13 R327, R328). -/
def State.dstartEnd (s : State) (u : SettId) (k : Fin 4) (status : Nat) (inj : Bool) : State :=
  match ((s.sett u).engine (chanEng k)).run with
  | [] => s
  | r :: rest =>
    (s.modSett u (fun t => t.modEng (chanEng k) (fun g => { g with run := rest }))).completeCmd u (chanEng k) r.q status inj

/-- Little-endian status words of a system channel, the result of DMA_START (15 Table 15-3). -/
def DmaCh.statusWord (h : DmaCh) : Nat :=
  let st := match h.st with
    | .idle => 0
    | .run => 1
    | .wait => 2
    | .fence => 3
    | .aborting => 4
    | .halted => 5
  h.last * 2 ^ 24 + flagBit h.irq 8 + st

/-- The program of a system channel has ended: the notification or the result of whoever started it (13 R327, 15 Table 15-4). -/
def State.sysEnd (s : State) (c : Fin 64) (status : Nat) : State :=
  let h := s.chan (.sys c)
  let s1 := s.modChan (.sys c) (fun h => { h with owner := .none })
  match h.owner with
  | .none => s1
  | .reg ep => s1.notify ep 1 status c.val
  | .cmd ep seq => s1.deferDone ep seq status (leBytes 4 h.statusWord ++ leBytes 4 (h.pc % 2 ^ 24) ++ leBytes 4 h.rowLeft ++ leBytes 4 h.byteLeft)

/-- DM_CH_AOR of a sett channel holds the value at the end of the program (13 Table 13-3). -/
def State.keepAor (s : State) (u : SettId) (k : Fin 4) : State :=
  let a := (s.chan (.sett u k)).aor
  (s.setReg (.dm u) (0x40 * k.val + 0x18) (BitVec.ofNat 32 a)).setReg (.dm u) (0x40 * k.val + 0x1C) (BitVec.ofNat 32 (a / 2 ^ 32 % 2 ^ 16))

/-- The end of a program: status, state, interrupt (13 R327, R328, R329). -/
def State.progEnd (s : State) (c : Chan) (st : ChSt) (status : Nat) (irq : Bool) (inj : Bool := false) : State :=
  let s1 := s.modChan c (fun h => { h with st := st, last := status, irq := h.irq || irq, fence := none, waiting := none, fault := none })
  let s2 := if irq then s1.raise (.chan c) else s1
  match c with
  | .sett u k => (s2.keepAor u k).dstartEnd u k status inj
  | .sys k => s2.sysEnd k status

/-- DMA_FENCE_DONE: the writes that a SIGNAL or HALT waited for have completed (13 R326, R327); nothing can give them back any more. -/
def execDmaFenceDone (c : Chan) (s : State) : Result :=
  let h := s.chan c
  .next (match h.st, h.fence with
    | .fence, some w =>
      if s.chanPending c || s.xferOpen c false || s.chanFrozen c then s
      else if dmaOp w = 6 then
        (s.modChan c (fun h => { h with xfer := none, unfenced := [] })).progEnd c .idle Code.done (match c with
          | .sys _ => true
          | .sett _ _ => false)
      else if s.signalHeld c w then s
      else
        (s.modChan c (fun h => { h with st := .run, fence := none, pc := h.pc + 8, xfer := none, unfenced := [] })).signalAdd c w
    | _, _ => s)

/-- Put back what bytes held before a write that did not happen. -/
def State.putBack (s : State) (w : Undo) : State := if w.old.isEmpty then s else s.poke w.loc w.old

/-- Bursts of the piece that burst i belongs to. -/
def Xfer.piece (x : Xfer) (i : Nat) : Nat × Nat :=
  ((x.cut.filter (· ≤ i)).foldl max 0, ((x.cut.filter (i < ·)).head?).getD x.bursts.length)

/-- The lines that the piece of burst i made clean, now that all of it has been moved (07 R195). -/
def State.cleanPiece (s : State) (x : Xfer) (i : Nat) : State :=
  let (a, z) := x.piece i
  let mine (j : Nat) : Bool := decide (a ≤ j) && decide (j < z)
  if x.dead.any mine then s else s.markClean (cleanLines (x.parts.filter (fun p => mine p.burst)))

/-- Re-issue burst `i` of the last transfer (13 R328): its addresses are translated anew, and a place that is gone is BOUNDS (07
R178, R191). -/
def State.reissue (s : State) (c : Chan) (x : Xfer) (i : Nat) (b : Burst) : State :=
  let m0 := Moving.burst (Moving.start s) c false (s.chan c).unfenced i b
  let m := if x.persist then { Moving.start s with dead := [i] } else m0
  let x1 := { x with tries := Tbl.put x.tries i (Tbl.get x.tries i 0 + 1),
                     dead := x.dead.filter (· != i) ++ m.dead ++ (if m.fault.isSome then [i] else []), inj := x.inj || m.inj,
                     persist := x.persist || m.persist, parts := x.parts.filter (fun p => p.burst != i) ++ m.parts,
                     grans := (x.grans ++ m.grans).eraseDups,
                     undo := match m.undo.head? with
                       | some n => x.undo.set i n
                       | none => x.undo }
  let s1 := m.s.modChan c (fun h => { h with xfer := some x1, retry := satAdd h.retry 1 })
  match m.fault with
  | some (st, a) => s1.dmaFault c st a
  | none => s1.cleanPiece x1 i

/-- A burst that has failed for good is not moved: what it wrote is put back, and a multicast write's copies end before it. -/
def State.burstLost (s : State) (c : Chan) (x : Xfer) (i : Nat) : State :=
  let lost := if x.multi then (List.range (x.bursts.length - i)).map (· + i) else [i]
  let s1 := match x.undo[i]? with
    | some w => s.putBack w
    | none => s
  let s2 := s1.modChan c (fun h => { h with xfer := some { x with
    dead := x.dead.filter (fun j => !lost.contains j) ++ lost, parts := x.parts.filter (fun p => p.burst != i),
    undo := match x.undo[i]? with
      | some w => x.undo.set i ⟨w.loc, []⟩
      | none => x.undo } })
  match x.multi, c with
  | true, .sett u k => { s2 with mcast := s2.mcast.map (fun m =>
      if m.iss = u ∧ m.ch = k.val then { m with parts := m.parts.take i, msig := none } else m) }
  | _, _ => s2

/-- Burst i of the last transfer completes with a status of 0x10 or above, on its read or its write (13 R322, R328): a BUS_ERR is
issued again while retries are left; otherwise the channel stops with the address, or, stopping already, keeps the least one. The reads
of a multicast write come before its first delivery; over a queue pair that is not ready every re-issue fails. -/
def State.burstEnd (s : State) (c : Chan) (i : Nat) (readSide : Bool) (status : Status) (inj : Bool) : State :=
  let h := s.chan c
  match h.xfer with
  | none => s
  | some x0 =>
    match x0.bursts[i]? with
    | none => s
    | some b =>
      if h.still || (x0.multi && (!readSide || x0.landed)) || (x0.dead.contains i && h.st = .aborting) then s
      else
        let x := { x0 with inj := x0.inj || inj }
        let s1 := { s with roce := s.roce.filter (fun r => !r.ofBurst c i) }
        if status = Code.busErr && h.st ≠ .aborting && Tbl.get x.tries i 0 < h.retryMax then
          if x.multi then
            let s2 := s1.modChan c (fun h => { h with xfer := some { x with tries := Tbl.put x.tries i (Tbl.get x.tries i 0 + 1) },
                                                      retry := satAdd h.retry 1 })
            match s2.locate (chanDie c) b.src false with
            | (some (.remote q va k), s3) =>
              if (s3.qp q).st ≠ 3 then
                ((s3.modChan c (fun h' => { h' with retry := satAdd h'.retry (h.retryMax - Tbl.get x.tries i 0 - 1) })).burstLost c x i).dmaFault
                  c Code.busErr b.src
              else s3.remoteGo ⟨q, false, .burst c i, b.src, b.n, none, [], none⟩ (.remote q va k)
            | (some _, s3) => s3
            | (none, s3) => (s3.burstLost c x i).dmaFault c (s3.denied (chanDie c) b.src) b.src
          else (match x.undo[i]? with
            | some w => s1.putBack w
            | none => s1).reissue c x i b
        else
          let a := if readSide then b.src else b.dst
          let s2 := s1.burstLost c x i
          if h.st = .aborting then s2.modChan c (fun h => h.alsoFails a) else s2.dmaFault c status a

/-- BURST_BUS_ERR (13 R328): burst `i` of the channel's last transfer, on its read or its write. -/
def execBurstBusErr (c : Chan) (i : BitVec 32) (readSide : Bool) (s : State) : Result :=
  .next (if s.chanFrozen c then s else s.burstEnd c i.toNat readSide Code.busErr false)

/-- Rows not completed and bytes not moved (13 R329): bursts below `kept` that did not fail have moved. -/
def Xfer.residue (x : Xfer) (kept : Nat) : Nat × Nat :=
  let gone := (x.bursts.zip (List.range x.bursts.length)).foldl (fun (acc : Nat × List (Nat × Nat)) bi =>
    (acc.1 + bi.1.n, if bi.2 < kept && !x.dead.contains bi.2 then acc.2 else acc.2 ++ [(acc.1 / max 1 x.row, bi.1.n)])) (0, [])
  ((gone.2.map (·.1)).eraseDups.length, gone.2.foldl (fun n p => n + p.2) 0)

/-- Give back the bytes of the bursts that did not finish, the last first. -/
def State.giveBack (s : State) (x : Xfer) (kept : Nat) : State :=
  (((x.undo.zip (List.range x.undo.length)).filter (fun p => kept ≤ p.2 && !x.dead.contains p.2)).reverse).foldl
    (fun s p => s.putBack p.1) s

/-- The event record of a DMA halt or abort (17 R411, Table 17-7): ADDR is the failing address, or 0. -/
def State.dmaRecord (s : State) (c : Chan) (status addr : Nat) (inj : Bool) : State :=
  let h := s.chan c
  let det (k : Nat) : List Byte := leBytes 4 k ++ leBytes 4 (h.pc % 2 ^ 24) ++ leBytes 4 h.rowLeft ++ leBytes 4 h.byteLeft
  match c with
  | .sett u k =>
    s.post { status := status, inj := inj, src := settSrc u 4, step := (s.sett u).step.toNat, layer := 0, cycle := s.cycle,
             addr := addr, detail := det k.val }
  | .sys k =>
    s.post { status := status, inj := inj, src := srcCode 3 0 k.val 4, step := 0xFFFFFFFF, layer := 0, cycle := s.cycle,
             addr := addr, detail := det k.val }

/-- Requests of the channel that have not left are not made any more: their bursts count as not moved (13 R329). -/
def State.dropUnsent (s : State) (c : Chan) : State :=
  let gone := s.roce.filterMap (fun r => match r.who, r.sent with
    | .burst d i, none => if d = c then some i else none
    | _, _ => none)
  if gone.isEmpty then s
  else
    let s1 : State := { s with roce := s.roce.filter (fun r => !r.of c || r.sent.isSome) }
    s1.modChan c (fun h =>
      { h with xfer := h.xfer.map (fun x => { x with dead := x.dead.filter (fun i => !gone.contains i) ++ gone.eraseDups }) })

/-- Where an interrupted transfer leaves its channel: the state with the bytes of unmoved bursts given back, and the residue, if any. -/
def State.unmoved (s : State) (c : Chan) (kept : Nat) : State × Option (Xfer × Nat × Nat) :=
  match (s.chan c).xfer with
  | none => (s, none)
  | some x =>
    let k := if x.multi then x.bursts.length else min kept x.undo.length
    let (rows, bytes) := x.residue k
    if bytes = 0 then (s, none) else (if x.multi then s else s.giveBack x k, some (x, rows, bytes))

/-- DMA_ABORT_DRAINED (13 R328, R329): every burst in flight has ended, the first `kept` of the last transfer having moved;
the channel records where it stopped and enters HALTED. -/
def execDmaAbortDrained (c : Chan) (kept : BitVec 32) (s : State) : Result :=
  let h := s.chan c
  .next (if h.st ≠ .aborting || s.chanPending c || s.chanFrozen c then s
  else
    let status := (h.fault.map (·.1)).getD Code.aborted
    let (s1, left) := (s.dropUnsent c).unmoved c kept.toNat
    let s2 := s1.modChan c (fun h =>
      let h1 := { h with rowLeft := 0, byteLeft := 0, faddr := (h.fault.map (·.2)).getD h.faddr, xfer := none, unfenced := [] }
      match left with
      | none => h1
      | some (x, rows, bytes) =>
        { h1 with pc := x.pc, aor := x.aor, loops := x.loops, rowLeft := rows % 2 ^ 16, byteLeft := bytes % 2 ^ 24 })
    let inj := h.fault.isSome && (h.xfer.map (·.inj)).getD false &&
      (status == Code.busErr || status == Code.parityHard || status == Code.hbmUncorr)
    (s2.dmaRecord c status ((h.fault.map (·.2)).getD 0) inj).progEnd c .halted status true inj)

/-- A remote access of a burst ends well (07 R188): a read's bytes reach their place, over its link where that is remote too. -/
def State.burstData (s : State) (c : Chan) (i : Nat) (l : Loc) (bs : List Byte) : State :=
  match l with
  | .remote q _ _ =>
    let go := s.mayLeave q true
    let old := s.peek l bs.length
    let s1 := s.remoteGo ⟨q, true, .burst c i, ((((s.chan c).xfer).bind (fun x => x.bursts[i]?)).map (·.dst)).getD 0, bs.length, none,
      bs, none⟩ l
    if go then s1.modChan c (fun h => { h with xfer := h.xfer.map (fun x => { x with undo := x.undo.set i ⟨l, old⟩ }) }) else s1
  | _ =>
    let old := s.peek l bs.length
    ((s.poke l bs).chanTail c l bs.length s.hbm).modChan c (fun h =>
      { h with xfer := h.xfer.map (fun x => { x with undo := x.undo.set i ⟨l, old⟩ }) })

/-- A program starts on a channel (13 R317, R324); the residue that an earlier program left stays until one is recorded. -/
def DmaCh.begin (h : DmaCh) (prog aor : Nat) : DmaCh :=
  { h with st := .run, pc := 0, prog := prog, aor := aor, loops := [], waiting := none, fence := none,
           xfer := none, unfenced := [], fault := none, checked := 0 }

/-- The start of a DSTART (05 R154, 13 R317). -/
def startDstart (u : SettId) (k : Fin 4) (prog : BitVec 19) (pe : Bool) (pc : BitVec 4) (s : State) (q : QCmd) : Start :=
  .go (s.modChan (.sett u k) (fun h => h.begin (prog.toNat * 8) (if pe then q.ctr pc else 0))) Code.done 1 0 none true

/-- DSTART (05 R154). -/
def execDstart (u : Sett) (c : Fin 4) (h : Hdr) (prog : BitVec 19) (pe : Bool) (pc : BitVec 4) (s : State) : Result :=
  .next (s.issueCmd u (chanEng c) h (.dstart u c h prog pe pc) [] true (startDstart u c prog pe pc))

/-- DM_CH_PROG of a system channel. -/
def State.sysProg (s : State) (c : Fin 64) : Nat :=
  (s.reg .dmX (0x40 * c.val + 0x20)).toNat + fieldOf (s.reg .dmX (0x40 * c.val + 0x24)) 15 0 * 2 ^ 32

/-- DM_CH_AOR of a system channel: the value at start (13 R324, Table 13-3). -/
def State.sysAor (s : State) (c : Fin 64) : Nat :=
  (s.reg .dmX (0x40 * c.val + 0x18)).toNat + fieldOf (s.reg .dmX (0x40 * c.val + 0x1C)) 15 0 * 2 ^ 32

/-- A write of 1 to DM_CH_CTL.START of a system channel (13 R317, R318). -/
def State.sysStart (s : State) (c : Fin 64) (o : Owner) : State :=
  let h := s.chan (.sys c)
  let p := s.sysProg c
  if 56 ≤ c.val && Word.bit (s.reg .intake 0) 0 then s
  else if h.st = .idle || h.st = .halted then
    let s1 := s.modChan (.sys c) (fun h => { (h.begin p (s.sysAor c)) with owner := o })
    if p % 8 = 0 then s1 else s1.dmaFault (.sys c) Code.align p
  else s

/-- DMA_CHANNEL_START (13 R317): by an endpoint's REG_WRITE, or by the management core. -/
def execDmaChannelStart (c : Fin 64) (r : Requester) (s : State) : Result :=
  .next (s.sysStart c (match r with
    | .endA => .reg 0
    | .endB => .reg 1
    | .mgmt => .none))

/-- An abort of a channel (13 R329): the increments of a pending SIGNAL or HALT are not made. -/
def State.chanAbort (s : State) (c : Chan) : State := s.modChan c DmaCh.abort

/-- DMA_CHANNEL_ABORT (13 R329). -/
def execDmaChannelAbort (c : Chan) (s : State) : Result := .next (if s.chanFrozen c then s else s.chanAbort c)

/-- The old words of a member that a copy of bursts writes in part (07 R193). -/
def mcOldReads (m : SettId) (parts : List (Nat × Option Nat × List Byte)) : List (SettId × Reads) :=
  parts.flatMap (fun p => (Loc.store m p.1).oldReads p.2.2.length)

/-- One burst of a copy reaches its member: the issuing channel's writes include it until a SIGNAL has waited for it. -/
def State.mcLand (s : State) (c : Chan) (m : SettId) (p : Nat × Option Nat × List Byte) : State :=
  let old := (s.sett m).store.load p.1 p.2.2.length
  (s.modSett m (fun t => t.putStore p.1 p.2.2)).modChan c (fun h =>
    if h.still then h else { h with unfenced := h.unfenced ++ [⟨.store m p.1, old⟩] })

/-- MULTICAST_DELIVERY (03 R80, 07 R195, R198; 13 R322): the oldest copy of a channel on its way to a member lands, after what its sett
sent to that member before it (01 R20); with a failure, burst `i` of it fails for good on its link, and only those before it land. -/
def execMulticastDelivery (u : Sett) (c : Fin 4) (m : Sett) (fail : Option (BitVec 32)) (s : State) : Result :=
  let ch : Chan := .sett u c
  .next (match s.mcast.find? (fun x => x.iss == u && x.ch == c.val && x.mem == m) with
    | none => s
    | some x =>
      if (s.sett m).freeze.isSome || !s.trFirst u m x.ord || s.roce.any (fun r => r.of ch && !r.write) then s
      else
        let parts := match fail with
          | some i => x.parts.take i.toNat
          | none => x.parts
        match State.consumeAll (some ch) (chanEng c) x.checked (mcOldReads m parts) 0 s with
        | (some k, s1) => { s1 with mcast := s1.mcast.map (fun y => if y = x then { x with checked := k } else y) }
        | (none, s0) =>
          let s' : State := { s0 with mcast := s0.mcast.erase x }
          let s1 := s'.modChan ch (fun h => { h with xfer := h.xfer.map (fun y => { y with landed := true }) })
          let s2 := (parts.foldl (fun s p => s.mcLand ch m p) s1).markClean
            (cleanLines (parts.map (fun p => ⟨0, m, p.1, p.2.1, p.2.2.length⟩)))
          match fail with
          | none =>
            (match x.msig with
              | some k => s2.sig m (BitVec.ofNat 5 k) 1
              | none => s2)
          | some i =>
            let a := windowOf m + ((x.parts[i.toNat]?).map (·.1)).getD 0
            let h := s2.chan ch
            if h.still then s2
            else if h.st = .aborting then s2.modChan ch (fun h => h.alsoFails a)
            else s2.dmaFault ch Code.parityHard a)

end Sys2Proof.Machine
end

