-- ==== Sys2Proof/Machine/Intake.lean ====
section
/-!
DEFINITION. Intake: submission, pre-processing of decoded samples, batches, registers (14 R333 to R350).
-/
namespace Sys2Proof.Machine

/-- An address pair of registers. -/
def State.inAddr (s : State) (o : Nat) : Nat := (s.reg .intake o).toNat + fieldOf (s.reg .intake (o + 4)) 15 0 * 2 ^ 32

/-- Intake is enabled. -/
def State.inEn (s : State) : Bool := Word.bit (s.reg .intake 0) 0

/-- Registers in their units. -/
def State.inSlotSize (s : State) : Nat := fieldOf (s.reg .intake 0x40) 27 0 * 4096
def State.inSlots (s : State) : Nat := fieldOf (s.reg .intake 0x38) 10 0
def State.inDepth (s : State) : Nat := fieldOf (s.reg .intake 0x38) 22 16
def State.inProd (s : State) : Nat := (s.reg .intake 0x5C).toNat

/-- IN_STATUS.PREP (14 R348). -/
def State.inPrep (s : State) : Nat := (s.inProd + 2 ^ 32 - s.intake.cons) % 2 ^ 32

/-- IN_STATUS.BUSY: samples or a batch are in progress. -/
def InSt.busy (t : InSt) : Bool := t.cores.toList.any Option.isSome || !t.ready.isEmpty || t.batch.isSome

/-- The view of IN_STATUS (14 Table 14-8): its W1C bits stand in the register. -/
def State.inStatus (s : State) : Word :=
  BitVec.ofNat 32 (s.intake.last * 2 ^ 24 + s.inPrep % 256 * 2 ^ 16 + bitsOf (s.reg .intake 4).toNat 5 2 * 4 +
    flagBit s.intake.halted 1 + flagBit s.intake.busy 0)

/-- A write to IN_SUB_TAIL (14 R334). -/
def State.inTail (s : State) (v : Nat) : State :=
  let d (x : Nat) : Nat := (x + 2 ^ 32 - (s.reg .intake 0x20).toNat) % 2 ^ 32
  if fieldOf (s.reg .intake 0x18) 16 0 < d v ∨ d v < d (s.reg .intake 0x1C).toNat then s.orReg .intake 4 8
  else s.setReg .intake 0x1C (BitVec.ofNat 32 v)

/-- IN_SUB_TAIL (14 R334). -/
def execInSubTail (v : BitVec 32) (s : State) : Result := .next (s.inTail v.toNat)

/-- Staging slots of a core that hold a sample. -/
def InSt.staged (t : InSt) (c : Nat) : List Nat :=
  (t.ready.filter (fun r => r.core == c)).map (·.slot) ++
  ((t.batch.map (fun b => (b.slots.filter (fun p => p.1.core == c && !p.2)).map (·.1.slot))).getD [])

/-- The lowest-numbered idle core: it decodes nothing and has a free staging slot (14 R333, R343). -/
def InSt.idleCore (t : InSt) : Option (Fin 8) :=
  (List.finRange 8).find? (fun c => (t.cores[c.val]).isNone && decide ((t.staged c.val).length < 2))

/-- A field of a record of bytes. -/
def bytesAt (bs : List Byte) (o n : Nat) : Nat := leNat ((bs.drop o).take n)

/-- SAMPLE_DISPATCH (14 R333, R334, R340). -/
def execSampleDispatch (s : State) : Result :=
  let head := (s.reg .intake 0x20).toNat
  .next (if !s.inEn || s.intake.halted || head == (s.reg .intake 0x1C).toNat then s
  else
    match s.intake.idleCore with
    | none => s
    | some c =>
      let a := s.inAddr 0x10 + 64 * (head % fieldOf (s.reg .intake 0x18) 16 0)
      let desc := match s.place a false with
        | some (.hbm a) => s.hbm.load a 64
        | some (.burrow o) => s.burrow.load o 64
        | _ => List.replicate 64 0
      let prof := s.hbm.load (s.inAddr 0x24 + 64 * (bytesAt desc 5 1 % 16)) 64
      let t := s.intake
      { s with intake := { t with cores := t.cores.set c.val (some ⟨head, desc, prof⟩),
                                  lasts := if bitOf (bytesAt desc 6 1) 0 then t.lasts ++ [head] else t.lasts } }.setReg
        .intake 0x20 (BitVec.ofNat 32 (head + 1)))

/-- Fields of a profile (14 Table 14-3). -/
def profFrames (p : List Byte) : Nat := bytesAt p 6 2
def profW (p : List Byte) : Nat := bytesAt p 8 2
def profH (p : List Byte) : Nat := bytesAt p 10 2
def profPt (p : List Byte) : Nat := bytesAt p 3 1
def profPh (p : List Byte) : Nat := bytesAt p 4 1
def profPw (p : List Byte) : Nat := bytesAt p 5 1
/-- Channels of a pixel: 1 for luma only. -/
def profCc (p : List Byte) : Nat := if bytesAt p 1 1 % 4 = 2 then 1 else 3
def profFmt (p : List Byte) : Fmt := (Fmt.ofCode (bytesAt p 0 1)).getD .fp32

/-- Bytes of a sample's tensor. -/
def profBytes (p : List Byte) : Nat := profFrames p * profW p * profH p * profCc p * ((profFmt p).bits / 8)

/-- Bits of a sample's mask (14 R342). -/
def profPatches (p : List Byte) : Nat := (profFrames p / profPt p) * (profH p / profPh p) * (profW p / profPw p)

/-- The faults of a descriptor and a profile (14 R340). -/
def inFieldsOk (d p : List Byte) (slot mask : Nat) : Bool :=
  let zeros (l : List Byte) (o n : Nat) : Bool := bytesAt l o n == 0
  decide (bytesAt d 4 1 ≤ 3) && decide (bytesAt d 5 1 < 16) && decide (bytesAt d 6 1 < 2) && zeros d 7 1 && zeros d 14 2 &&
  decide (1 ≤ bytesAt d 16 4) && decide (1 ≤ bytesAt d 24 1) && zeros d 25 3 && zeros d 36 28 &&
  [4, 5, 6, 10].contains (bytesAt p 0 1) && bytesAt p 1 1 % 4 != 3 && bitsOf (bytesAt p 1 1) 5 4 != 3 && decide (bytesAt p 1 1 < 64) &&
  decide (bytesAt p 2 1 ≤ 1) && [1, 2, 4].contains (profPt p) && [1, 2, 4, 8, 16].contains (profPh p) &&
  [1, 2, 4, 8, 16].contains (profPw p) && decide (1 ≤ profFrames p) && decide (profFrames p ≤ 1024) &&
  decide (1 ≤ profW p) && decide (profW p ≤ 8192) && decide (1 ≤ profH p) && decide (profH p ≤ 8192) &&
  decide (bytesAt p 36 1 < 2) && zeros p 37 27 &&
  profW p % profPw p == 0 && profH p % profPh p == 0 && profFrames p % profPt p == 0 &&
  (bytesAt d 4 1 != 3 || profFrames p == 1) && decide (profBytes p ≤ slot) && decide (ceilDiv (profPatches p) 8 ≤ mask)

/-- Does the stream lie in HBM, in the Burrow or in one remote window (14 Table 14-2)? BUS_ERR where its queue pair is not
ready to send (07 R188). -/
def State.inSource (s : State) (a n : Nat) : Status :=
  match s.place a false, s.place (a + n - 1) false with
  | some (.hbm _), some (.hbm _) => Code.done
  | some (.burrow _), some (.burrow _) => Code.done
  | some (.remote q _ _), some (.remote _ _ _) =>
    if (winOf a).1 == (winOf (a + n - 1)).1 then (if (s.qp q).st = 3 then Code.done else Code.busErr) else Code.bounds
  | _, _ => Code.bounds

/-- The bytes of a stream (14 R334): in a remote window those that arrived, asked for with RDMA READs (07 R187, R188). -/
def State.inStream (s : State) (a n : Nat) (far : List Byte) : List Byte × State :=
  match s.place a false with
  | some (.remote q va _) =>
    let s1 := ((s.locateAll none false (pieces a n)).1.map (fun ls => s.rdmaAll false ls [])).getD s
    (far.take n, { s1 with remote := s1.remote.store (remoteKey q va) (far.take n) })
  | _ => (((s.readMod none a n).1).getD [], s)

/-- The floor of a finite number. -/
def Num.floor (x : Num) : Int :=
  match x with
  | .fin n m e =>
    let v : Int := if 0 ≤ e then (m * 2 ^ e.toNat : Nat) else (m / 2 ^ (-e).toNat : Nat)
    let exact := decide (0 ≤ e) || m % 2 ^ (-e).toNat == 0
    if n then (if exact then -v else -v - 1) else v
  | _ => 0

/-- One half. -/
def half : Num := .fin false 1 (-1)

/-- Source position of an output index (12 R315). -/
def srcPos (x0 x1 ow i : Nat) : Num :=
  let sc := (((Num.ofInt x1).sub (Num.ofInt x0)).rne.div (Num.ofInt ow)).rne
  (((Num.ofInt x0).add (((Num.ofInt i).add half).mul sc).rne).rne.sub half).rne

/-- Indices read along an axis, with their weights (12 R315): one for nearest. -/
def taps (bilinear : Bool) (x0 x1 ow i : Nat) : List (Int × Num) :=
  let sx := srcPos x0 x1 ow i
  if bilinear then
    let a := sx.floor
    let w1 := sx.sub (Num.ofInt a)
    [(a, ((Num.ofInt 1).sub w1).rne), (a + 1, w1)]
  else [((sx.add half).rne.floor, Num.ofInt 1)]

/-- A sample along an axis: RNE(RNE(p0 × w0) + p1 × w1), or the one value (12 R315). -/
def blend (l : List (Num × Num)) : Num :=
  match l with
  | [(a, u), (b, v)] => ((a.mul u).rne.add (b.mul v)).rne
  | (a, _) :: _ => a
  | [] => .zero

/-- An index clamped to a frame (14 R341 step 3). -/
def clampIx (n : Nat) (i : Int) : Nat := (clampInt 0 ((n : Int) - 1) i).toNat

/-- The output element of pixel (x, y) and channel c of an output frame (14 R341). -/
def outElem (codec : Nat) (d prof : List Byte) (p : DecPic) (c x y : Nat) : Nat :=
  let cw := bytesAt d 32 2
  let (x0, x1, y0, y1) := if cw = 0 then (0, p.w, 0, p.h)
    else (bytesAt d 28 2, bytesAt d 28 2 + cw, bytesAt d 30 2, bytesAt d 30 2 + bytesAt d 34 2)
  let bi := bytesAt prof 2 1 == 1
  let tx := taps bi x0 x1 (profW prof) x
  let ty := taps bi y0 y1 (profH prof) y
  let row (yy : Int) : Num := blend (tx.map (fun q => (pixel codec (bytesAt prof 1 1) p c (clampIx p.w q.1) (clampIx p.h yy), q.2)))
  let v := blend (ty.map (fun q => (row q.1, q.2)))
  let w := if bitOf (bytesAt prof 36 1) 0 then
      ((v.mul (f32Num (bytesAt prof (12 + 4 * c) 4))).rne.add (f32Num (bytesAt prof (24 + 4 * c) 4))).rne
    else v
  (encodeElem (profFmt prof) w).bits

/-- Does an output pixel read a concealed one (14 R339)? -/
def readsConc (d prof : List Byte) (p : DecPic) (x y : Nat) : Bool :=
  let cw := bytesAt d 32 2
  let (x0, x1, y0, y1) := if cw = 0 then (0, p.w, 0, p.h)
    else (bytesAt d 28 2, bytesAt d 28 2 + cw, bytesAt d 30 2, bytesAt d 30 2 + bytesAt d 34 2)
  let bi := bytesAt prof 2 1 == 1
  !p.conc.isEmpty && (taps bi x0 x1 (profW prof) x).any (fun a => (taps bi y0 y1 (profH prof) y).any (fun b =>
    p.conc.contains (p.unitOf (clampIx p.w a.1) (clampIx p.h b.1))))

/-- The patches of a sample in order: time group, patch row, patch column. -/
def patchesOf (p : List Byte) : List (Nat × Nat × Nat) :=
  (List.range (profFrames p / profPt p)).flatMap (fun tg => (List.range (profH p / profPh p)).flatMap (fun pr =>
    (List.range (profW p / profPw p)).map (fun pc => (tg, pr, pc))))

/-- The pixels of a patch in channel order: dt, dy, dx (12 R312, 14 R342). -/
def patchPixels (p : List Byte) (q : Nat × Nat × Nat) : List (Nat × Nat × Nat) :=
  (List.range (profPt p)).flatMap (fun dt => (List.range (profPh p)).flatMap (fun dy =>
    (List.range (profPw p)).map (fun dx => (q.1 * profPt p + dt, q.2.1 * profPh p + dy, q.2.2 * profPw p + dx))))

/-- The tensor of a sample (14 R342). -/
def sampleTensor (codec : Nat) (d p : List Byte) (fs : List DecPic) : List Byte :=
  (patchesOf p).flatMap (fun q => (patchPixels p q).flatMap (fun tyx =>
    match fs[tyx.1]? with
    | none => []
    | some f => (List.range (profCc p)).flatMap (fun c =>
        leBytes ((profFmt p).bits / 8) (outElem codec d p f c tyx.2.2 tyx.2.1))))

/-- The mask bits of a sample (14 R339, R342). -/
def sampleMask (d p : List Byte) (fs : List DecPic) : List Bool :=
  (patchesOf p).map (fun q => (patchPixels p q).any (fun tyx =>
    match fs[tyx.1]? with
    | none => false
    | some f => readsConc d p f tyx.2.2 tyx.2.1))

/-- Bits packed eight to a byte, the first in bit 0. -/
def packBits (l : List Bool) : List Byte :=
  (chunks 8 l).map (fun c => BitVec.ofNat 8 ((c.zip (List.range 8)).foldl (fun n b => n + flagBit b.1 b.2) 0))

/-- BSEQ of the batch that a sample finishing now goes to. -/
def State.inBseq (s : State) : Nat :=
  s.inProd + (match s.intake.batch with
    | some b => if b.closing.isSome then 1 else 0
    | none => 0)

/-- An event record of Intake. -/
def State.inRecord (s : State) (core status layer : Nat) (inj : Bool) : State :=
  s.post { status := status, inj := inj, src := srcCode 3 0 core 19, step := s.inBseq % 2 ^ 32, layer := layer % 65536,
           cycle := s.cycle, addr := 0, detail := [] }

/-- The base of batch buffer n (14 R344). -/
def State.inBuf (s : State) (n : Nat) : Nat :=
  s.inAddr 0x2C + n % s.inDepth * (fieldOf (s.reg .intake 0x34) 27 0 * 4096)

/-- The base of staging slot k of a core (14 R343). -/
def State.inStage (s : State) (core k : Nat) : Nat := s.inAddr 0x60 + (2 * core + k) * s.inSlotSize

/-- A drop counts towards the open batch, or the next one (14 R345). -/
def InSt.drop (t : InSt) (r : InDrop) : InSt :=
  match t.batch with
  | some b =>
    if b.closing.isNone then { t with batch := some { b with drops := b.drops ++ [r], dropCnt := b.dropCnt + 1 } }
    else { t with nextDrops := t.nextDrops ++ [r], nextCnt := t.nextCnt + 1 }
  | none => { t with nextDrops := t.nextDrops ++ [r], nextCnt := t.nextCnt + 1 }

/-- Close the open batch (14 R345). -/
def State.inClose (s : State) (cause : Nat) : State :=
  match s.intake.batch with
  | some b => if b.closing.isSome then s
      else { s with intake := { s.intake with batch := some { b with closing := some (cause, s.cycle) } } }
  | none => s

/-- Place the samples that wait in staging, as far as slots go (14 R344, R345, R348), and count them (Table 14-8). -/
def State.inFill : Nat → State → State
  | 0, s => s
  | f + 1, s =>
    let t := s.intake
    match t.ready with
    | [] => s
    | r :: rest =>
      let count (s : State) : State := s.bump .intake (if r.conc = 0 then 0x70 else 0x74) 1
      if t.halted then s
      else
        match t.batch with
        | none =>
          if s.inPrep < s.inDepth then
            let b : InBatch := ⟨[(r, false)], t.nextDrops, t.nextCnt, none⟩
            let s1 := count { s with intake := { t with ready := rest, batch := some b, nextDrops := [], nextCnt := 0 } }
            State.inFill f (if s.inSlots ≤ 1 then s1.inClose 0 else s1)
          else s
        | some b =>
          if b.closing.isSome then s
          else
            let s1 := count { s with intake := { t with ready := rest, batch := some { b with slots := b.slots ++ [(r, false)] } } }
            State.inFill f (if s.inSlots ≤ b.slots.length + 1 then s1.inClose 0 else s1)

/-- Was a sample submitted after number n? The numbers are free-running 32-bit counts (14 R334). -/
def seqAfter (seq n : Nat) : Bool := decide ((seq + 2 ^ 32 - n - 1) % 2 ^ 32 < 2 ^ 31)

/-- A LAST whose sample, and every one submitted before it, has completed closes the open batch; with none open it does nothing (14
R345). -/
def State.inLasts : Nat → State → State
  | 0, s => s
  | f + 1, s =>
    let t := s.intake
    match t.lasts with
    | [] => s
    | n :: rest =>
      if t.cores.toList.any (fun j => (j.map (fun j => !seqAfter j.seq n)).getD false) then s
      else State.inLasts f ({ s with intake := { t with lasts := rest } }.inClose 2)

/-- What follows each event of Intake: slots filled, LAST closes, the close that EN cleared asks for (14 R345, R350). -/
def State.inSettle (s : State) : State :=
  let s1 := State.inLasts (s.intake.lasts.length + 1) (State.inFill (s.intake.ready.length + 1) s)
  let t := s1.intake
  if !s1.inEn && !t.halted && t.ready.isEmpty && t.cores.toList.all Option.isNone then s1.inClose 3 else s1

/-- The bytes of a manifest, in runs: header, slots, drop records (14 Table 14-4). -/
def State.inManifest (s : State) (b : InBatch) (status : Status) : List (Nat × List Byte) :=
  let n := s.inSlots
  let (cause, cyc) := b.closing.getD (0, s.cycle)
  let drops := b.drops.take n
  [(0, leBytes 4 s.inProd ++ leBytes 2 b.slots.length ++ leBytes 2 drops.length ++ leBytes 4 b.dropCnt ++ leBytes 1 status ++
      leBytes 1 cause ++ leBytes 2 0 ++ leBytes 8 cyc ++ List.replicate 40 0),
   (64, b.slots.flatMap (fun p =>
      let r := p.1
      leBytes 4 r.id ++ leBytes 1 r.status ++ leBytes 1 r.prof ++ leBytes 2 0 ++ leBytes 4 r.conc ++ leBytes 4 r.total ++
      leBytes 4 r.frame ++ leBytes 2 r.row ++ leBytes 2 r.col ++ leBytes 4 r.off ++ leBytes 4 r.maskBits)),
   (64 + 32 * n, drops.flatMap (fun d => leBytes 4 d.id ++ leBytes 1 d.status ++ leBytes 3 0 ++ leBytes 4 d.conc ++ leBytes 4 d.off))]

/-- Write the manifest of the batch. -/
def State.putManifest (s : State) (b : InBatch) (status : Status) : State :=
  (s.inManifest b status).foldl (fun s p => if p.2.isEmpty then s else s.putHbm (s.inBuf s.inProd + p.1) p.2) s

/-- A write fault halts Intake (14 R347). -/
def State.inHalt (s : State) (status : Status) : State :=
  let s1 := match s.intake.batch with
    | some b => s.putManifest b status
    | none => s
  let s2 := s1.inRecord 0 status 0 false
  { s2 with intake := { s2.intake with halted := true, batch := none } }.raise .intake

/-- The write faults of 14 R347. -/
def inWriteFault (f : Option (BitVec 8)) : Option Status :=
  match f with
  | some c => if c = 0x23 || c = 0x20 then some c.toNat else none
  | none => none

/-- A sample ends without a slot (14 Table 14-5). -/
def State.inDropped (s : State) (j : InJob) (core : Nat) (status conc off : Nat) (rejected inj : Bool) : State :=
  let s1 := (s.inRecord core status (bytesAt j.desc 0 4) inj).bump .intake (if rejected then 0x7C else 0x78) 1
  { s1 with intake := { (s1.intake.drop ⟨bytesAt j.desc 0 4, status, conc, off⟩) with last := status } }

/-- Units concealed, and units in all, of output frames (14 R339). -/
def concUnits (fs : List DecPic) : Nat := (fs.map (fun f => (f.conc.eraseDups.filter (fun u => decide (u < f.units))).length)).foldl (· + ·) 0
def allUnits (fs : List DecPic) : Nat := (fs.map DecPic.units).foldl (· + ·) 0

/-- The display-order frames that a sample outputs (14 R335). -/
def wantFrames (d p : List Byte) : List Nat := (List.range (profFrames p)).map (fun k => bytesAt d 20 4 + k * bytesAt d 24 1)

/-- Is a sample with these concealed units kept (14 Table 14-5)? -/
def State.inKeeps (s : State) (conc total : Nat) : Bool :=
  conc == 0 || (!Word.bit (s.reg .intake 8) 0 && decide (conc * 256 ≤ fieldOf (s.reg .intake 8) 24 16 * total))

/-- A decoded sample, its output frames and first damage: kept in a staging slot, or dropped by the policy (14 R338 to R344). -/
def State.inDecoded (s : State) (j : InJob) (c : Nat) (fs : List DecPic) (first : Option Damage) (inj : Bool) (wflt : Option Status) :
    State :=
  let d := j.desc
  let p := j.prof
  let conc := concUnits fs
  let total := allUnits fs
  let dm := first.getD ⟨0, 0, 0, 0⟩
  if !s.inKeeps conc total then s.inDropped j c Code.streamCorrupt conc dm.off false inj
  else
    match wflt with
    | some st => s.inHalt st
    | none =>
      let status := if conc = 0 then Code.done else Code.concealed
      let k := if (s.intake.staged c).contains 0 then 1 else 0
      let mask := sampleMask d p fs
      let s3 := s.putHbm (s.inStage c k) (sampleTensor (bytesAt d 4 1) d p fs)
      let s4 := if conc = 0 then s3 else s3.inRecord c status (bytesAt d 0 4) inj
      let r : InReady := { core := c, slot := k, seq := j.seq, id := bytesAt d 0 4, status := status, prof := bytesAt d 5 1 % 16,
                           conc := conc, total := total, frame := dm.frame, row := dm.row, col := dm.col, off := dm.off,
                           mask := packBits mask, maskBits := (mask.filter id).length, size := profBytes p }
      { s4 with intake := { s4.intake with ready := s4.intake.ready ++ [r], last := status } }

/-- A stream that was read (14 R332, R336): rejected for what its headers declare or claim, a stream without a header with them (log
entry 11), or decoded. -/
def State.inRead (s : State) (j : InJob) (c : Nat) (bytes : List Byte) (wflt : Option Status) : State :=
  let codec := bytesAt j.desc 4 1
  let heads := Config.headers codec bytes
  let md := s.reg .intake 0xC
  if heads.isEmpty || !heads.all (supported codec) then s.inDropped j c Code.streamCorrupt 0 0 true false
  else if heads.any (fun h => decide (fieldOf md 13 0 < h.w) || decide (fieldOf md 29 16 < h.h)) then
    s.inDropped j c Code.dimClaim 0 0 true false
  else
    let (fs, first, inj, s1) := decodeStream codec c bytes (wantFrames j.desc j.prof) s
    s1.inDecoded j c fs first inj wflt

/-- SAMPLE_COMPLETE (14 R332, R333, R336, R339, R340): core `c` has decoded its stream; `far` are the bytes that arrived of one in a
remote window, `flt` a fault of the stream's read, `wflt` one of the write into staging. -/
def execSampleComplete (c : Fin 8) (far : List (BitVec 8)) (flt wflt : Option (BitVec 8)) (s : State) : Result :=
  .next (match s.intake.cores[c.val] with
    | none => s
    | some j =>
      let s1 := { s with intake := { s.intake with cores := s.intake.cores.set c.val none } }
      let d := j.desc
      let src := s.inSource (bytesAt d 8 6) (bytesAt d 16 4)
      State.inSettle (
        if !inFieldsOk d j.prof s.inSlotSize (fieldOf (s.reg .intake 0x48) 19 0 * 64) then
          s1.inDropped j c Code.bounds 0 0 true false
        else if src ≠ Code.done then s1.inDropped j c src 0 0 true false
        else
          match flt with
          | some x => s1.inDropped j c (if x = 0x23 then Code.hbmUncorr else Code.busErr) 0 0 true false
          | none =>
            let (bytes, s2) := s1.inStream (bytesAt d 8 6) (bytesAt d 16 4) far
            s2.inRead j c bytes (inWriteFault wflt)))

/-- The first slot of the batch whose copy by a core has not completed. -/
def copySlot (c : Nat) : List (InReady × Bool) → Nat → Option Nat
  | [], _ => none
  | p :: ps, i => if p.1.core == c && !p.2 then some i else copySlot c ps (i + 1)

/-- SLOT_COPY_DONE (14 R343, R344, R347): the oldest copy of a core's channel ends. -/
def execSlotCopyDone (c : Fin 8) (flt : Option (BitVec 8)) (s : State) : Result :=
  .next (match s.intake.batch with
    | none => s
    | some b =>
      match copySlot c b.slots 0 with
      | none => s
      | some i =>
        match inWriteFault flt, b.slots[i]? with
        | some st, _ => s.inHalt st
        | none, none => s
        | none, some (r, _) =>
          let buf := s.inBuf s.inProd
          let s1 := s.putHbm (buf + (fieldOf (s.reg .intake 0x3C) 27 0) * 4096 + i * s.inSlotSize) (s.hbm.load (s.inStage c r.slot) r.size)
          let s2 := s1.putHbm (buf + (fieldOf (s.reg .intake 0x44) 27 0) * 4096 + i * (fieldOf (s.reg .intake 0x48) 19 0 * 64)) r.mask
          { s2 with intake := { s2.intake with batch := some { b with slots := b.slots.set i (r, true) } } }.inSettle)

/-- A write of 1 to IN_CTL.FLUSH (14 R345). -/
def State.inFlush (s : State) : State := s.inClose 1

/-- FLUSH (14 R345). -/
def execFlush (s : State) : Result := .next s.inFlush

/-- BATCH_CLOSE (14 R346, R347): the manifest is written, then IN_PROD advances and the counter of IN_NOTIFY. -/
def execBatchClose (flt : Option (BitVec 8)) (s : State) : Result :=
  .next (match s.intake.batch with
    | none => s
    | some b =>
      if b.closing.isNone || !b.slots.all (·.2) then s
      else
        match inWriteFault flt with
        | some st => s.inHalt st
        | none =>
          let s1 := s.putManifest b Code.done
          let s2 := { s1 with intake := { s1.intake with batch := none } }.setReg .intake 0x5C (s1.reg .intake 0x5C + 1)
          (s2.targetSig (s2.reg .intake 0x54)).inSettle)

/-- CONS_POLL (14 R348, R349). -/
def execConsPoll (s : State) : Result :=
  .next (if !s.inEn && !s.intake.busy then s
  else
    let c := s.hbm.num (s.inAddr 0x4C) 4
    let p := (s.inProd + 2 ^ 32 - c) % 2 ^ 32
    let old := s.inPrep
    if s.inDepth < p then s.orReg .intake 4 0x10
    else
      let mark := fieldOf (s.reg .intake 0x58) 6 0
      let s1 := { s with intake := { s.intake with cons := c } }
      let s2 := if mark ≤ old && p < mark then ((s1.orReg .intake 4 4).raise .intake).notifyBoth 2 Code.done p else s1
      s2.inSettle)

/-- The layout check of EN (14 R350). -/
def State.inLayoutOk (s : State) : Bool :=
  let b := s.inSlots
  let f (o : Nat) : Nat := fieldOf (s.reg .intake o) 27 0 * 4096
  let ring := s.inAddr 0x10
  let ringN := 64 * fieldOf (s.reg .intake 0x18) 16 0
  decide (64 + 48 * b ≤ f 0x44) && decide (f 0x44 + b * (fieldOf (s.reg .intake 0x48) 19 0 * 64) ≤ f 0x3C) &&
  decide (f 0x3C + b * s.inSlotSize ≤ f 0x34) && inHbm (s.inAddr 0x2C) (s.inDepth * f 0x34) &&
  inHbm (s.inAddr 0x60) (16 * s.inSlotSize) && inHbm (s.inAddr 0x24) 1024 && inHbm (s.inAddr 0x4C) 4 &&
  (inHbm ring ringN || (decide (burrowBase ≤ ring) && decide (ring + ringN ≤ 0x20000000000)))

/-- A write to IN_CTL.EN (14 R347, R350). -/
def State.intakeEn (s : State) (en : Bool) : State :=
  if en then
    if s.inEn then s
    else if !s.inLayoutOk then s.orReg .intake 4 0x20
    else
      let t := s.intake
      let t1 := if t.halted then { t with ready := [], batch := none, nextDrops := [], nextCnt := 0, lasts := [], halted := false } else t
      ({ s with intake := { t1 with cons := 0 } }.setReg .intake 0x5C 0).setReg .intake 0 1
  else
    let s1 := s.setReg .intake 0 0
    if s1.intake.halted then { s1 with intake := { s1.intake with ready := [], batch := none } } else s1.inSettle

/-- INTAKE_EN (14 R350). -/
def execIntakeEn (en : Bool) (s : State) : Result := .next (s.intakeEn en)

end Sys2Proof.Machine
end

