-- ==== Sys2Proof/Machine/Crc.lean ====
section
/-!
DEFINITION. CRC-32 with the IEEE 802.3 polynomial (06 Table 06-1), reflected, initial value and final XOR all ones.
-/
namespace Sys2Proof.Machine

/-- Eight shifts of the reflected register. -/
def crcBits : Nat → BitVec 32 → BitVec 32
  | 0, c => c
  | n + 1, c => crcBits n (if c.getLsbD 0 then (c >>> 1) ^^^ 0xEDB88320#32 else c >>> 1)

/-- CRC-32 of a list of bytes. -/
def crc32 (bs : List Byte) : Nat :=
  (bs.foldl (fun c b => crcBits 8 (c ^^^ b.setWidth 32)) 0xFFFFFFFF#32 ^^^ 0xFFFFFFFF#32).toNat

/-- CRC-32 of a structure whose four bytes at `o` hold the check value and count as 0. -/
def crcZeroed (bs : List Byte) (o : Nat) : Nat :=
  crc32 (bs.take o ++ [0, 0, 0, 0] ++ bs.drop (o + 4))

end Sys2Proof.Machine
end

