-- ==== Sys2Proof/Machine/Flags.lean ====
section
/-!
DEFINITION. Floating-point exceptions and the arithmetic of the vector engine in its two modes (10 R248 to R257).
-/
namespace Sys2Proof.Machine

/-- Exceptions and flushes of one operation (10 R249, R251). -/
structure Fx where
  invalid : Bool := false
  divzero : Bool := false
  overflow : Bool := false
  underflow : Bool := false
  inexact : Bool := false
  denorm : Bool := false
  deriving DecidableEq, Repr

def Fx.or (a b : Fx) : Fx :=
  ⟨a.invalid || b.invalid, a.divzero || b.divzero, a.overflow || b.overflow, a.underflow || b.underflow,
   a.inexact || b.inexact, a.denorm || b.denorm⟩

/-- VE_FLAGS bits of the exceptions (10 Table 10-9). -/
def Fx.bits (f : Fx) : Nat :=
  flagBit f.invalid 4 + flagBit f.divzero 5 + flagBit f.overflow 6 + flagBit f.underflow 7 + flagBit f.inexact 8 +
  flagBit f.denorm 9

/-- One element as it enters: FP32 pattern, and whether it was a signalling NaN (10 R251). -/
structure Elem where
  bits : Nat
  snan : Bool
  deriving DecidableEq, Repr

/-- An exact result, with INVALID and DIVZERO. -/
structure Exact where
  v : Num
  invalid : Bool := false
  divzero : Bool := false
  deriving Repr

def exactAdd (a b : Num) : Exact :=
  let r := a.add b
  ⟨r, r.isNan && !a.isNan && !b.isNan, false⟩

def exactMul (a b : Num) : Exact :=
  let r := a.mul b
  ⟨r, r.isNan && !a.isNan && !b.isNan, false⟩

def exactFma (a b c : Num) : Exact :=
  let r := (a.mul b).add c
  ⟨r, r.isNan && !a.isNan && !b.isNan && !c.isNan, false⟩

def exactDiv (a b : Num) : Exact :=
  let r := a.div b
  ⟨r, r.isNan && !a.isNan && !b.isNan, a.isFinite && !a.isZero && b.isZero⟩

def exactSqrt (a : Num) : Exact :=
  let r := a.sqrt
  ⟨r, r.isNan && !a.isNan, false⟩

/-- Operand flush of fast mode (10 R249). -/
def enterBits (strict : Bool) (w : Nat) : Nat := if strict then w else f32Flush w

/-- Round an exact result to FP32 in a mode: strict raises the exceptions, fast flushes a subnormal result (10 R249, R251). -/
def leave (strict : Bool) (x : Exact) : Nat × Fx :=
  let r := FloatFmt.f32.round x.v
  if strict then (r.bits, { invalid := x.invalid, divzero := x.divzero, overflow := r.overflow, underflow := r.underflow, inexact := r.inexact })
  else (f32Flush r.bits, { denorm := f32Sub r.bits })

/-- An arithmetic function on FP32 elements in a mode (10 R248 to R251). -/
def arith (strict : Bool) (f : List Num → Exact) (xs : List Elem) : Nat × Fx :=
  let ws := xs.map (fun e => enterBits strict e.bits)
  let (r, fx) := leave strict (f (ws.map f32Num))
  (r, fx.or { invalid := strict && xs.any (·.snan), denorm := !strict && xs.any (fun e => f32Sub e.bits) })

/-- A function that never flushes and raises no flag (10 R250, R251). -/
def copyFn (f : List Num → Num) (xs : List Elem) : Nat × Fx := (f32Bits (f (xs.map (fun e => f32Num e.bits))), {})

/-- A function table: header and segments (10 R254, Table 10-1). -/
structure FnTable where
  xlo : Num
  wexp : Int
  al : Num
  bl : Num
  ah : Num
  bh : Num
  seg : Nat → Nat → Num

/-- Exact upper end of a table's domain (10 R255). -/
def FnTable.xhi (t : FnTable) : Num := t.xlo.add (.fin false 256 t.wexp)

/-- The largest finite FP32 value. -/
def f32Max : Num := .fin false (2 ^ 24 - 1) 104

/-- The header of a table is usable (10 R255). -/
def FnTable.ok (t : FnTable) : Bool :=
  t.xlo.isFinite && t.al.isFinite && t.bl.isFinite && t.ah.isFinite && t.bh.isFinite && (t.xhi.abs).le f32Max

/-- Segment number and the fraction within the segment of x in the domain (10 R256). -/
def FnTable.locate (t : FnTable) (x : Num) : Nat × Num :=
  match (x.sub t.xlo).shift (-t.wexp) with
  | .fin _ m e =>
    if 0 ≤ e then (m <<< e.toNat, Num.zero)
    else (m >>> (-e).toNat, .fin false (m % 2 ^ (-e).toNat) e)
  | _ => (0, Num.zero)

/-- A function table applied to one element (10 R256, R257). -/
def FnTable.eval (t : FnTable) (strict : Bool) (x : Elem) : Nat × Fx :=
  let w := enterBits strict x.bits
  let xn := f32Num w
  let fx0 : Fx := { invalid := strict && x.snan, denorm := !strict && f32Sub x.bits }
  match xn with
  | .nan => (f32Bits .nan, fx0)
  | .inf true =>
    let (r, fx) := leave strict ⟨if t.al.isZero then t.bl else .inf (!t.al.neg?), false, false⟩
    (r, fx0.or fx)
  | .inf false =>
    let (r, fx) := leave strict ⟨if t.ah.isZero then t.bh else .inf t.ah.neg?, false, false⟩
    (r, fx0.or fx)
  | _ =>
    if xn.le t.xlo && !(t.xlo.le xn) then
      let (r, fx) := leave strict (exactFma t.al xn t.bl)
      (r, fx0.or fx)
    else if t.xhi.le xn then
      let (r, fx) := leave strict (exactFma t.ah xn t.bh)
      (r, fx0.or fx)
    else
      let (s, f) := t.locate xn
      let (q, fx1) := leave strict (exactFma (t.seg s 2) f (t.seg s 1))
      let (y, fx2) := leave strict (exactFma (f32Num q) f (t.seg s 0))
      (y, (fx0.or fx1).or fx2)

/-- One fast addition of a row reduction: both operands and the result are flushed (10 R252). -/
def fastAdd (a : Nat × Fx) (f : List Num → Exact) (xs : List Nat) : Nat × Fx :=
  let (r, fx) := arith false f (⟨a.1, false⟩ :: xs.map (fun w => ⟨w, false⟩))
  (r, a.2.or fx)

/-- The lane sums of the fast order: lane l takes the elements l, l + 64, … (10 R252). -/
def laneSum (f : List Num → Exact) (row : List Nat) (l : Nat) : Nat × Fx :=
  ((List.range (ceilDiv row.length 64)).map (fun j => l + 64 * j)).foldl (fun a i =>
    if i < row.length then fastAdd a f [row.getD i 0] else a) (0, {})

/-- The pairwise tree of the fast order, `k` levels (10 R252). -/
def treeSum : Nat → List (Nat × Fx) → List (Nat × Fx)
  | 0, l => l
  | k + 1, l =>
    treeSum k ((chunks 2 l).map (fun p => match p with
      | [a, b] =>
        let (r, fx) := arith false (fun xs => exactAdd (xs.getD 0 .nan) (xs.getD 1 .nan)) [⟨a.1, false⟩, ⟨b.1, false⟩]
        (r, (a.2.or b.2).or fx)
      | [a] => a
      | _ => (0, {})))

/-- A fast row reduction (10 R252). -/
def fastReduce (square : Bool) (row : List Nat) : Nat × Fx :=
  let f : List Num → Exact := fun xs =>
    let x := xs.getD 1 .nan
    if square then exactFma x x (xs.getD 0 .nan) else exactAdd (xs.getD 0 .nan) x
  ((treeSum 6 ((List.range 64).map (laneSum f row))).headD (0, {}))

/-- A strict row reduction: the exact sum, or sum of squares, rounded once; the special values of the row's own elements decide
first, for VRSUM and VRSSQ alike (10 R251, R253; log entry 50). -/
def strictReduce (square : Bool) (row : List Elem) : Nat × Fx :=
  let xs := row.map (fun e => f32Num e.bits)
  let pos := xs.contains (.inf false)
  let neg := xs.contains (.inf true)
  let snan := row.any (·.snan)
  if xs.any Num.isNan || (pos && neg) then (f32Bits .nan, { invalid := (pos && neg) || snan })
  else if pos || neg then (f32Bits (.inf neg), { invalid := snan })
  else
    let sum := (if square then xs.map (fun x => x.mul x) else xs).foldl Num.add Num.zero
    let r := FloatFmt.f32.round (if xs.all (fun x => x.isZero && x.neg?) && !xs.isEmpty then .fin true 0 0 else sum)
    (r.bits, { invalid := snan, overflow := r.overflow, inexact := r.inexact })

end Sys2Proof.Machine
end

