-- ==== Sys2Proof/Machine/Tensor.lean ====
section
/-!
DEFINITION. The tensor engine: MMA, CVT, RLOAD, RDROP and TE_CTL.DISCARD (03 R69 to R100, 02 R58 to R64, 05 R148, R149).
-/
namespace Sys2Proof.Machine

/-- Extent of K, and of M or N, of an operand. -/
def Desc.kExt (d : Desc) (b : Bool) (ext : List Nat) : Nat := min (ext.getD (d.kdim b) 1) (d.bound (d.kdim b))
def Desc.xExt (d : Desc) (b : Bool) (ext : List Nat) : Nat := ext.getD (1 - d.kdim b) 1

/-- Dimensions 2 to 4 of a tensor operand, and a pointer-list dimension, have plan bound 1 (06 R166). -/
def Desc.flat (d : Desc) : Bool := (List.range 5).all (fun k => (k < 2 && d.counts k) || d.bound k == 1)

/-- BDIM names K after any swap (02 R43, 06 R166). -/
def Desc.blockedOnK (d : Desc) (b : Bool) : Bool := d.bdim == (if b then 1 else 0)

/-- Index of row or column x at k of an operand. -/
def Desc.opIx (d : Desc) (b : Bool) (x k : Nat) : List Nat := if d.kdim b = 0 then [k, x, 0, 0, 0] else [x, k, 0, 0, 0]

/-- The 32 LN8 codes and the block scale of block kb of row or column x, plane p; zeros outside the extents (03 R76). -/
def View.block (v : View) (m : Mem) (b : Bool) (x kb p : Nat) : List Nat × Int :=
  let ke := v.d.kExt b v.ext
  let xe := v.d.xExt b v.ext
  let codes := (List.range 32).map (fun e =>
    let k := 32 * kb + e
    if k < ke && x < xe then v.ln8 (v.code m (v.d.opIx b x k) p) else 0)
  (codes, if 32 * kb < ke && x < xe then v.bs m (v.d.opIx b x (32 * kb)) p else 0)

/-- Words of the sett store that the blocks k0 to k0 + nb − 1 of an operand lie in: elements within the extents alone, and the scale
of every block that has one (03 R76). -/
def View.blockReads (v : View) (b : Bool) (lim k0 nb : Nat) : List Reads :=
  let ke := min (v.d.kExt b v.ext) (32 * (k0 + nb))
  let xe := min lim (v.d.xExt b v.ext)
  (List.range v.d.fmt.planes).flatMap (fun p => (List.range xe).flatMap (fun x =>
    readsOf 0 (spanWords (joinSpans ((List.range (ke - 32 * k0)).map (fun i => v.span (v.d.opIx b x (32 * k0 + i)) p)))) ++
    readsOf 0 (spanWords (joinSpans ((List.range (ceilDiv ke 32 - k0)).map (fun j =>
      (2 * v.bsAddr (v.d.opIx b x (32 * (k0 + j))) p, 2)))))))

/-- Block period P of a pair of formats (03 Table 03-1), none for a pair of 02 R53 that does not exist. -/
def pairPeriod : Fmt → Fmt → Option Nat
  | .ln4, .ln4 => some 16
  | .ln4, .ln8 => some 32
  | .ln8, .ln4 => some 32
  | .ln8, .ln8 => some 32
  | .ln8x2, .ln8x2 => some 96
  | .ln8x3, .ln8x3 => some 192
  | _, _ => none

/-- The exact value of one block's products for a pair of pieces, none for NaN (02 R59, R60): units of 2^-31, and the sum
of block scales. -/
def blockDot (a b : List Nat × Int) : Option (Int × Int) :=
  if a.2 = -128 || b.2 = -128 then none
  else (blockSum a.1 b.1).map (fun z => (z, a.2 + b.2))

/-- One block of the fast reference order (02 R61): v := RNE(s × 2^(BSa+BSb)), acc := RNE(acc + v). -/
def fastStep (acc : Nat) (d : Option (Int × Int)) : Nat :=
  let v : Num := match d with
    | none => .nan
    | some (z, e) => (Num.fin (decide (z < 0)) z.natAbs (e - 31)).rne
  f32Bits ((f32Num acc).add v)

/-- One block of the strict sum, in units of 2^-285 (02 R64, 03 R90). -/
def exactStep (acc : Option Int) (d : Option (Int × Int)) : Option Int :=
  match acc, d with
  | some x, some (z, e) => some (x + z * ((2 ^ (e + 254).toNat : Nat) : Int))
  | _, _ => none

/-- The blocks of one element in reference order: increasing k, then the pairs of pieces (02 R52, R61). -/
def dotList (pairs : List (Nat × Nat)) (blkA blkB : Nat → Nat → List Nat × Int) (k0 nb : Nat) : List (Option (Int × Int)) :=
  (List.range nb).flatMap (fun j => pairs.map (fun pq => blockDot (blkA (k0 + j) pq.1) (blkB (k0 + j) pq.2)))

/-- Add blocks to every element within an MMA's M and N extents; an element outside them keeps its accumulator, even against a NaN block
of the other operand (03 R71 over R76 with 02 R59: log entry 51). -/
def Tile.addBlocks (x : Tile) (pairs : List (Nat × Nat)) (rows cols k0 nb : Nat)
    (blkA blkB : Nat → Nat → Nat → List Nat × Int) : Tile :=
  let ds := fun r c => dotList pairs (blkA r) (blkB c) k0 nb
  let els := (List.range rows).flatMap (fun r => (List.range cols).map (fun c => (r, c)))
  let x1 := { x with blocks := x.blocks + nb, rows := max x.rows rows, cols := max x.cols cols }
  if x.strict then
    { x1 with exact := els.foldl (fun m rc =>
        let k := 96 * rc.1 + rc.2
        Tbl.set m k ((ds rc.1 rc.2).foldl exactStep (Tbl.get m k (some 0))) (some 0)) x.exact }
  else
    { x1 with acc := els.foldl (fun m rc =>
        let k := 96 * rc.1 + rc.2
        Tbl.set m k ((ds rc.1 rc.2).foldl fastStep (Tbl.get m k 0)) 0) x.acc }

/-- The open tile of an id. -/
def SettSt.tile (t : SettSt) (id : BitVec 6) : Option Tile := t.tiles.find? (fun x => x.id == id)

def SettSt.heldCount (t : SettSt) : Nat := (t.tiles.filter Tile.held).length

/-- Number of spill slots; none usable where they pass the end of the WAB (03 Table 03-12). -/
def State.slotCount (s : State) (u : SettId) : Nat :=
  let n := s.fld (.te u) 0x24 5 0
  if s.slotAddr u n ≤ wabSize then n else 0

/-- The lowest-numbered free slot, `freed` counted as free (03 R87). -/
def State.freeSlot (s : State) (u : SettId) (freed : Option Nat) : Option Nat :=
  let used := (s.sett u).tiles.filterMap (fun x => match x.place with
    | .slot n => if freed = some n then none else some n
    | _ => none)
  (List.range (s.slotCount u)).find? (fun n => !used.contains n)

/-- What making a tile live needs (03 R86, R87): the victim and its slot, whether a tile is read back, whether it is a switch. -/
structure PlaceRes where
  victim : Option (BitVec 6 × Nat)
  fill : Option Nat
  switch : Bool
  deriving DecidableEq, Repr

/-- The placement of a named tile; none where a spill finds no free slot (03 R88). -/
def State.placeTile (s : State) (u : SettId) (id : BitVec 6) : Option PlaceRes :=
  let t := s.sett u
  let full := decide (9 ≤ t.heldCount)
  let anyLive := t.tiles.any (fun x => x.place == .live)
  let victim := (t.tiles.find? (fun x => x.held && x.id != id)).map (·.id)
  let spill (freed : Option Nat) : Option PlaceRes :=
    if full then
      match victim, s.freeSlot u freed with
      | some v, some n => some ⟨some (v, n), freed, false⟩
      | _, _ => none
    else some ⟨none, freed, freed.isNone && anyLive⟩
  match t.tile id with
  | some x =>
    match x.place with
    | .live => some ⟨none, none, false⟩
    | .file => some ⟨none, none, true⟩
    | .slot n => spill (some n)
  | none => spill none

/-- FP32 words of a tile as a spill slot holds them: element (r, c) at 384 r + 4 c; words outside the valid region are free
values (03 R88, log entry 1). -/
def slotBytes (x : Tile) (free : Nat) : List Byte :=
  (List.range 6144).flatMap (fun k =>
    if k / 96 < x.rows && k % 96 < x.cols then leBytes 4 (Tbl.get x.acc k 0)
    else leBytes 4 (Config.freeValue (free + k)))

/-- A tile read back from its slot: the valid region's words (03 R87). -/
def Tile.fill (x : Tile) (wab : Mem) (a : Nat) : Tile :=
  { x with acc := (List.range 6144).foldl (fun m k =>
      if k / 96 < x.rows && k % 96 < x.cols then Tbl.set m k (wab.num (a + 4 * k) 4) 0 else m) x.acc }

/-- Words consumed by a placement: a tile read from the file, a victim read from it, a slot read back. -/
def SettSt.placeReads (t : SettSt) (s : State) (u : SettId) (id : BitVec 6) (p : PlaceRes) : List Reads :=
  (match t.tile id with
    | some x => if x.place = .file then [.acc id 6144] else []
    | none => []) ++
  (match p.fill with
    | some n => [.wab (s.slotAddr u n) 0x6000]
    | none => []) ++
  (match p.victim with
    | some (v, _) => match t.tile v with
      | some x => if x.place = .file then [.acc v 6144] else []
      | none => []
    | none => [])

/-- Carry out a placement: the named tile (if open) becomes live and the most recently named, another live tile moves to the
file, a victim goes to its slot (03 R86, R87). -/
def State.doPlace (s : State) (u : SettId) (id : BitVec 6) (p : PlaceRes) : State :=
  let t := s.sett u
  let named := (t.tile id).map (fun x => match p.fill with
    | some n => { x.fill t.wab (s.slotAddr u n) with place := .live }
    | none => { x with place := .live })
  let others := (t.tiles.filter (fun x => x.id != id)).map (fun x =>
    if (match p.victim with
      | some (v, _) => v == x.id
      | none => false) then { x with place := .slot ((p.victim.map (·.2)).getD 0) }
    else if x.place = .live then { x with place := .file } else x)
  let s1 := s.modSett u (fun t => { t with tiles := others ++ named.toList })
  let s2 := match p.victim with
    | some (v, n) =>
      match t.tile v with
      | some x => { s1.modSett u (fun t => t.putWab (s.slotAddr u n) (slotBytes x s.freeCtr)) with freeCtr := s.freeCtr + 6144 }
      | none => s1
    | none => s1
  let s3 := if p.victim.isSome then s2.bump (.te u) 0x28 1 else s2
  if p.fill.isSome then s3.bump (.te u) 0x2C 1 else s3

/-- NB and K0 of a block-range counter (05 R137). -/
def kcFields (v : Nat) : Nat × Nat := (bitsOf v 31 20, bitsOf v 19 0)

/-- A strict tile is open under another id (03 R90). -/
def SettSt.strictElsewhere (t : SettSt) (id : BitVec 6) : Bool := t.tiles.any (fun x => x.strict && x.id != id)

/-- The checks of an MMA after SHAPE_OVER and zero extents (03 R72 to R78, R83, R84, R90; 05 R137, R148). -/
def mmaCheck (t : SettSt) (q : QCmd) (da db : BitVec 14) (tile : BitVec 6) (str res : Bool) (k0 nb : Nat) : Status :=
  let a := t.desc da
  let b := t.desc db
  let resOk := match t.resident with
    | some r => r.db == db && decide (r.k0 ≤ k0) && decide (k0 + nb ≤ r.k0 + r.nb)
    | none => false
  firstFault
    [ checkDescs t [0] [(a, q.extOf 0), (b, q.extOf 1)],
      demand (decide (k0 + nb ≤ 2 ^ 20)) Code.bounds,
      demand (decide (((t.tile tile).map (·.blocks)).getD 0 + nb ≤ 2 ^ 20)) Code.bounds,
      demand (!res || resOk) Code.bounds,
      demand (a.flat && b.flat && a.blockedOnK false && b.blockedOnK true) Code.planMismatch,
      demand (pairPeriod a.fmt b.fmt).isSome Code.planMismatch,
      demand (!t.strictElsewhere tile) Code.planMismatch,
      demand (((t.tile tile).map (fun x => x.strict == str)).getD true) Code.planMismatch ]

/-- The start of an MMA (03 R72 to R75, R85 to R90, Table 03-3). -/
def startMma (u : SettId) (da db : BitVec 14) (tile : BitVec 6) (str res : Bool) (kc : BitVec 4) (s : State) (q : QCmd) : Start :=
  let t := s.sett u
  let a := t.desc da
  let b := t.desc db
  let (nb, k0) := kcFields (q.ctr kc)
  if a.overX false (q.extOf 0) || b.overX true (q.extOf 1) then .fault s Code.shapeOver
  else if nb = 0 || a.emptyX false (q.extOf 0) || b.emptyX true (q.extOf 1) then .zero s
  else
    let c := mmaCheck t q da db tile str res k0 nb
    if c ≠ Code.done then .fault s c
    else
      match s.placeTile u tile with
      | none => .fault s Code.bounds
      | some p =>
        let va := a.view t (q.extOf 0)
        let vb := b.view t (q.extOf 1)
        let rows := min 64 (a.xExt false (q.extOf 0))
        let cols := min 96 (b.xExt true (q.extOf 1))
        let reads := va.blockReads false 64 k0 nb ++ (if res then [] else vb.blockReads true 96 k0 nb) ++ t.placeReads s u tile p
        match s.consume u 1 reads with
        | (true, s1) => .freeze s1
        | (false, s1) =>
          let s2 := s1.doPlace u tile p
          let blkA := fun r kb pl => va.block t.store false r kb pl
          let blkB := fun c kb pl =>
            if res then
              match t.resident with
              | some r => (r.cols.getD c []).getD (kb - r.k0) ([], 0)
              | none => ([], 0)
            else vb.block t.store true c kb pl
          let fresh : Tile := ⟨tile, da, db, str, .live, 0, 0, 0, [], []⟩
          let pairs := piecePairs a.fmt
          let s3 := s2.modSett u (fun t =>
            let x := (t.tile tile).getD fresh
            { t with tiles := t.tiles.filter (fun y => y.id != tile) ++ [x.addBlocks pairs rows cols k0 nb blkA blkB] })
          let per := (pairPeriod a.fmt b.fmt).getD 0 * (if str then 4 else 1)
          let slow := p.victim.isSome || p.fill.isSome
          let occ := if slow then 4 * nb * per + 8 else if p.switch then nb * per + 8 else nb * per
          .go s3 (if slow then Code.spilled else Code.done) occ 0 (some (occ + 13)) false

/-- The output of one element: RNE(acc × Ca × Cb), or RNE(E × Ca × Cb) for a strict tile (02 R61, R63, R64). -/
def Tile.out (x : Tile) (ca cb : Num) (r c : Nat) : Nat :=
  let k := 96 * r + c
  let v : Num :=
    if x.strict then
      match Tbl.get x.exact k (some 0) with
      | none => .nan
      | some z => .fin (decide (z < 0)) z.natAbs (-285)
    else f32Num (Tbl.get x.acc k 0)
  f32Bits ((v.mul ca).mul cb)

/-- Is an FP32 pattern NaN or infinite? -/
def f32Special (w : Nat) : Bool := !f32Finite w

/-- The rows and columns of a CVT destination (06 R166): dimension of columns, of rows. -/
def Desc.colDim (d : Desc) : Nat := if d.trn then 1 else 0

/-- Index of element (r, c) of a CVT destination. -/
def Desc.cvtIx (d : Desc) (r c : Nat) : List Nat := if d.colDim = 0 then [c, r, 0, 0, 0] else [r, c, 0, 0, 0]

/-- What a conversion wrote: the sett, and (row, column) of each element that is NaN or infinite, and that saturated. -/
structure CvtRes where
  t : SettSt
  nan : List (Nat × Nat)
  sat : List (Nat × Nat)
  deriving Repr

/-- Positions of a tile, row by row. -/
def gridOf (rows cols : Nat) : List (Nat × Nat) := (List.range rows).flatMap (fun r => (List.range cols).map (fun c => (r, c)))

/-- Convert and write the elements of a CVT whose destination is no LN format. -/
def cvtPlain (v : View) (t : SettSt) (rows cols : Nat) (out : Nat → Nat → Nat) : CvtRes :=
  (gridOf rows cols).foldl (fun acc rc =>
    let o := out rc.1 rc.2
    let e := encodeElem v.d.fmt (f32Num o)
    { t := v.set acc.t (v.d.cvtIx rc.1 rc.2) 0 e.bits,
      nan := if e.naninf || f32Special o then acc.nan ++ [rc] else acc.nan,
      sat := if e.sat then acc.sat ++ [rc] else acc.sat }) ⟨t, [], []⟩

/-- Write one converted block: codes of its valid elements in every plane, and the block scales. -/
def View.putBlock (v : View) (t : SettSt) (ixs : List (List Nat)) (bs : List LnBlock) : SettSt :=
  ((bs.zip (List.range bs.length)).foldl (fun t bp =>
    let t1 := (ixs.zip bp.1.codes).foldl (fun t ic => v.set t ic.1 bp.2 ic.2) t
    v.setBs t1 (ixs.headD []) bp.2 bp.1.bs) t)

/-- The GIVEN scale of a block, for its first piece; later pieces are AUTO (02 R50). -/
def View.givenBs (v : View) (t : SettSt) (ix : List Nat) (given : Bool) : List (Option Int) :=
  if given then [some (v.bs (t.spaceMem v.d.space) ix 0)] else []

/-- The blocks of a rows × cols tile (03 R92): along rows of 32 columns, or along columns of 32 rows. -/
def tileBlocks (alongRows : Bool) (rows cols : Nat) : List (List (Nat × Nat)) :=
  if alongRows then
    (List.range rows).flatMap (fun r => (List.range (ceilDiv cols 32)).map (fun j =>
      ((List.range 32).filter (fun e => decide (32 * j + e < cols))).map (fun e => (r, 32 * j + e))))
  else
    (List.range cols).flatMap (fun c => (List.range (ceilDiv rows 32)).map (fun j =>
      ((List.range 32).filter (fun e => decide (32 * j + e < rows))).map (fun e => (32 * j + e, c))))

/-- Convert and write the elements of a CVT into an LN format (02 R44 to R50, 03 R92). -/
def cvtLn (v : View) (t : SettSt) (given : Bool) (rows cols : Nat) (out : Nat → Nat → Nat) : CvtRes :=
  (tileBlocks (v.d.bdim == 0) rows cols).foldl (fun acc rcs =>
    let ixs := rcs.map (fun rc => v.d.cvtIx rc.1 rc.2)
    let bs := encodeLn v.d.fmt (v.givenBs acc.t (ixs.headD []) given)
      (rcs.map (fun rc => LnIn.ofNum (f32Num (out rc.1 rc.2)) v.c))
    { t := v.putBlock acc.t ixs bs,
      nan := acc.nan ++ rcs.filter (fun rc => f32Special (out rc.1 rc.2)),
      sat := acc.sat ++ ((rcs.zip (List.range rcs.length)).filter (fun p => bs.any (fun b => b.sats.getD p.2 false))).map (·.1) })
    ⟨t, [], []⟩

/-- The first of some positions in reference order: least row, then least column (03 R94). -/
def firstPos (l : List (Nat × Nat)) : Option (Nat × Nat) :=
  l.foldl (fun m rc => match m with
    | none => some rc
    | some x => if rc.1 < x.1 || (rc.1 == x.1 && rc.2 < x.2) then some rc else some x) none

/-- Set a sticky TE flag, with the capture of its first occurrence (03 R93, R94). -/
def State.teFlag (s : State) (u : SettId) (bit cap : Nat) (pos : Option (Nat × Nat)) (seq : Nat) : State :=
  match pos with
  | none => s
  | some (r, c) =>
    if Word.bit (s.reg (.te u) 0x10) bit then s
    else (s.orReg (.te u) 0x10 (BitVec.ofNat 32 (2 ^ bit))).setReg (.te u) cap
      (BitVec.ofNat 32 (seq % 65536 * 65536 + r * 256 + c))

/-- The checks of a CVT after SHAPE_OVER and zero extents (03 R75, R88, R90; 05 R149; 06 R166). -/
def cvtCheck (s : State) (u : SettId) (q : QCmd) (dd : BitVec 14) (mode : BitVec 2) (given : Bool) (tile : BitVec 6) : Status :=
  let t := s.sett u
  let d := t.desc dd
  let coarseOk (f : BitVec 14) : Bool := f32CoarseOk ((t.desc f).coarse t)
  let (lo, hi) := d.byteRange d.bounds
  let ents := (d.entries t (q.extOf 0)).getD []
  firstFault
    [ demand (if mode = 0 then true else d.fmtc == 6 && !d.trn) Code.bounds,
      demand (!given || (d.isLn && mode == 0)) Code.bounds,
      demand (((t.tile tile).map (fun x => coarseOk x.da && coarseOk x.db)).getD true) Code.bounds,
      checkDescs t [if mode = 0 then 0 else 1] [(d, q.extOf 0)],
      demand (mode = 0 || ents.all (fun e => !s.hitsSpill u ((e.1 : Int) + lo).toNat (hi - lo + 1).toNat)) Code.bounds,
      demand (d.flat && (!d.isLn || d.bdim < 2)) Code.planMismatch,
      demand (!t.strictElsewhere tile) Code.planMismatch ]

/-- The start of a CVT (03 R74, R91 to R95, Table 03-3; 05 R149): a WAB add of a tile that is not open leaves every destination byte. -/
def startCvt (u : SettId) (dd : BitVec 14) (mode : BitVec 2) (given : Bool) (tile : BitVec 6) (s : State) (q : QCmd) : Start :=
  let t := s.sett u
  let d := t.desc dd
  let ext := q.extOf 0
  let seq := (s.reg (.te u) 0x1C).toNat
  let bumpSeq (s : State) : State := s.setReg (.te u) 0x1C (s.reg (.te u) 0x1C + 1)
  let close (s : State) : State := s.modSett u (fun t => { t with tiles := t.tiles.filter (fun x => x.id != tile) })
  if d.exceeds ext then .fault s Code.shapeOver
  else if d.empty ext then .zero (bumpSeq (close s))
  else
    let c := cvtCheck s u q dd mode given tile
    if c ≠ Code.done then .fault s c
    else
      match (if (t.tile tile).isSome then s.placeTile u tile else some ⟨none, none, false⟩) with
      | none => .fault s Code.bounds
      | some p =>
        let v := d.view t ext
        let rows := min 64 (ext.getD (1 - d.colDim) 1)
        let cols := min 96 (ext.getD d.colDim 1)
        let dst : View := { v with ext := if d.colDim = 0 then [cols, rows, 1, 1, 1] else [rows, cols, 1, 1, 1] }
        let reads := t.placeReads s u tile p ++ (if mode = 2 then dst.reads else dst.oldReads) ++
          (if given then dst.scaleReads else [])
        match s.consume u 1 reads with
        | (true, s1) => .freeze s1
        | (false, s1) =>
          let s2 := if (t.tile tile).isSome then s1.doPlace u tile p else s1
          let t2 := s2.sett u
          let scale (f : BitVec 14) : Num := f32Num ((t.desc f).coarse t)
          let raw : Nat → Nat → Nat := fun r c => match t2.tile tile with
            | some x => x.out (scale x.da) (scale x.db) r c
            | none => 0
          let old : Nat → Nat → Nat := fun r c => v.code t2.wab (v.d.cvtIx r c) 0
          let out : Nat → Nat → Nat := fun r c =>
            if mode = 2 then f32Bits ((f32Num (old r c)).add (f32Num (raw r c))) else raw r c
          let res : CvtRes :=
            if mode = 2 && (t.tile tile).isNone then ⟨t2, (gridOf rows cols).filter (fun rc => f32Special (old rc.1 rc.2)), []⟩
            else if d.isLn then cvtLn v t2 given rows cols out
            else cvtPlain v t2 rows cols out
          let s3 := close (s2.modSett u (fun _ => res.t.wrote d.space dst.spans))
          let s4 := (bumpSeq s3).teFlag u 0 0x14 (firstPos res.nan) seq
          let s5 := s4.teFlag u 1 0x18 (firstPos res.sat) seq
          let s6 := (s5.occur u q 0 (!res.nan.isEmpty)).occur u q 1 (!res.sat.isEmpty)
          let slow := p.victim.isSome || p.fill.isSome
          let add := mode = 2
          .go s6 (if slow then Code.spilled else Code.done) (if slow then 40 else 8) (if add then 48 else 24)
            (some ((if slow then 72 else 40) + (if add then 24 else 0))) false

/-- The start of an RLOAD (03 R83). -/
def startRload (u : SettId) (db : BitVec 14) (kc : BitVec 4) (s : State) (q : QCmd) : Start :=
  let t := s.sett u
  let b := t.desc db
  let ext := q.extOf 0
  let (nb, k0) := kcFields (q.ctr kc)
  if b.exceeds ext then .fault s Code.shapeOver
  else if nb = 0 || b.empty ext then .zero s
  else
    let c := firstFault
      [ checkDescs t [0] [(b, ext)], demand (decide (k0 + nb ≤ 2 ^ 20)) Code.bounds,
        demand (decide (nb ≤ 8) && decide (b.fmtc < 2)) Code.bounds,
        demand (b.flat && b.blockedOnK true) Code.planMismatch ]
    if c ≠ Code.done then .fault s c
    else
      let v := b.view t ext
      match s.consume u 1 (v.blockReads true 96 k0 nb) with
      | (true, s1) => .freeze s1
      | (false, s1) =>
        let cols := (List.range 96).map (fun c => (List.range nb).map (fun j => v.block t.store true c (k0 + j) 0))
        let s2 := s1.modSett u (fun t => { t with resident := some ⟨db, k0, nb, b.fmt, cols⟩ })
        .go s2 Code.done (16 * nb) 0 (some (16 * nb + 4)) false

/-- The start of an RDROP (03 R84). -/
def startRdrop (u : SettId) (s : State) (_q : QCmd) : Start :=
  .go (s.modSett u (fun t => { t with resident := none })) Code.done 1 0 (some 0) false

/-- MMA (03 R72). -/
def execMma (u : Sett) (h : Hdr) (da db : BitVec 14) (tile : BitVec 6) (str res : Bool) (kc : BitVec 4) (s : State) : Result :=
  .next (s.issueCmd u 1 h (.mma u h da db tile str res kc) [da, db] true (startMma u da db tile str res kc))

/-- CVT (03 R91): MODE 3 is reserved (05 R133). -/
def execCvt (u : Sett) (h : Hdr) (dd : BitVec 14) (mode : BitVec 2) (given : Bool) (tile : BitVec 6) (s : State) : Result :=
  .next (if mode = 3 then s.badWord u 1
  else s.issueCmd u 1 h (.cvt u h dd mode given tile) [dd] true (startCvt u dd mode given tile))

/-- RLOAD (03 R83). -/
def execRload (u : Sett) (h : Hdr) (db : BitVec 14) (kc : BitVec 4) (s : State) : Result :=
  .next (s.issueCmd u 1 h (.rload u h db kc) [db] true (startRload u db kc))

/-- RDROP (03 R84). -/
def execRdrop (u : Sett) (h : Hdr) (s : State) : Result :=
  .next (s.issueCmd u 1 h (.rdrop u h) [] true (startRdrop u))

/-- A write of 1 to TE_CTL.DISCARD (03 R99): refused while the engine is busy. -/
def State.teDiscard (s : State) (u : SettId) : State :=
  let g := (s.sett u).engine 1
  if g.queue.isEmpty && g.run.isEmpty then
    (s.modSett u (fun t => { t with tiles := [], resident := none })).setReg (.te u) 0x1C 0
  else s.orReg (.te u) 0x04 2

/-- DISCARD (03 R99). -/
def execDiscard (u : Sett) (s : State) : Result := .next (s.sqAct u (fun s => s.teDiscard u))

end Sys2Proof.Machine
end

