-- ==== Sys2Proof/Machine/Vector.lean ====
section
/-!
DEFINITION. The vector engine's functions: elementwise, tables, row reductions and amax (05 Table 05-5, R150, R151; 10 R248 to R258).
-/
namespace Sys2Proof.Machine

/-- One element of a source as it enters (10 R248, R251). -/
def View.enter (v : View) (m : Mem) (ix : List Nat) : Elem :=
  ⟨f32Bits (v.num m ix), !v.d.isLn && signalling v.d.fmt (v.code m ix 0)⟩

/-- The memory a view lies in. -/
def View.memOf (v : View) (t : SettSt) : Mem := t.spaceMem v.d.space

/-- The index of a source element for a destination index: a dimension of extent 1 is broadcast (05 R150). -/
def View.broadcast (v : View) (ix : List Nat) : List Nat :=
  (ix.zip (v.ext.take 5)).map (fun p => if p.2 = 1 then 0 else p.1)

/-- Flat index within the actual extents, dimension 0 fastest (10 R258). -/
def flatIndex (ext ix : List Nat) : Nat :=
  ((ext.zip ix).foldl (fun (p : Nat × Nat) e => (p.1 + e.2 * p.2, p.2 * e.1)) (0, 1)).1

/-- The FP32 results of a vector command, by destination index, and the flags it raised. -/
structure VecRes where
  vals : List (List Nat × Nat)
  fx : Fx
  deriving Repr

/-- What the exit conversion wrote: the sett, and the flat indices of elements that are NaN or infinite, and that saturated. -/
structure VecOut where
  t : SettSt
  nan : List Nat
  sat : List Nat
  deriving Repr

/-- Exit conversion into a format that is no LN format (02 Table 02-5). -/
def vecPlain (v : View) (t : SettSt) (vals : List (List Nat × Num)) : VecOut :=
  vals.foldl (fun acc p =>
    let e := encodeElem v.d.fmt p.2
    let i := flatIndex (v.ext.take 5) p.1
    { t := v.set acc.t p.1 0 e.bits,
      nan := if e.naninf then acc.nan ++ [i] else acc.nan,
      sat := if e.sat then acc.sat ++ [i] else acc.sat }) ⟨t, [], []⟩

/-- The value of a destination index. -/
def valAt (vals : List (List Nat × Num)) (ix : List Nat) : Num :=
  ((vals.find? (fun p => p.1 == ix)).map (·.2)).getD Num.zero

/-- Is the widening of one LN format into another exact (02 Table 02-5: LN4 into the others, LN8 into the split forms)? -/
def lnWidens (src dst : Desc) : Bool := dst.isLn && src.isLn && decide (src.fmtc < dst.fmtc) && decide (src.fmtc < 2)

/-- The widened image of a block (02 R39, R53): its codes and scale as they stand, then planes of zero codes with scale 0. None where
the destination's block is not one block of the source under the same coarse scale (log entry 49). -/
def View.widened (w v : View) (m : Mem) (ixs : List (List Nat)) : Option (List LnBlock) :=
  let src := ixs.map w.broadcast
  let at0 := w.bsAddr (src.headD []) 0
  if lnWidens w.d v.d && decide (w.c = v.c) && src.all (fun ix => w.bsAddr ix 0 == at0) then
    some ((List.range v.d.fmt.planes).map (fun p =>
      if p = 0 then ⟨w.bs m (src.headD []) 0, src.map (fun ix => w.ln8 (w.code m ix 0)), src.map (fun _ => false)⟩
      else ⟨0, src.map (fun _ => 0), src.map (fun _ => false)⟩))
  else none

/-- Is an element of a converted block NaN? -/
def LnBlock.nanAt (b : LnBlock) (nanCode e : Nat) : Bool := b.bs == -128 || b.codes.getD e 0 == nanCode

/-- Exit conversion into an LN format, block by block along the blocking dimension (02 R42, R44); `keep` gives the blocks that are
written as they stand. -/
def vecLn (v : View) (t : SettSt) (given : Bool) (vals : List (List Nat × Num)) (keep : List (List Nat) → Option (List LnBlock)) : VecOut :=
  let b := v.d.sbdim
  let starts := v.indices.filter (fun ix => ix.getD b 0 % 32 == 0)
  starts.foldl (fun acc ix0 =>
    let n := min 32 (v.ext.getD b 1 - ix0.getD b 0)
    let ixs := (List.range n).map (fun e => ix0.set b (ix0.getD b 0 + e))
    let bs := (keep ixs).getD
      (encodeLn v.d.fmt (v.givenBs acc.t ix0 given) (ixs.map (fun ix => LnIn.ofNum (valAt vals ix) v.c)))
    let nanCode := if v.d.fmtc = 0 then 8 else 128
    let fl := fun ix => flatIndex (v.ext.take 5) ix
    { t := v.putBlock acc.t ixs bs,
      nan := acc.nan ++ ((ixs.zip (List.range n)).filter (fun p => bs.any (fun k => k.nanAt nanCode p.2))).map (fun p => fl p.1),
      sat := acc.sat ++ ((ixs.zip (List.range n)).filter (fun p => bs.any (fun k => k.sats.getD p.2 false))).map (fun p => fl p.1) })
    ⟨t, [], []⟩

/-- Write the values of a vector command by the exit conversion, and note the flags its completion raises (10 R258, R271). -/
def State.vecExit (s : State) (u : SettId) (q : QCmd) (v : View) (given : Bool) (vals : List (List Nat × Num)) (fx : Fx)
    (keep : List (List Nat) → Option (List LnBlock) := fun _ => none) : State :=
  let o := if v.d.isLn then vecLn v (s.sett u) given vals keep else vecPlain v (s.sett u) vals
  let s1 := s.modSett u (fun _ => { o.t.wrote v.d.space v.spans with veDue := o.t.veDue ++ [⟨q.issue, o.nan.min?, o.sat.min?, fx.bits⟩] })
  (s1.occur u q 2 (!o.nan.isEmpty)).occur u q 3 (!o.sat.isEmpty)

/-- Write the FP32 results of a vector command (10 R248, R258). -/
def State.vecFinish (s : State) (u : SettId) (q : QCmd) (v : View) (given : Bool) (r : VecRes) : State :=
  s.vecExit u q v given (r.vals.map (fun p => (p.1, f32Num p.2))) r.fx

/-- Occupancy classes of 05 Table 05-9. -/
inductive VecClass where
  | simple | divide
  deriving DecidableEq, Repr

/-- Elements of a descriptor at its plan bounds (05 R139). -/
def Desc.planElems (d : Desc) : Nat := d.bounds.foldl (· * ·) 1

/-- The later visibility of an AUTO LN destination (05 R158). -/
def autoLag (d : Desc) (given : Bool) : Nat := if d.isLn && !given then 8 else 0

/-- Any captured extent above its bound, or zero, among a command's descriptors (06 R169). -/
def anyOver (l : List (Desc × List Nat)) : Bool := l.any (fun p => p.1.exceeds p.2)
def anyEmpty (l : List (Desc × List Nat)) : Bool := l.any (fun p => p.1.empty p.2)

/-- The checks that open every vector command (06 R169, 05 R150): the status of a command that ends here, or none. -/
def vecOpen (t : SettSt) (l : List (Desc × List Nat)) (extents : Bool) : Option Status :=
  if anyOver l then some Code.shapeOver
  else if anyEmpty l then some Code.zeroExtent
  else
    let c := firstFault [ checkDescs t [0, 1] l, demand extents Code.bounds ]
    if c = Code.done then none else some c

/-- A command that ends at its opening checks. -/
def Start.ended (s : State) (c : Status) : Start := if c = Code.zeroExtent then .zero s else .fault s c

/-- The words that writing a destination reads: GIVEN scales, and the old words it writes in part (05 R150, 07 R193). -/
def View.destReads (v : View) (given : Bool) : List Reads := (if given then v.scaleReads else []) ++ v.oldReads

/-- An elementwise command (05 R150): sources `ds`, the destination's prior value read too where `prior`; `fin` writes the results, given
the views of the sources and of the destination. -/
def startEach (u : SettId) (strict : Bool) (cls : VecClass) (modes : Bool) (dd : BitVec 14) (ds : List (BitVec 14)) (prior given : Bool)
    (fin : List View → View → State → State) (s : State) (q : QCmd) : Start :=
  let t := s.sett u
  let d := t.desc dd
  let srcs := (ds.zip (List.range ds.length)).map (fun p => (t.desc p.1, q.extOf (p.2 + 1)))
  let ext := q.extOf 0
  let okExt := srcs.all (fun p => (List.range 5).all (fun k =>
    p.2.getD k 1 == ext.getD k 1 || p.2.getD k 1 == 1))
  match vecOpen t ((d, ext) :: srcs) okExt with
  | some c => .ended s c
  | none =>
    let v := d.view t ext
    let vs := srcs.map (fun p => p.1.view t p.2)
    match s.consume u 2 (vs.flatMap View.reads ++ (if prior then v.reads else []) ++ v.destReads given) with
    | (true, s1) => .freeze s1
    | (false, s1) =>
      let per := match cls with
        | .simple => 64
        | .divide => 16
      let occ := ceilDiv d.planElems (if strict && modes then per / 2 else per)
      let lat := match cls with
        | .simple => 12
        | .divide => 28
      .go (fin vs v s1) Code.done occ 0 (some (occ + lat + autoLag d given)) false

/-- An elementwise function of FP32 elements (05 R150, 10 R248), the destination's prior value a last operand where `prior`. -/
def startElementwise (u : SettId) (strict : Bool) (cls : VecClass) (modes : Bool) (dd : BitVec 14) (ds : List (BitVec 14)) (prior given : Bool)
    (f : List Elem → Nat × Fx) (s : State) (q : QCmd) : Start :=
  let t := s.sett u
  startEach u strict cls modes dd ds prior given (fun vs v s1 =>
    let rs := v.indices.map (fun ix =>
      (ix, f (vs.map (fun w => w.enter (w.memOf t) (w.broadcast ix)) ++ (if prior then [v.enter (v.memOf t) ix] else []))))
    s1.vecFinish u q v given ⟨rs.map (fun p => (p.1, p.2.1)), rs.foldl (fun a p => a.or p.2.2) {}⟩) s q

/-- Does Table 02-5 convert this pair of formats from the exact value, with no FP32 step between (02 R55)? -/
def exactPath (src dst : Desc) : Bool :=
  (src.isLn && (dst.isLn || dst.fmtc == 4 || dst.fmtc == 5)) || (src.fmtc == 11 && dst.isLn)

/-- The value a VCPY hands to the exit conversion: exact where Table 02-5 has a row for the pair, otherwise by way of FP32
(02 R55, 05 Table 05-5; log entry 49). -/
def copyNum (src dst : Desc) (x : Num) : Num := if exactPath src dst then x else x.rne

/-- Offset of a function table in the store (10 R254). -/
def State.tableAddr (s : State) (u : SettId) (tab : Nat) (deriv : Bool) : Nat :=
  s.fld (.ve u) 0x08 25 16 * 4096 + tab * 8192 + (if deriv then 4096 else 0)

/-- A function table as the store holds it. -/
def tableAt (m : Mem) (a : Nat) : FnTable :=
  let f (o : Nat) : Num := f32Num (m.num (a + o) 4)
  { xlo := f 0, wexp := signedOf 8 (m.read (a + 4)).toNat, al := f 8, bl := f 12, ah := f 16, bh := f 20,
    seg := fun i k => f (64 + 12 * i + 4 * k) }

/-- Reserved bytes of a table header are 0 (10 R255). -/
def tableReserved (m : Mem) (a : Nat) : Bool := m.num (a + 5) 3 == 0 && m.num (a + 24) 40 == 0

/-- A function table applied elementwise (10 R254 to R257). -/
def startTable (u : SettId) (strict deriv : Bool) (dd ds1 : BitVec 14) (tab : BitVec 6) (given : Bool) (s : State) (q : QCmd) : Start :=
  let t := s.sett u
  let d := t.desc dd
  let d1 := t.desc ds1
  let ext := q.extOf 0
  let okExt := (List.range 5).all (fun k => (q.extOf 1).getD k 1 == ext.getD k 1 || (q.extOf 1).getD k 1 == 1)
  let a := s.tableAddr u tab.toNat deriv
  match vecOpen t [(d, ext), (d1, q.extOf 1)] okExt with
  | some c => .ended s c
  | none =>
    let ft := tableAt t.store a
    if s.fld (.ve u) 0x08 6 0 ≤ tab.toNat || storeSize < a + 4096 || !ft.ok || !tableReserved t.store a then .fault s Code.bounds
    else
      let v := d.view t ext
      let v1 := d1.view t (q.extOf 1)
      match s.consume u 2 (v1.reads ++ [.store a (64 + 3072)] ++ v.destReads given) with
      | (true, s1) => .freeze s1
      | (false, s1) =>
        let rs := v.indices.map (fun ix => (ix, ft.eval strict (v1.enter (v1.memOf t) (v1.broadcast ix))))
        let r : VecRes := ⟨rs.map (fun p => (p.1, p.2.1)), rs.foldl (fun a p => a.or p.2.2) {}⟩
        let occ := ceilDiv d.planElems (if strict then 32 else 64)
        .go (s1.vecFinish u q v given r) Code.done occ 0 (some (occ + 16 + autoLag d given)) false

/-- A row reduction (05 R150; 10 R252, R253): the destination's innermost extent is 1, its others equal the source's. -/
def startRows (u : SettId) (strict modes : Bool) (dd ds1 : BitVec 14) (given : Bool) (f : List Elem → Nat × Fx) (s : State) (q : QCmd) : Start :=
  let t := s.sett u
  let d := t.desc dd
  let d1 := t.desc ds1
  let ext := q.extOf 0
  let ext1 := q.extOf 1
  let okExt := ext.getD 0 1 == 1 && (List.range 5).all (fun k => k == 0 || ext.getD k 1 == ext1.getD k 1)
  match vecOpen t [(d, ext), (d1, ext1)] okExt with
  | some c => .ended s c
  | none =>
    let v := d.view t ext
    let v1 := d1.view t ext1
    match s.consume u 2 (v1.reads ++ v.destReads given) with
    | (true, s1) => .freeze s1
    | (false, s1) =>
      let rs := v.indices.map (fun ix =>
        (ix, f ((List.range (ext1.getD 0 1)).map (fun i => v1.enter (v1.memOf t) (ix.set 0 i)))))
      let r : VecRes := ⟨rs.map (fun p => (p.1, p.2.1)), rs.foldl (fun a p => a.or p.2.2) {}⟩
      let lb := d1.bound 0
      let rb := d1.planElems / lb
      let occ := (if strict && modes then 2 else 1) * rb * ceilDiv lb 64
      .go (s1.vecFinish u q v given r) Code.done occ 0 (some (occ + 24 + autoLag d given)) false

/-- The start of a VAMAX: the amax of the whole source as one FP32 value (02 R68, 05 R150). -/
def startVamax (u : SettId) (_strict : Bool) (dd ds1 : BitVec 14) (given : Bool) (s : State) (q : QCmd) : Start :=
  let t := s.sett u
  let d := t.desc dd
  let d1 := t.desc ds1
  let ext := q.extOf 0
  match vecOpen t [(d, ext), (d1, q.extOf 1)] ((List.range 5).all (fun k => ext.getD k 1 == 1)) with
  | some c => .ended s c
  | none =>
    let v := d.view t ext
    let v1 := d1.view t (q.extOf 1)
    match s.consume u 2 (v1.reads ++ v.destReads given) with
    | (true, s1) => .freeze s1
    | (false, s1) =>
      let a := v1.indices.foldl (fun m ix => m.amax (f32Num (v1.enter (v1.memOf t) ix).bits)) Num.zero
      let occ := ceilDiv d1.planElems 64
      .go (s1.vecFinish u q v given ⟨[([0, 0, 0, 0, 0], f32Bits a)], {}⟩) Code.done occ 0 (some (occ + 20 + autoLag d given)) false

/-- The start of a VADD (10 R248 to R251). -/
def startVadd (u : SettId) (strict : Bool) (dd ds1 ds2 : BitVec 14) (given : Bool) (s : State) (q : QCmd) : Start :=
  startElementwise u strict .simple true dd [ds1, ds2] false given (arith strict (fun xs => exactAdd (xs.getD 0 .nan) (xs.getD 1 .nan))) s q

/-- The start of a VSUB (10 R248 to R251). -/
def startVsub (u : SettId) (strict : Bool) (dd ds1 ds2 : BitVec 14) (given : Bool) (s : State) (q : QCmd) : Start :=
  startElementwise u strict .simple true dd [ds1, ds2] false given (arith strict (fun xs => exactAdd (xs.getD 0 .nan) ((xs.getD 1 .nan).negate))) s q

/-- The start of a VMUL (10 R248 to R251). -/
def startVmul (u : SettId) (strict : Bool) (dd ds1 ds2 : BitVec 14) (given : Bool) (s : State) (q : QCmd) : Start :=
  startElementwise u strict .simple true dd [ds1, ds2] false given (arith strict (fun xs => exactMul (xs.getD 0 .nan) (xs.getD 1 .nan))) s q

/-- The start of a VDIV (10 R248 to R251). -/
def startVdiv (u : SettId) (strict : Bool) (dd ds1 ds2 : BitVec 14) (given : Bool) (s : State) (q : QCmd) : Start :=
  startElementwise u strict .divide true dd [ds1, ds2] false given (arith strict (fun xs => exactDiv (xs.getD 0 .nan) (xs.getD 1 .nan))) s q

/-- The start of a VFMA: the destination's prior value is the third operand (05 Table 05-5, 10 R248). -/
def startVfma (u : SettId) (strict : Bool) (dd ds1 ds2 : BitVec 14) (given : Bool) (s : State) (q : QCmd) : Start :=
  startElementwise u strict .simple true dd [ds1, ds2] true given
    (arith strict (fun xs => exactFma (xs.getD 0 .nan) (xs.getD 1 .nan) (xs.getD 2 .nan))) s q

/-- The start of a VMAX (02 R67; never flushes, 10 R250). -/
def startVmax (u : SettId) (strict : Bool) (dd ds1 ds2 : BitVec 14) (given : Bool) (s : State) (q : QCmd) : Start :=
  startElementwise u strict .simple false dd [ds1, ds2] false given (copyFn (fun xs => (xs.getD 0 .nan).max (xs.getD 1 .nan))) s q

/-- The start of a VMIN (02 R67; never flushes, 10 R250). -/
def startVmin (u : SettId) (strict : Bool) (dd ds1 ds2 : BitVec 14) (given : Bool) (s : State) (q : QCmd) : Start :=
  startElementwise u strict .simple false dd [ds1, ds2] false given (copyFn (fun xs => (xs.getD 0 .nan).min (xs.getD 1 .nan))) s q

/-- The start of a VABS (05 Table 05-5; never flushes, 10 R250). -/
def startVabs (u : SettId) (strict : Bool) (dd ds1 : BitVec 14) (given : Bool) (s : State) (q : QCmd) : Start :=
  startElementwise u strict .simple false dd [ds1] false given (copyFn (fun xs => (xs.getD 0 .nan).abs)) s q

/-- The start of a VNEG (05 Table 05-5; never flushes, 10 R250). -/
def startVneg (u : SettId) (strict : Bool) (dd ds1 : BitVec 14) (given : Bool) (s : State) (q : QCmd) : Start :=
  startElementwise u strict .simple false dd [ds1] false given (copyFn (fun xs => (xs.getD 0 .nan).negate)) s q

/-- The start of a VCPY: one conversion to the destination's format (02 R55, Table 02-5; 05 Table 05-5); an exact widening between LN
formats keeps the source's scales unless GIVEN names others (02 R39, R53; log entry 49); it never flushes (10 R250). -/
def startVcpy (u : SettId) (strict : Bool) (dd ds1 : BitVec 14) (given : Bool) (s : State) (q : QCmd) : Start :=
  let t := s.sett u
  startEach u strict .simple false dd [ds1] false given (fun vs v s1 =>
    s1.vecExit u q v given (vs.flatMap (fun w => v.indices.map (fun ix =>
      (ix, copyNum w.d v.d (w.num (w.memOf t) (w.broadcast ix)))))) {}
      (fun ixs => if given then none else vs.findSome? (fun w => w.widened v (w.memOf t) ixs))) s q

/-- The start of a VSQRT (10 R248, R251). -/
def startVsqrt (u : SettId) (strict : Bool) (dd ds1 : BitVec 14) (given : Bool) (s : State) (q : QCmd) : Start :=
  startElementwise u strict .divide true dd [ds1] false given (arith strict (fun xs => exactSqrt (xs.getD 0 .nan))) s q

/-- The start of a VFN: the forward table (10 R254 to R257). -/
def startVfn (u : SettId) (strict : Bool) (dd ds1 : BitVec 14) (tab : BitVec 6) (given : Bool) (s : State) (q : QCmd) : Start :=
  startTable u strict false dd ds1 tab given s q

/-- The start of a VDFN: the derivative table (10 R254 to R257). -/
def startVdfn (u : SettId) (strict : Bool) (dd ds1 : BitVec 14) (tab : BitVec 6) (given : Bool) (s : State) (q : QCmd) : Start :=
  startTable u strict true dd ds1 tab given s q

/-- The start of a VRSUM (10 R252, R253). -/
def startVrsum (u : SettId) (strict : Bool) (dd ds1 : BitVec 14) (given : Bool) (s : State) (q : QCmd) : Start :=
  startRows u strict true dd ds1 given
    (fun row => if strict then strictReduce false row else fastReduce false (row.map (·.bits))) s q

/-- The start of a VRSSQ (10 R252, R253). -/
def startVrssq (u : SettId) (strict : Bool) (dd ds1 : BitVec 14) (given : Bool) (s : State) (q : QCmd) : Start :=
  startRows u strict true dd ds1 given
    (fun row => if strict then strictReduce true row else fastReduce true (row.map (·.bits))) s q

/-- The start of a VRMAX (10 R253, 02 R67). -/
def startVrmax (u : SettId) (strict : Bool) (dd ds1 : BitVec 14) (given : Bool) (s : State) (q : QCmd) : Start :=
  startRows u strict false dd ds1 given
    (fun row => match row.map (fun e => f32Num e.bits) with
      | [] => (0, {})
      | x :: r => (f32Bits (r.foldl Num.max x), {})) s q

/-- VADD (05 R150). -/
def execVadd (u : Sett) (h : Hdr) (strict : Bool) (dd ds1 ds2 : BitVec 14) (given : Bool) (s : State) : Result :=
  .next (s.issueCmd u 2 h (.vadd u h strict dd ds1 ds2 given) [dd, ds1, ds2] true (startVadd u strict dd ds1 ds2 given))

/-- VSUB (05 R150). -/
def execVsub (u : Sett) (h : Hdr) (strict : Bool) (dd ds1 ds2 : BitVec 14) (given : Bool) (s : State) : Result :=
  .next (s.issueCmd u 2 h (.vsub u h strict dd ds1 ds2 given) [dd, ds1, ds2] true (startVsub u strict dd ds1 ds2 given))

/-- VMUL (05 R150). -/
def execVmul (u : Sett) (h : Hdr) (strict : Bool) (dd ds1 ds2 : BitVec 14) (given : Bool) (s : State) : Result :=
  .next (s.issueCmd u 2 h (.vmul u h strict dd ds1 ds2 given) [dd, ds1, ds2] true (startVmul u strict dd ds1 ds2 given))

/-- VFMA (05 R150). -/
def execVfma (u : Sett) (h : Hdr) (strict : Bool) (dd ds1 ds2 : BitVec 14) (given : Bool) (s : State) : Result :=
  .next (s.issueCmd u 2 h (.vfma u h strict dd ds1 ds2 given) [dd, ds1, ds2] true (startVfma u strict dd ds1 ds2 given))

/-- VMAX (05 R150). -/
def execVmax (u : Sett) (h : Hdr) (strict : Bool) (dd ds1 ds2 : BitVec 14) (given : Bool) (s : State) : Result :=
  .next (s.issueCmd u 2 h (.vmax u h strict dd ds1 ds2 given) [dd, ds1, ds2] true (startVmax u strict dd ds1 ds2 given))

/-- VMIN (05 R150). -/
def execVmin (u : Sett) (h : Hdr) (strict : Bool) (dd ds1 ds2 : BitVec 14) (given : Bool) (s : State) : Result :=
  .next (s.issueCmd u 2 h (.vmin u h strict dd ds1 ds2 given) [dd, ds1, ds2] true (startVmin u strict dd ds1 ds2 given))

/-- VDIV (05 R150). -/
def execVdiv (u : Sett) (h : Hdr) (strict : Bool) (dd ds1 ds2 : BitVec 14) (given : Bool) (s : State) : Result :=
  .next (s.issueCmd u 2 h (.vdiv u h strict dd ds1 ds2 given) [dd, ds1, ds2] true (startVdiv u strict dd ds1 ds2 given))

/-- VABS (05 R150). -/
def execVabs (u : Sett) (h : Hdr) (strict : Bool) (dd ds1 : BitVec 14) (given : Bool) (s : State) : Result :=
  .next (s.issueCmd u 2 h (.vabs u h strict dd ds1 given) [dd, ds1] true (startVabs u strict dd ds1 given))

/-- VNEG (05 R150). -/
def execVneg (u : Sett) (h : Hdr) (strict : Bool) (dd ds1 : BitVec 14) (given : Bool) (s : State) : Result :=
  .next (s.issueCmd u 2 h (.vneg u h strict dd ds1 given) [dd, ds1] true (startVneg u strict dd ds1 given))

/-- VCPY (05 R150). -/
def execVcpy (u : Sett) (h : Hdr) (strict : Bool) (dd ds1 : BitVec 14) (given : Bool) (s : State) : Result :=
  .next (s.issueCmd u 2 h (.vcpy u h strict dd ds1 given) [dd, ds1] true (startVcpy u strict dd ds1 given))

/-- VRSUM (05 R150). -/
def execVrsum (u : Sett) (h : Hdr) (strict : Bool) (dd ds1 : BitVec 14) (given : Bool) (s : State) : Result :=
  .next (s.issueCmd u 2 h (.vrsum u h strict dd ds1 given) [dd, ds1] true (startVrsum u strict dd ds1 given))

/-- VRMAX (05 R150). -/
def execVrmax (u : Sett) (h : Hdr) (strict : Bool) (dd ds1 : BitVec 14) (given : Bool) (s : State) : Result :=
  .next (s.issueCmd u 2 h (.vrmax u h strict dd ds1 given) [dd, ds1] true (startVrmax u strict dd ds1 given))

/-- VRSSQ (05 R150). -/
def execVrssq (u : Sett) (h : Hdr) (strict : Bool) (dd ds1 : BitVec 14) (given : Bool) (s : State) : Result :=
  .next (s.issueCmd u 2 h (.vrssq u h strict dd ds1 given) [dd, ds1] true (startVrssq u strict dd ds1 given))

/-- VAMAX (05 R150). -/
def execVamax (u : Sett) (h : Hdr) (strict : Bool) (dd ds1 : BitVec 14) (given : Bool) (s : State) : Result :=
  .next (s.issueCmd u 2 h (.vamax u h strict dd ds1 given) [dd, ds1] true (startVamax u strict dd ds1 given))

/-- VSQRT (05 R150). -/
def execVsqrt (u : Sett) (h : Hdr) (strict : Bool) (dd ds1 : BitVec 14) (given : Bool) (s : State) : Result :=
  .next (s.issueCmd u 2 h (.vsqrt u h strict dd ds1 given) [dd, ds1] true (startVsqrt u strict dd ds1 given))

/-- VFN (10 R256). -/
def execVfn (u : Sett) (h : Hdr) (strict : Bool) (dd ds1 : BitVec 14) (tab : BitVec 6) (given : Bool) (s : State) : Result :=
  .next (s.issueCmd u 2 h (.vfn u h strict dd ds1 tab given) [dd, ds1] true (startVfn u strict dd ds1 tab given))

/-- VDFN (10 R256). -/
def execVdfn (u : Sett) (h : Hdr) (strict : Bool) (dd ds1 : BitVec 14) (tab : BitVec 6) (given : Bool) (s : State) : Result :=
  .next (s.issueCmd u 2 h (.vdfn u h strict dd ds1 tab given) [dd, ds1] true (startVdfn u strict dd ds1 tab given))

end Sys2Proof.Machine
end

