-- ==== Sys2Proof/Machine/Stash.lean ====
section
/-!
DEFINITION. The stash engine: entries, streams and codecs, staging, pools, placement, the recompute list (09 R228 to R247,
05 R152, R153).
-/
namespace Sys2Proof.Machine

/-- Bytes of a staging and recompute line, of a segment (09 R231, R237), of a chunk (09 R238). -/
def lineBytes : Nat := 4096
def chunkBytes : Nat := 65536

/-- One ZB block of 256 bytes (09 R232, Table 09-3). -/
def zbBlock (u : Nat) (bs : List Byte) : List Byte :=
  let b := bs ++ List.replicate (256 - bs.length) 0
  let units := chunks u b
  let nz := units.filter (fun x => x.any (· ≠ 0))
  let n := 256 / u
  if nz.isEmpty then [0x00]
  else if 1 + n / 8 + nz.length * u ≤ 256 then
    0x01 :: (chunks 8 (units.map (fun x => x.any (· ≠ 0)))).map (fun g =>
      BitVec.ofNat 8 ((g.zip (List.range 8)).foldl (fun v p => v + flagBit p.1 p.2) 0)) ++ nz.flatten
  else 0x02 :: b

/-- A segment as stored: SCODE and bytes (09 R232, R235). -/
def encodeSeg (raw : Bool) (u : Nat) (seg : List Byte) : Nat × List Byte :=
  let z := (chunks 256 seg).flatMap (zbBlock u)
  if raw || 4096 < z.length then (0, seg) else (1, z)

/-- The units of a bitmap block. -/
def zbUnits : List Bool → Nat → List Byte → List Byte
  | [], _, _ => []
  | true :: bs, u, src => src.take u ++ zbUnits bs u (src.drop u)
  | false :: bs, u, src => List.replicate u 0 ++ zbUnits bs u src

/-- Decode ZB blocks until `want` bytes are there; none on a reserved tag or a short stream. -/
def zbDecode : Nat → Nat → List Byte → Nat → Option (List Byte)
  | _, _, _, 0 => some []
  | 0, _, _, _ => none
  | f + 1, u, src, want =>
    match src with
    | [] => none
    | tag :: rest =>
      let n := 256 / u
      let k := min 256 want
      if tag = 0x00 then (zbDecode f u rest (want - k)).map (fun r => List.replicate k 0 ++ r)
      else if tag = 0x01 then
        let bits := (rest.take (n / 8)).flatMap (fun b => (List.range 8).map (fun i => bitOf b.toNat i))
        let body := rest.drop (n / 8)
        let used := (bits.filter id).length * u
        if rest.length < n / 8 + used then none
        else (zbDecode f u (body.drop used) (want - k)).map (fun r => (zbUnits bits u body).take k ++ r)
      else if tag = 0x02 then
        if rest.length < 256 then none
        else (zbDecode f u (rest.drop 256) (want - k)).map (fun r => (rest.take 256).take k ++ r)
      else none

/-- XOR of each entry with the one `stride` before it (09 R233). -/
def pdXor (stride : Nat) (l : List Nat) : List Nat :=
  l.take stride ++ (l.drop stride).zipWith (· ^^^ ·) l

/-- Undo `pdXor`, in increasing time: rows of `stride`. -/
def pdUndo (stride : Nat) (l : List Nat) : List Nat :=
  match chunks stride l with
  | [] => []
  | r :: rs => (rs.foldl (fun (acc : List (List Nat) × List Nat) r =>
      let x := r.zipWith (· ^^^ ·) acc.2
      (acc.1 ++ [x], x)) ([r], r)).1.flatten

/-- Codes packed at their element size, two LN4 codes to a byte (09 R230). -/
def packCodes (fmtc size : Nat) (l : List Nat) : List Byte :=
  if fmtc = 0 then (chunks 2 l).map (fun g => BitVec.ofNat 8 (g.getD 0 0 % 16 + 16 * (g.getD 1 0 % 16)))
  else l.flatMap (leBytes size)

/-- The codes of a packed run of `n` elements. -/
def unpackCodes (fmtc size n : Nat) (bs : List Byte) : List Nat :=
  if fmtc = 0 then (bs.flatMap (fun b => [b.toNat % 16, b.toNat / 16])).take n
  else ((chunks size bs).map leNat).take n

/-- Representative index of every block that meets the actual extents, dimension 0 fastest, along blocked dimension `bd`. -/
def blockIxs (ext : List Nat) (bd : Nat) : List (List Nat) :=
  (indices ((List.range 5).map (fun k => if k = bd then ceilDiv (ext.getD k 1) 32 else ext.getD k 1))).map (fun ix =>
    (List.range 5).map (fun k => if k = bd then 32 * ix.getD k 0 else ix.getD k 0))

/-- Product of the first `n` entries. -/
def prodTo (l : List Nat) (n : Nat) : Nat := (l.take n).foldl (· * ·) 1

/-- Bb: element and block-scale bytes of a source at its plan bounds (09 R237, 05 R152). -/
def Desc.stashBytes (d : Desc) : Nat :=
  let n := prodTo d.bounds 5
  let el := if d.fmtc = 0 then ceilDiv n 2 else n * d.esize
  let bs := prodTo ((List.range 5).map (fun k => d.bsDim k)) 5
  d.fmt.planes * (el + if d.isLn then bs else 0)

/-- Staging lines a source needs. -/
def Desc.stashLines (d : Desc) : Nat := ceilDiv d.stashBytes lineBytes

/-- SE_STAGE.SIZE and BASE. -/
def State.stageSize (s : State) (u : SettId) : Nat := s.fld (.se u) 0x10 8 0
def State.stageBase (s : State) (u : SettId) : Nat := s.fld (.se u) 0x10 25 16

/-- Lines held by started STASHes, and promised to queued ones that passed the gate (09 R237). -/
def State.stageUsed (s : State) (u : SettId) : Nat :=
  let t := s.sett u
  t.staged.foldl (fun n x => n + x.lines.length) 0 +
  (t.engine 3).queue.foldl (fun n q => match q.cmd with
    | .stash _ _ ds _ _ => if (t.desc ds).stashLines ≤ s.stageSize u then n + (t.desc ds).stashLines else n
    | _ => n) 0

/-- The gate of 05 R152; a source that could never pass issues at once (09 R237). -/
def State.stashGate (s : State) (u : SettId) (ds : BitVec 14) : Bool :=
  let n := ((s.sett u).desc ds).stashLines
  decide (s.stageSize u < n) || decide (s.stageUsed u + n ≤ s.stageSize u)

/-- HBM address of an entry's record, where the entry exists and its record lies in HBM (09 R228). -/
def State.seRec (s : State) (u : SettId) (e : Nat) : Option Nat :=
  let a := s.fld (.se u) 0x08 26 0 * 4096 + 128 * e
  if e < s.fld (.se u) 0x0C 16 0 && inHbm a 128 then some a else none

/-- Fields of an entry record (09 Table 09-1). -/
structure SRec where
  layer : Nat
  demok : Bool
  fb : Nat
  ckpt : Nat
  state : Nat
  tier : Nat
  codec : Nat
  sparse : Bool
  ndim : Nat
  fmt : Nat
  nchunk : Nat
  cs : Nat
  ext : List Nat
  elen : Nat
  slen : Nat
  enc : Nat
  rlidx : Nat
  chunk : List Nat
  deriving DecidableEq, Repr

/-- The record of 128 bytes of HBM. -/
def SRec.read (m : Mem) (a : Nat) : SRec :=
  let bs := m.load a 128
  let n (o k : Nat) : Nat := leNat ((bs.drop o).take k)
  { layer := n 0 2, demok := bitOf (n 2 1) 2, fb := n 2 1 % 4, ckpt := n 4 2, state := n 8 1 % 4, tier := bitsOf (n 9 1) 7 6,
    codec := bitsOf (n 9 1) 5 4, sparse := bitOf (n 9 1) 3, ndim := bitsOf (n 10 1) 6 4, fmt := n 10 1 % 16, nchunk := n 11 1,
    cs := n 12 4, ext := (List.range 5).map (fun i => n (16 + 4 * i) 4), elen := n 36 4, slen := n 40 4, enc := n 44 4,
    rlidx := n 48 2, chunk := (List.range 17).map (fun i => n (56 + 4 * i) 4) }

/-- Bytes 8 to 127, which the stash engine writes. -/
def SRec.tail (r : SRec) : List Byte :=
  leBytes 1 r.state ++ leBytes 1 (r.tier * 64 + r.codec * 16 + flagBit r.sparse 3) ++ leBytes 1 (r.ndim * 16 + r.fmt) ++
  leBytes 1 r.nchunk ++ leBytes 4 r.cs ++ r.ext.flatMap (leBytes 4) ++ leBytes 4 r.elen ++ leBytes 4 r.slen ++ leBytes 4 r.enc ++
  leBytes 2 r.rlidx ++ leBytes 6 0 ++ ((List.range 17).flatMap (fun i => leBytes 4 (r.chunk.getD i 0))) ++ leBytes 4 0

/-- Write the engine's bytes of a record. -/
def State.putRec (s : State) (a : Nat) (r : SRec) : State := s.putHbm (a + 8) r.tail

/-- Offset of the registers of pool p in the stash-pool block (09 Table 09-9). -/
def poolOff (p : Nat) : Nat := 0x100 + 0x20 * p

/-- First byte of a pool (09 R238). -/
def State.poolBase (s : State) (d : Fin 2) (p : Nat) : Nat := (s.reg (.spool d) (poolOff p)).toNat * chunkBytes

/-- HBM address of a pool's free bitmap. -/
def State.poolMap (s : State) (d : Fin 2) (p : Nat) : Nat := s.fld (.spool d) (poolOff p + 0x0C) 26 0 * 4096

/-- Set or clear bits of a bitmap in HBM. -/
def State.mapBits (s : State) (a : Nat) (v : Bool) (l : List Nat) : State :=
  l.foldl (fun s c =>
    let b := (s.hbm.read (a + c / 8)).toNat
    let w := if bitOf b (c % 8) = v then b else if v then b + 2 ^ (c % 8) else b - 2 ^ (c % 8)
    s.putHbm (a + c / 8) [BitVec.ofNat 8 w]) s

/-- The first `need` set bits of a bitmap from bit i, among `fuel` bits. -/
def freeBits (m : Mem) (a : Nat) : Nat → Nat → Nat → List Nat
  | 0, _, _ => []
  | _ + 1, _, 0 => []
  | f + 1, i, need + 1 =>
    if bitOf (m.read (a + i / 8)).toNat (i % 8) then i :: freeBits m a f (i + 1) need else freeBits m a f (i + 1) (need + 1)

/-- Return chunks to their pool (09 R239). -/
def State.poolReturn (s : State) (d : Fin 2) (p : Nat) (l : List Nat) : State :=
  let s1 := s.mapBits (s.poolMap d p) true l
  s1.setReg (.spool d) (poolOff p + 0x10) (s1.reg (.spool d) (poolOff p + 0x10) + BitVec.ofNat 32 l.length)

/-- Allocate the `n` lowest-numbered free chunks (09 R239). -/
def State.poolTake (s : State) (d : Fin 2) (p n : Nat) : List Nat × State :=
  let a := s.poolMap d p
  let l := freeBits s.hbm a (s.fld (.spool d) (poolOff p + 4) 23 0) 0 n
  let s1 := s.mapBits a false l
  let f := s1.reg (.spool d) (poolOff p + 0x10) - BitVec.ofNat 32 l.length
  let s2 := s1.setReg (.spool d) (poolOff p + 0x10) f
  (l, if f.toNat < (s2.reg (.spool d) (poolOff p + 0x14)).toNat then s2.setReg (.spool d) (poolOff p + 0x14) f else s2)

/-- Bytes per element unit of ZB (09 R232). -/
def zbUnit (fmtc : Nat) : Nat := if fmtc = 4 || fmtc = 5 then 2 else if fmtc = 6 || fmtc = 11 then 4 else 1

/-- The encoded segments of a stream (09 R231). -/
def Staged.segs (x : Staged) : List (Nat × List Byte) :=
  (chunks 4096 x.elem).map (encodeSeg (x.codec == 3) x.unit) ++ (chunks 4096 x.bsc).map (encodeSeg (x.codec == 3) 1)

/-- S, the segments of both sections. -/
def segCount (elen slen : Nat) : Nat := ceilDiv elen 4096 + ceilDiv slen 4096

/-- T, the bytes of the segment table (09 R231). -/
def tableBytes (raw : Bool) (n : Nat) : Nat := if raw then 4096 else roundUp (4 * n) 64

/-- The stored entry: table, padding, segments; a RAW segment starts at its own 4 KiB (09 R231; log entry 21). -/
def Staged.stored (x : Staged) : List Byte × Nat :=
  let segs := x.segs
  let raw := x.codec == 3
  let tb := tableBytes raw segs.length
  let tab := segs.flatMap (fun p => leBytes 4 (p.1 * 2 ^ 30 + p.2.length))
  let body := segs.map (fun p => if raw then p.2 ++ List.replicate (4096 - p.2.length) 0 else p.2)
  let used := segs.foldl (fun n p => n + p.2.length) 0
  ((tab ++ List.replicate (tb - tab.length) 0) ++ body.flatten, roundUp (tb + used) 64)

/-- Write stored bytes over the chunks of a pool, up to the first chunk that turns the write away (07 R178, R188). -/
def State.putChunks (s : State) (d : Fin 2) (p : Nat) : List Nat → List Byte → Status × State
  | _, [] => (Code.done, s)
  | [], _ :: _ => (Code.bounds, s)
  | c :: cs, bs =>
    match s.writeOr (some d) (s.poolBase d p + c * chunkBytes) (bs.take chunkBytes) with
    | (st, s1) => if st ≠ Code.done then (st, s1) else State.putChunks s1 d p cs (bs.drop chunkBytes)

/-- Read `n` stored bytes over the chunks of a pool. -/
def State.getChunks (s : State) (d : Fin 2) (p : Nat) : List Nat → Nat → Except Status (List Byte) × State
  | _, 0 => (.ok [], s)
  | [], _ + 1 => (.error Code.bounds, s)
  | c :: cs, n + 1 =>
    match s.readOr (some d) (s.poolBase d p + c * chunkBytes) (min (n + 1) chunkBytes) with
    | (.error e, s1) => (.error e, s1)
    | (.ok bs, s1) =>
      match State.getChunks s1 d p cs (n + 1 - chunkBytes) with
      | (.error e, s2) => (.error e, s2)
      | (.ok r, s2) => (.ok (bs ++ r), s2)

/-- Return the chunks of a PLACED record (09 R240 step 2, Table 09-4). -/
def State.releaseEntry (s : State) (u : SettId) (r : SRec) : State :=
  if r.state = 1 then s.poolReturn (dieIx u) r.tier (r.chunk.take r.nchunk) else s

/-- Address of the recompute list, and the record n of it (09 R242). -/
def State.rlBase (s : State) (u : SettId) : Nat := s.fld (.se u) 0x14 15 0 * 64
def State.rlRec (s : State) (u : SettId) (n : Nat) : Nat := s.rlBase u + 16 + 8 * n

/-- Is RLIDX of a record valid for entry e: below COUNT, and that list record names e (09 R242)? -/
def State.rlValid (s : State) (u : SettId) (e : Nat) (r : SRec) : Bool :=
  let t := s.sett u
  decide (r.rlidx < t.word (s.rlBase u)) && t.store.num (s.rlRec u r.rlidx) 2 == e && decide (s.rlRec u r.rlidx + 8 ≤ storeSize)

/-- The list record a fallback of e takes: RLIDX again, or a new one; none where the list cannot take e (09 R242). -/
def State.rlSlot (s : State) (u : SettId) (e : Nat) (r : SRec) : Option (Nat × Bool) :=
  let count := (s.sett u).word (s.rlBase u)
  if s.rlValid u e r then some (r.rlidx, false)
  else if count < s.fld (.se u) 0x14 31 16 && s.rlRec u count + 8 ≤ storeSize then some (count, true)
  else none

/-- Write the list record of a fallback (09 R242). -/
def State.rlWrite (s : State) (u : SettId) (e : Nat) (r : SRec) (slot : Nat × Bool) : State :=
  s.modSett u (fun t =>
    let t1 := t.putStore (s.rlRec u slot.1) (leBytes 2 e ++ leBytes 2 r.layer ++ leBytes 2 r.ckpt ++
      (if slot.2 then [0, 0] else [BitVec.ofNat 8 ((t.store.read (s.rlRec u slot.1 + 6)).toNat / 2 * 2),
        t.store.read (s.rlRec u slot.1 + 7)]))
    if slot.2 then t1.putStore (s.rlBase u) (leBytes 4 (slot.1 + 1)) else t1)

/-- Is the fallback of an entry usable (09 R229)? -/
def State.fallbackOk (s : State) (u : SettId) (e : Nat) (r : SRec) : Bool :=
  r.fb == 1 && r.ckpt != e && (match s.seRec u r.ckpt with
    | some a => (SRec.read s.hbm a).state == 1
    | none => false)

/-- The pool of step 3 (09 R240). -/
def State.poolPick (s : State) (d : Fin 2) (q : Nat) (fb : Bool) : Option Nat :=
  (List.range 3).find? (fun p =>
    Word.bit (s.reg (.spool d) (poolOff p + 0x18)) 31 &&
    decide (q + (if fb then s.fld (.spool d) (poolOff p + 8) 23 0 else 0) ≤ s.fld (.spool d) (poolOff p + 0x10) 23 0))

/-- A failing STASH: its entry is EMPTY (09 R240 step 5, R245). -/
def State.stashEmpty (s : State) (a : Nat) (r : SRec) : State := s.putRec a { r with state := 0, nchunk := 0 }

/-- The placement of a started STASH (09 R240): its status, the pool it went to (3 a fallback, 4 none), whether it replaced
an entry, and the state. A fault of its memory work returns every chunk it holds. -/
def State.placeStash (s : State) (u : SettId) (x : Staged) (flt : Option Status) : Status × Nat × Bool × State :=
  let d := dieIx u
  match s.seRec u x.entry with
  | none => (Code.bounds, 4, false, s)
  | some a =>
    if s.cfgBad (.spool d) then (Code.cfgParity, 4, false, s) else
    let r := SRec.read s.hbm a
    let again := r.state == 1 || r.state == 2
    let s1 := s.releaseEntry u r
    let n := segCount x.elem.length x.bsc.length
    let q := ceilDiv (tableBytes (x.codec == 3) n + 4096 * n) chunkBytes
    match s1.poolPick d q (r.fb == 1) with
    | some p =>
      let (l, s2) := s1.poolTake d p q
      let (bs, enc) := x.stored
      let fail (c : Status) (s : State) : Status × Nat × Bool × State := (c, 4, again, (s.poolReturn d p l).stashEmpty a r)
      match flt with
      | some c => fail c s2
      | none =>
        match s2.putChunks d p l bs with
        | (st, s3) =>
          if st ≠ Code.done then fail st s3 else
          let keep := max (ceilDiv enc chunkBytes) (ceilDiv bs.length chunkBytes)
          let s4 := s3.poolReturn d p (l.drop keep)
          let s5 := s4.putRec a { r with
            state := 1, tier := p, codec := x.codec, sparse := false, ndim := x.ndim, fmt := x.fmt,
            nchunk := min keep l.length, cs := x.cs, ext := x.ext, elen := x.elem.length, slen := x.bsc.length, enc := enc,
            chunk := l.take keep }
          let s6 := if s5.rlValid u x.entry r then
              s5.modSett u (fun t => t.putStore (s5.rlRec u r.rlidx + 6)
                [BitVec.ofNat 8 ((t.store.read (s5.rlRec u r.rlidx + 6)).toNat ||| 1)])
            else s5
          (if p = 0 then Code.done else Code.spilled, p, again, s6)
    | none =>
      match flt with
      | some c => (c, 4, again, s1.stashEmpty a r)
      | none =>
        match s1.rlSlot u x.entry r with
        | some slot =>
          if s1.fallbackOk u x.entry r then
            (Code.spilled, 3, again,
              (s1.rlWrite u x.entry r slot).putRec a { r with state := 2, nchunk := 0, rlidx := slot.1 })
          else (Code.stashFull, 4, again, s1.stashEmpty a r)
        | none => (Code.stashFull, 4, again, s1.stashEmpty a r)

/-- The element codes of a view in index order, plane p. -/
def View.codes (v : View) (m : Mem) (p : Nat) : List Nat := v.indices.map (fun ix => v.code m ix p)

/-- The block scales of a view in the order of 06 R165, plane p, as bytes. -/
def View.scales (v : View) (m : Mem) (p : Nat) : List Nat :=
  (blockIxs v.ext v.d.sbdim).map (fun ix => (m.read (v.bsAddr ix p)).toNat)

/-- Time stride of the elements and of the block scales of PD (09 R233). -/
def pdStrides (ext : List Nat) (ndim bd : Nat) : Nat × Nat :=
  (prodTo ext (ndim - 1),
   prodTo ((List.range 5).map (fun k => if k = bd then ceilDiv (ext.getD k 1) 32 else ext.getD k 1)) (ndim - 1))

/-- DEM: blocks of 32 along dimension 0 (09 R234). -/
def demBlocks (v : View) (m : Mem) (c : Num) : List (List Nat × LnBlock) :=
  (blockIxs v.ext 0).map (fun ix =>
    let row := (List.range (min 32 (v.ext.getD 0 1 - ix.headD 0))).map (fun i => (ix.headD 0 + i) :: ix.tail)
    (ix, encodeBlock false none (row.map (fun j => LnIn.ofNum (v.num m j) c))))

/-- The stream of a source under a codec, with the DEM indications SAT and NANINF (09 R230, R233, R234). -/
def stashStream (v : View) (m : Mem) (codec : Nat) (c : Num) : List Byte × List Byte × Bool × Bool :=
  let ps := List.range v.d.fmt.planes
  if codec = 2 then
    let bl := demBlocks v m c
    (bl.flatMap (fun p => p.2.codes.map (BitVec.ofNat 8)), bl.map (fun p => BitVec.ofNat 8 (twosOf 8 p.2.bs)),
     bl.any (fun p => p.2.sats.any id), v.indices.any (fun ix => !(v.num m ix).isFinite))
  else
    let (es, bs) := pdStrides v.ext v.d.ndim v.d.sbdim
    let el := ps.flatMap (fun p => packCodes v.d.fmtc v.d.esize
      (if codec = 1 then pdXor es (v.codes m p) else v.codes m p))
    let sc := if v.d.isLn then ps.flatMap (fun p =>
      (if codec = 1 then pdXor bs (v.scales m p) else v.scales m p).map (BitVec.ofNat 8)) else []
    (el, sc, false, false)

/-- The checks of a STASH at its start (09 R228 to R230, R233, R234, R237). -/
def stashCheck (s : State) (u : SettId) (d : Desc) (ext : List Nat) (entry codec : Nat) : Status :=
  let t := s.sett u
  let r := match s.seRec u entry with
    | some a => SRec.read s.hbm a
    | none => SRec.read [] 0
  firstFault
    [ checkDescs t [0] [(d, ext)],
      demand (codec != 2 || f32CoarseOk (d.coarse t)) Code.bounds,
      demand (s.seRec u entry).isSome Code.bounds,
      demand (decide (d.stashBytes ≤ s.stageSize u * lineBytes)) Code.bounds,
      demand (decide (s.stageBase u * lineBytes + s.stageSize u * lineBytes ≤ storeSize)) Code.bounds,
      demand (decide (r.fb < 2)) Code.bounds,
      demand (codec != 1 || (decide (2 ≤ d.ndim) && (!d.isLn || d.bdim != d.ndim - 1))) Code.planMismatch,
      demand (codec != 2 || (r.demok && (d.fmtc == 2 || d.fmtc == 3 || d.fmtc == 4 || d.fmtc == 5 || d.fmtc == 6))) Code.planMismatch ]

/-- The lines of the ring that a new STASH takes: the first free ones after the last line taken (09 R237; log entry 21). -/
def SettSt.stageTake (t : SettSt) (size n : Nat) : List Nat :=
  let used := t.staged.flatMap (·.lines)
  let start := (used.getLast?.map (· + 1)).getD 0
  (((List.range size).map (fun i => (start + i) % size)).filter (fun l => !used.contains l)).take n

/-- The source copied into its staging lines: how the copy lies in them is not stated, so their bytes become free values
(09 R237, log entry 1). -/
def State.fillStage (s : State) (u : SettId) (lines : List Nat) : State :=
  lines.foldl (fun s l =>
    { s.modSett u (fun t => t.putStore ((s.stageBase u + l) * lineBytes) (Config.freeBytes s.freeCtr lineBytes)) with
      freeCtr := s.freeCtr + 1 }) s

/-- The start of a STASH (09 R237). -/
def startStash (u : SettId) (ds : BitVec 14) (entry : BitVec 16) (codec : BitVec 2) (s : State) (q : QCmd) : Start :=
  let t := s.sett u
  let d := t.desc ds
  let ext := q.extOf 0
  if d.exceeds ext then .fault s Code.shapeOver
  else if d.empty ext then .zero s
  else
    let c := stashCheck s u d ext entry.toNat codec.toNat
    if c ≠ Code.done then .fault s c
    else
      let v := d.view t ext
      match s.consume u 3 v.reads with
      | (true, s1) => .freeze s1
      | (false, s1) =>
        let (el, sc, sat, nan) := stashStream v t.store codec.toNat (f32Num (d.coarse t))
        let x : Staged :=
          { entry := entry.toNat, lines := t.stageTake (s.stageSize u) d.stashLines, elem := el, bsc := sc,
            unit := if codec = 2 then 1 else zbUnit d.fmtc, codec := codec.toNat, fmt := d.fmtc, ndim := d.ndim,
            ext := v.ext.take 5, cs := d.coarse t, placed := false, pool := 4, again := false }
        let s2 := (s1.modSett u (fun t => { t with staged := t.staged ++ [x] })).fillStage u x.lines
        let s3 := (s2.orReg (.se u) 0x04 (BitVec.ofNat 32 (flagBit sat 1 + flagBit nan 0))).occur u q 4 sat
        .go s3 Code.done (ceilDiv d.stashBytes 64) 0 none true

/-- The entry a stash command names. -/
def entryOf : Instr → Option Nat
  | .stash _ _ _ e _ => some e.toNat
  | .unstash _ _ _ e => some e.toNat
  | .sfree _ _ e => some e.toNat
  | _ => none

/-- Does an earlier started command of the engine name the entry (09 R245)? -/
def SettSt.entryBusy (t : SettSt) (e : Nat) : Bool :=
  (t.engine 3).run.any (fun r => entryOf r.q.cmd == some e)

/-- One stored segment decoded to `want` bytes; what cannot be decoded is a free value (log entry 1). -/
def decodeSeg (stored : List Byte) (u : Nat) (w off want free : Nat) : List Byte :=
  let bs := (stored.drop off).take (w % 2 ^ 13)
  let r := if bitsOf w 31 30 = 0 then (if bs.length = want then some bs else none)
    else if bitsOf w 31 30 = 1 then zbDecode 17 u bs want else none
  match r with
  | some x => x
  | none => Config.freeBytes free want

/-- Offsets of the stored segments (09 R231, R246). -/
def segOffsets (spread : Bool) (t : Nat) : Nat → List Nat → List Nat
  | _, [] => []
  | j, w :: ws => (if spread then 4096 * (j + 1) else t) :: segOffsets spread (t + w % 2 ^ 13) (j + 1) ws

/-- Source lengths of the segments of a section. -/
def segWants (n : Nat) : List Nat := (List.range (ceilDiv n 4096)).map (fun j => min 4096 (n - 4096 * j))

/-- The two sections of a stored entry. -/
def decodeEntry (r : SRec) (stored : List Byte) (free : Nat) : List Byte × List Byte :=
  let n := segCount r.elen r.slen
  let words := (chunks 4 (stored.take (4 * n))).map leNat
  let raw := r.codec == 3
  let tb := if r.sparse || raw then 4096 else tableBytes false n
  let offs := segOffsets (raw || r.sparse) tb 0 words
  let ne := ceilDiv r.elen 4096
  let u := if r.codec = 2 then 1 else zbUnit r.fmt
  let segs := ((words.zip offs).zip ((segWants r.elen).map (fun w => (w, u)) ++ (segWants r.slen).map (fun w => (w, 1)))).zip
    (List.range n)
  let dec := segs.map (fun p => decodeSeg stored p.1.2.2 p.1.1.1 p.1.1.2 p.1.2.1 (free + p.2))
  ((dec.take ne).flatten, (dec.drop ne).flatten)

/-- Bytes of the stored entry that lie in its chunks: up to ENC, or the last line of a spread entry. -/
def SRec.span (r : SRec) : Nat :=
  if r.codec = 3 || r.sparse then max r.enc (4096 * (segCount r.elen r.slen + 1)) else r.enc

/-- Write the sections of a DEM entry, widened to the destination's format (09 R236, 02 R53, R54), and whether an element overflowed to
an infinity (02 R54). -/
def unDem (v : View) (t : SettSt) (c : Num) (el sc : List Byte) : SettSt × Bool :=
  let bl := blockIxs v.ext 0
  let width := fun (ix : List Nat) => min 32 (v.ext.getD 0 1 - ix.headD 0)
  let starts := (bl.foldl (fun (acc : List Nat × Nat) ix => (acc.1 ++ [acc.2], acc.2 + width ix)) ([], 0)).1
  ((bl.zip starts).zip sc).foldl (fun (acc : SettSt × Bool) p =>
    let t := acc.1
    let ix := p.1.1
    let bs := signedOf 8 p.2.toNat
    let codes := ((el.drop p.1.2).take (width ix)).map (·.toNat)
    let row := (List.range (width ix)).map (fun i => (ix.headD 0 + i) :: ix.tail)
    if v.d.isLn && v.d.sbdim = 0 then
      let t1 := v.putBlock t row [⟨bs, codes, []⟩]
      ((List.range (v.d.fmt.planes - 1)).foldl (fun t k =>
        v.setBs (row.foldl (fun t j => v.set t j (k + 1) 0) t) ix (k + 1) 0) t1, acc.2)
    else if v.d.isLn then (t, acc.2)
    else
      let es := (row.zip codes).map (fun jc => (jc.1, ln8Num jc.2 bs c, encodeElem v.d.fmt (ln8Num jc.2 bs c)))
      (es.foldl (fun t e => v.set t e.1 0 e.2.2.bits) t, acc.2 || es.any (fun e => e.2.2.naninf && e.2.1 != .nan))) (t, false)

/-- A DEM entry into a destination whose blocks do not run along dimension 0: decoded, then encoded with AUTO scales. -/
def unDemAcross (v : View) (t : SettSt) (c : Num) (el sc : List Byte) : SettSt :=
  let ext := v.ext.take 5
  let val (ix : List Nat) : Num :=
    let nb := ceilDiv (ext.getD 0 1) 32
    let row := flatIndex (ext.drop 1) ix.tail
    let i := ix.headD 0
    ln8Num ((el.getD (row * ext.getD 0 1 + i) 0).toNat) (signedOf 8 (sc.getD (row * nb + i / 32) 0).toNat) c
  let bd := v.d.sbdim
  (blockIxs v.ext bd).foldl (fun t ix =>
    let n := min 32 (ext.getD bd 1 - ix.getD bd 0)
    let row := (List.range n).map (fun i => ix.set bd (ix.getD bd 0 + i))
    v.putBlock t row (encodeLn v.d.fmt [] (row.map (fun j => LnIn.ofNum (val j) v.c)))) t

/-- Write the sections of an entry of any other codec. -/
def unPlain (v : View) (t : SettSt) (codec : Nat) (el sc : List Byte) : SettSt :=
  let (es, bs) := pdStrides v.ext v.d.ndim v.d.sbdim
  let ixs := v.indices
  let bl := blockIxs v.ext v.d.sbdim
  let plane := if v.d.fmtc = 0 then ceilDiv ixs.length 2 else ixs.length * v.d.esize
  (List.range v.d.fmt.planes).foldl (fun t p =>
    let cs := unpackCodes v.d.fmtc v.d.esize ixs.length ((el.drop (p * plane)).take plane)
    let cs1 := if codec = 1 then pdUndo es cs else cs
    let t1 := (ixs.zip cs1).foldl (fun t ic => v.set t ic.1 p ic.2) t
    if v.d.isLn then
      let ss := ((sc.drop (p * bl.length)).take bl.length).map (·.toNat)
      let ss1 := if codec = 1 then pdUndo bs ss else ss
      (bl.zip ss1).foldl (fun t ib => t.putSpace v.d.space (v.bsAddr ib.1 p) [BitVec.ofNat 8 ib.2]) t1
    else t1) t

/-- The checks of an UNSTASH that name the entry (09 R236, Table 09-4). -/
def unstashCheck (t : SettSt) (d : Desc) (ext : List Nat) (r : SRec) : Bool :=
  r.state == 1 && d.fmtc == r.fmt && d.ndim == r.ndim && ext.take 5 == r.ext && (d.csp || d.coarse t == r.cs)

/-- Write an entry into the destination of an UNSTASH (09 R236), and whether an element overflowed to an infinity. -/
def unstashInto (t : SettSt) (d : Desc) (ext : List Nat) (r : SRec) (el sc : List Byte) : SettSt × Bool :=
  let t1 := if d.csp then t.putStore d.cscale (leBytes 4 r.cs) else t
  let v := d.view t1 ext
  let c := f32Num r.cs
  let out := if r.codec = 2 then
      if d.isLn && d.sbdim != 0 then (unDemAcross v t1 c el sc, false) else unDem v t1 c el sc
    else (unPlain v t1 r.codec el sc, false)
  (out.1.wrote v.d.space v.spans, out.2)

/-- The memory work of an UNSTASH (09 R236): its status and the state. -/
def State.unstashWork (s : State) (u : SettId) (dd : BitVec 14) (entry : Nat) (ext : List Nat) : Status × State :=
  let t := s.sett u
  let d := t.desc dd
  match s.seRec u entry with
  | none => (Code.bounds, s)
  | some a =>
    let r := SRec.read s.hbm a
    if !unstashCheck t d ext r then (Code.bounds, s)
    else
      match s.getChunks (dieIx u) r.tier (r.chunk.take r.nchunk) (min r.span (r.nchunk * chunkBytes)) with
      | (.error c, s1) => (c, s1)
      | (.ok bs, s1) =>
        let (el, sc) := decodeEntry r bs s1.freeCtr
        let out := unstashInto (s1.sett u) d ext r el sc
        (Code.done, { (s1.modSett u (fun _ => out.1)).orReg (.se u) 0x04 (BitVec.ofNat 32 (flagBit out.2 0)) with
                      freeCtr := s1.freeCtr + segCount r.elen r.slen })

/-- The memory work of an SFREE (Table 09-4). -/
def State.sfreeWork (s : State) (u : SettId) (entry : Nat) : State :=
  match s.seRec u entry with
  | none => s
  | some a =>
    let r := SRec.read s.hbm a
    if r.state = 0 then s else (s.releaseEntry u r).putRec a { r with state := 0, nchunk := 0 }

/-- The start of an UNSTASH (09 R236, R245): its memory work waits for an earlier command on the entry. -/
def startUnstash (u : SettId) (dd : BitVec 14) (entry : BitVec 16) (s : State) (q : QCmd) : Start :=
  let t := s.sett u
  let d := t.desc dd
  let ext := q.extOf 0
  if d.exceeds ext then .fault s Code.shapeOver
  else if d.empty ext then .zero s
  else
    let dw : Desc := if d.csp then { d with csp := false, cscale := 0x3F800000 } else d
    let c := firstFault
      [ checkDescs t [0] [(dw, ext)],
        demand (!d.csp || (d.cscale % 4 == 0 && decide (d.cscale < storeSize))) Code.bounds,
        demand (s.seRec u entry.toNat).isSome Code.bounds ]
    if c ≠ Code.done then .fault s c
    else
      match s.consume u 3 (d.view t ext).oldReads with
      | (true, s1) => .freeze s1
      | (false, s0) =>
        if t.entryBusy entry.toNat then .go s0 Code.done 4 0 none true
        else
          match s0.unstashWork u dd entry.toNat ext with
          | (c, s1) => if c = Code.done then .go s1 Code.done 4 0 none false else .fault s1 c

/-- The start of an SFREE (09 R245). -/
def startSfree (u : SettId) (entry : BitVec 16) (s : State) (_q : QCmd) : Start :=
  if (s.seRec u entry.toNat).isNone then .fault s Code.bounds
  else if (s.sett u).entryBusy entry.toNat then .go s Code.done 2 0 none true
  else .go (s.sfreeWork u entry.toNat) Code.done 2 0 none false

/-- STASH (05 R152, 09 R237). -/
def execStash (u : Sett) (h : Hdr) (ds : BitVec 14) (entry : BitVec 16) (codec : BitVec 2) (s : State) : Result :=
  .next (s.issueCmd u 3 h (.stash u h ds entry codec) [ds] (s.stashGate u ds) (startStash u ds entry codec))

/-- UNSTASH (05 R153, 09 R236). -/
def execUnstash (u : Sett) (h : Hdr) (dd : BitVec 14) (entry : BitVec 16) (s : State) : Result :=
  .next (s.issueCmd u 3 h (.unstash u h dd entry) [dd] true (startUnstash u dd entry))

/-- SFREE (05 R153, 09 R245). -/
def execSfree (u : Sett) (h : Hdr) (entry : BitVec 16) (s : State) : Result :=
  .next (s.issueCmd u 3 h (.sfree u h entry) [] true (startSfree u entry))

/-- A fault of memory work (09 R245): BUS_ERR, HBM_UNCORR or PARITY_HARD; any other code stands for none. -/
def memFault (flt : Option (BitVec 8)) : Option Status :=
  match flt with
  | some c => if c = 0x22 || c = 0x23 || c = 0x20 then some c.toNat else none
  | none => none

/-- The oldest started STASH whose placement may be decided: no earlier command on its entry is still going (09 R240 step 1). -/
def placeable : List RCmd → List Nat → Option Nat
  | [], _ => none
  | r :: rs, seen =>
    match r.q.cmd with
    | .stash _ _ _ e _ =>
      if r.work && !seen.contains e.toNat then some seen.length else placeable rs (seen ++ [e.toNat])
    | c => placeable rs (seen ++ [(entryOf c).getD 65536])

/-- Has a started command a staged source: a STASH that neither its checks nor a zero extent ended at its start? -/
def RCmd.isStaged (r : RCmd) : Bool :=
  match r.q.cmd with
  | .stash _ _ _ _ _ => r.doneAt.isNone
  | _ => false

/-- Position of the k-th started command among the staged STASHes. -/
def stashRank (l : List RCmd) (k : Nat) : Nat := ((l.take k).filter RCmd.isStaged).length

/-- STASH_PLACEMENT (09 R240): a fallback or a fault frees the staging lines at once (09 R237). -/
def State.stashPlacement (s : State) (u : SettId) (flt : Option Status) : State :=
  let run := ((s.sett u).engine 3).run
  match placeable run [] with
  | none => s
  | some k =>
    let i := stashRank run k
    match (s.sett u).staged[i]? with
    | none => s
    | some x =>
      match s.placeStash u x flt with
      | (c, pool, again, s1) =>
        s1.modSett u (fun t =>
          SettSt.modEng { t with staged := t.staged.set i { x with placed := true, pool := pool, again := again,
                                                                   lines := if 3 ≤ pool then [] else x.lines } } 3 (fun g =>
            { g with run := g.run.modify k (fun r => { r with status := c, work := false }) }))

/-- STASH_PLACEMENT (09 R240). -/
def execStashPlacement (u : Sett) (flt : Option (BitVec 8)) (s : State) : Result :=
  .next (if (s.sett u).freeze = none then s.stashPlacement u (memFault flt) else s)

/-- The counters a STASH updates as it completes (09 R241, R243). -/
def State.stashCount (s : State) (u : SettId) (x : Staged) : State :=
  let s1 := if x.pool < 4 then s.bump (.se u) (0x20 + 4 * x.pool) 1 else s
  if x.again then s1.bump (.se u) 0x30 1 else s1

/-- The oldest stash command completes, in issue order (09 R245), `n` cycles after its start. -/
def State.stashComplete (s : State) (u : SettId) (n : Nat) : State :=
  match ((s.sett u).engine 3).run with
  | [] => s
  | r :: rest =>
    let withHead (s : State) (c : Status) : State :=
      (s.modSett u (fun t => t.modEng 3 (fun g => { g with run := { r with status := c, work := false } :: rest }))).finishHead u 3 n
    match r.q.cmd with
    | .stash _ _ _ _ _ =>
      if r.work then s
      else if !r.isStaged then s.finishHead u 3 n
      else
        match (s.sett u).staged with
        | [] => s.finishHead u 3 n
        | x :: xs => ((s.modSett u (fun t => { t with staged := xs })).stashCount u x).finishHead u 3 n
    | .unstash _ _ dd e =>
      if r.work && r.status < 0x10 then
        match s.unstashWork u dd e.toNat (r.q.extOf 0) with
        | (c, s1) => withHead s1 c
      else s.finishHead u 3 n
    | .sfree _ _ e => if r.work then withHead (s.sfreeWork u e.toNat) r.status else s.finishHead u 3 n
    | _ => s.finishHead u 3 n

/-- Does a pool lie wholly in its tier (09 R238)? -/
def State.poolInTier (s : State) (d : Fin 2) (p : Nat) : Bool :=
  let a := s.poolBase d p
  let z := a + s.fld (.spool d) (poolOff p + 4) 23 0 * chunkBytes
  if p = 0 then decide (z ≤ hbmSize)
  else if p = 1 then decide (burrowBase ≤ a) && decide (z ≤ 0x20000000000)
  else
    let (w, x) := winOf a
    let w3 := s.reg .enHost (rwinOff w + 12)
    decide (remoteBase ≤ a) && decide (z ≤ settBase) && Word.bit w3 31 &&
      decide (x + (z - a) ≤ (fieldOf w3 24 10 + 1) * 0x200000)

/-- A write of 1 to SE_POOL_CTL.INIT (09 R238). -/
def State.poolInit (s : State) (d : Fin 2) (p : Nat) : State :=
  let o := poolOff p
  let n := s.fld (.spool d) (o + 4) 23 0
  let map := s.poolMap d p
  if s.poolInTier d p && inHbm map (ceilDiv n 8) then
    let s1 := s.putHbm map (List.replicate (n / 8) 0xFF)
    let s2 := s1.mapBits map true ((List.range (n % 8)).map (fun i => n / 8 * 8 + i))
    let s3 := (s2.setReg (.spool d) (o + 0x10) (BitVec.ofNat 32 n)).setReg (.spool d) (o + 0x14) (BitVec.ofNat 32 n)
    (s3.putBit (.spool d) (o + 0x18) 3 false).putBit (.spool d) (o + 0x18) 1 true
  else (s.putBit (.spool d) (o + 0x18) 3 true).putBit (.spool d) (o + 0x18) 31 false

/-- A write of 1 to SE_POOL_CTL.MINCLR (09 R239). -/
def State.poolMinClr (s : State) (d : Fin 2) (p : Nat) : State :=
  s.setReg (.spool d) (poolOff p + 0x14) (s.reg (.spool d) (poolOff p + 0x10))

/-- SE_POOL_INIT (09 R238). -/
def execSePoolInit (d : Fin 2) (p : Fin 3) (s : State) : Result := .next (s.poolInit d p.val)

/-- MINCLR (09 R239). -/
def execMinclr (d : Fin 2) (p : Fin 3) (s : State) : Result := .next (s.poolMinClr d p.val)

/-- SE_POOL_INIT_DONE (09 R238): INIT_BUSY clears. -/
def execSePoolInitDone (d : Fin 2) (p : Fin 3) (s : State) : Result :=
  .next (s.putBit (.spool d) (poolOff p.val + 0x18) 1 false)

end Sys2Proof.Machine
end

