-- ==== Sys2Proof/Machine/Holt.lean ====
section
/-!
DEFINITION. Holts: command blocks and their checks, the sub-commands, and the completion step (08 R201 to R227, 09 R246).
A sub-command's work is one step, taken when it ends.
-/
namespace Sys2Proof.Machine

/-- The Holt that owns a line of HBM (07 R181). -/
def holtOf (line : Nat) : Nat := 16 * (line % 8) + line / 8 % 16

/-- The pieces of a range of HBM that lie in the channel of Holt h, in increasing address, cut at lines. -/
def holtPieces (h a n : Nat) : List (Nat × Nat) :=
  if n = 0 then [] else
  let l0 := a / 4096
  let l1 := (a + n - 1) / 4096
  let r := (h % 16 * 8 + h / 16) % 128
  let first := l0 + (r + 128 - l0 % 128) % 128
  if l1 < first then [] else
  (List.range ((l1 - first) / 128 + 1)).map (fun i =>
    let l := first + 128 * i
    let lo := max a (4096 * l)
    (lo, min (a + n) (4096 * l + 4096) - lo))

/-- The Holts whose channels hold a byte of a range (08 R202). -/
def holtsOf (a n : Nat) : List Nat :=
  if n = 0 then [] else
  let l0 := a / 4096
  (List.range (min 128 ((a + n - 1) / 4096 - l0 + 1))).map (fun i => holtOf (l0 + i))

/-- Little-endian field of a block. -/
def blk (b : List Byte) (o k : Nat) : Nat := leNat ((b.drop o).take k)

/-- Are bytes of a block zero? -/
def zeroAt (b : List Byte) (o k : Nat) : Bool := blk b o k == 0

/-- A narrow copy of a parameter group (08 Table 08-6). -/
structure Copy where
  en : Bool
  fmt : Nat
  bdim : Nat
  base : Nat
  bsa : Nat
  csa : Nat
  ok : Bool
  deriving DecidableEq, Repr

def Copy.parse (b : List Byte) : Copy :=
  { en := bitOf (blk b 0 1) 7, fmt := blk b 0 1 % 16, bdim := blk b 1 1, base := blk b 2 6, bsa := blk b 8 6, csa := blk b 16 6,
    ok := bitsOf (blk b 0 1) 6 4 == 0 && decide (blk b 0 1 % 16 < 4) && decide (blk b 1 1 < 2) && zeroAt b 14 2 && zeroAt b 22 2 }

/-- A parameter-group row (08 Table 08-4). -/
structure Group where
  g : Nat
  a1 : Nat
  a2 : Nat
  a3 : Nat
  a4 : Nat
  lr : Nat
  lam : Nat
  clip : Bool
  frozen : Bool
  t32 : Bool
  rows : Nat
  cols : Nat
  wb : Nat
  mb : Nat
  gb : Nat
  copies : List Copy
  resv : Bool
  deriving DecidableEq, Repr

/-- Row g of the table at `pgt`. -/
def Group.read (m : Mem) (pgt g : Nat) : Group :=
  let b := m.load (pgt + 128 * g) 128
  let f := blk b 24 1
  { g := g, a1 := blk b 0 4, a2 := blk b 4 4, a3 := blk b 8 4, a4 := blk b 12 4, lr := blk b 16 4, lam := blk b 20 4,
    clip := bitOf f 0, frozen := bitOf f 1, t32 := bitOf f 2, rows := blk b 28 4, cols := blk b 32 4, wb := blk b 36 6,
    mb := blk b 42 6, gb := blk b 48 6, copies := [Copy.parse ((b.drop 64).take 24), Copy.parse ((b.drop 88).take 24)],
    resv := bitsOf f 7 3 == 0 && zeroAt b 25 3 && zeroAt b 54 10 && zeroAt b 112 16 }

/-- Padded rows and columns (08 R211, R219). -/
def Group.rp (x : Group) : Nat := if x.t32 then roundUp x.rows 32 else 1
def Group.np (x : Group) : Nat := roundUp x.cols 32

/-- Elements of a group, and bytes of each of its arrays. -/
def Group.elems (x : Group) : Nat := x.rows * x.cols
def Group.bytes (x : Group) : Nat := if x.t32 then 4 * x.rp * x.np else 4 * x.cols

/-- Row and column of element k of an array (08 R211). -/
def Group.pos (x : Group) (k : Nat) : Nat × Nat :=
  if x.t32 then
    let tile := k / 1024
    let w := x.np / 32
    (tile / w * 32 + k % 1024 / 32, tile % w * 32 + k % 32)
  else (0, k)

/-- Is element k a padding element? -/
def Group.pad (x : Group) (k : Nat) : Bool :=
  let (r, c) := x.pos k
  decide (x.rows ≤ r) || decide (x.cols ≤ c)

/-- The named groups of a command, in increasing number. -/
def named (b : List Byte) : List Nat := (List.range 256).filter (fun g => bitOf (blk b 16 32) g)

def Copy.planes (c : Copy) : Nat := ((Fmt.ofCode c.fmt).getD .ln8).planes

/-- Bytes of one element plane and of one block-scale plane of a copy, and their distances (08 R219, 02 R51). -/
def Group.planeBytes (x : Group) (c : Copy) : Nat := let n := x.rp * x.np; if c.fmt = 0 then n / 2 else n
def Group.bsBytes (x : Group) (c : Copy) : Nat := if c.bdim = 0 then x.rp * (x.np / 32) else x.rp / 32 * x.np

/-- Ranges of HBM that a copy takes. -/
def Group.copyRanges (x : Group) (c : Copy) : List (Nat × Nat) :=
  (c.csa, 4) :: (List.range c.planes).flatMap (fun p =>
    [(c.base + p * roundUp (x.planeBytes c) 4096, x.planeBytes c), (c.bsa + p * roundUp (x.bsBytes c) 4096, x.bsBytes c)])

/-- Do two ranges share a byte? -/
def shareByte (p q : Nat × Nat) : Bool := decide (p.1 < q.1 + q.2) && decide (q.1 < p.1 + p.2)

/-- A finite FP32 pattern. -/
def finiteAll (l : List Nat) : Bool := l.all f32Finite

/-- The field checks of a row (08 R210, R211, Tables 08-4, 08-6). -/
def Group.fieldsOk (x : Group) : Bool :=
  finiteAll [x.a1, x.a2, x.a3, x.a4, x.lr, x.lam] && x.resv && x.copies.all (·.ok) &&
  (if x.t32 then decide (1 ≤ x.rows) && decide (x.rows ≤ 2 ^ 24) && decide (1 ≤ x.cols) && decide (x.cols ≤ 2 ^ 24)
   else x.rows == 1 && decide (1 ≤ x.cols) && x.copies.all (fun c => !c.en || c.bdim == 0))

/-- The enabled copies. -/
def Group.live (x : Group) : List Copy := x.copies.filter (·.en)

/-- The alignment checks of a row (08 R212, Table 08-6). -/
def Group.alignOk (x : Group) : Bool :=
  [x.wb, x.mb, x.gb].all (· % 4096 == 0) &&
  x.live.all (fun c => c.base % 64 == 0 && c.bsa % 256 == 0 && c.csa % 4 == 0)

/-- The arrays of a group. -/
def Group.arrays (x : Group) : List (Nat × Nat) := [(x.wb, x.bytes), (x.mb, x.bytes), (x.gb, x.bytes)]

/-- Range r shares no byte with any of a list. -/
def apart (r : Nat × Nat) (l : List (Nat × Nat)) : Bool := l.all (fun q => !shareByte r q)

/-- No two of a list share a byte. -/
def allApart : List (Nat × Nat) → Bool
  | [] => true
  | r :: rs => apart r rs && allApart rs

/-- The placement checks of the named groups (08 R212). -/
def groupsPlaced (l : List Group) : Bool :=
  l.all (fun x => x.wb % 0x80000 == x.mb % 0x80000 && x.wb % 0x80000 == x.gb % 0x80000 &&
    x.arrays.all (fun r => inHbm r.1 r.2) && x.live.all (fun c => (x.copyRanges c).all (fun r => inHbm r.1 r.2))) &&
  allApart (l.flatMap Group.arrays) &&
  l.all (fun x => x.live.all (fun c => (x.copyRanges c).all (fun r => apart r (l.flatMap Group.arrays))))

/-- The groups a NORM or UPDATE names. -/
def State.groups (s : State) (b : List Byte) : List Group := (named b).map (Group.read s.hbm (blk b 48 6))

/-- A box entry (08 Table 08-8). -/
structure Box where
  src : Nat
  es : Nat
  stride : Nat
  iw : Nat
  ih : Nat
  x0 : Int
  y0 : Int
  w : Nat
  h : Nat
  dst : Nat
  resv : Bool
  deriving DecidableEq, Repr

def Box.read (m : Mem) (a : Nat) : Box :=
  let b := m.load a 32
  { src := blk b 0 6, es := blk b 6 1, stride := blk b 8 4, iw := blk b 12 2, ih := blk b 14 2, x0 := signedOf 16 (blk b 16 2),
    y0 := signedOf 16 (blk b 18 2), w := blk b 20 2, h := blk b 22 2, dst := blk b 24 6,
    resv := zeroAt b 7 1 && zeroAt b 30 2 }

def Box.empty (x : Box) : Bool := x.w == 0 || x.h == 0

/-- Pixels of a box: destination, and the source where it lies in the image (08 R223). -/
def Box.pixels (x : Box) : List (Nat × Option Nat) :=
  (List.range x.h).flatMap (fun (y : Nat) => (List.range x.w).map (fun (i : Nat) =>
    let sx : Int := x.x0 + i
    let sy : Int := x.y0 + y
    (x.dst + (y * x.w + i) * x.es,
     if 0 ≤ sx ∧ sx < x.iw ∧ 0 ≤ sy ∧ sy < x.ih then some (x.src + sy.toNat * x.stride + sx.toNat * x.es) else none)))

/-- In-image source bytes of a box, row by row. -/
def Box.sources (x : Box) : List (Nat × Nat) := x.pixels.filterMap (fun p => p.2.map (fun a => (a, x.es)))

/-- The boxes of a BOXG. -/
def State.boxes (s : State) (b : List Byte) : List Box :=
  (List.range (blk b 12 4)).map (fun i => Box.read s.hbm (blk b 16 6 + 32 * i))

/-- The checks of the boxes (08 R223). -/
def boxesOk (l : List Box) : Bool :=
  let full := l.filter (fun x => !x.empty)
  let dst := full.map (fun x => (x.dst, x.w * x.h * x.es))
  let src := full.flatMap Box.sources
  l.all (fun x => x.resv && (x.es == 1 || x.es == 2 || x.es == 4) && x.stride % x.es == 0) &&
  dst.all (fun r => inHbm r.1 r.2) && src.all (fun r => inHbm r.1 r.2) && allApart dst && dst.all (fun d => apart d src)

/-- A range wholly in the Burrow, or wholly in one remote window it may use (08 R224, R225). -/
def State.farRange (s : State) (a n : Nat) (wr : Bool) : Bool :=
  (decide (burrowBase ≤ a) && decide (a + n ≤ 0x20000000000)) ||
  (decide (remoteBase ≤ a) && decide (a + n ≤ settBase) &&
    (n == 0 || ((s.place a wr).isSome && (s.place (a + n - 1) wr).isSome && (winOf a).1 == (winOf (a + n - 1)).1)))

/-- A range wholly in HBM or the Burrow. -/
def nearRange (a n : Nat) : Bool := inHbm a n || (decide (burrowBase ≤ a) && decide (a + n ≤ 0x20000000000))

/-- The pool of the entries that SCOMP works on: pool 0 of the issuing die (09 R238, R246). -/
def HIss.die : HIss → Fin 2
  | .sett u => dieIx u
  | .ep _ _ => 0
  | .mgmt => 0

/-- HBM address of stored byte o of an entry in pool 0 of a die. -/
def State.entryByte (s : State) (d : Fin 2) (r : SRec) (o : Nat) : Nat :=
  s.poolBase d 0 + r.chunk.getD (o / chunkBytes) 0 * chunkBytes + o % chunkBytes

/-- Bytes of the result area (08 R207). -/
def resultBytes (op : Nat) : Nat := if op = 1 then 1088 else 64

/-- An FP32 clip factor in range (08 R214). -/
def clipOk (w : Nat) : Bool :=
  let x := f32Num w
  !x.isNan && !(bitOf w 31 && !x.isZero) && x.le (f32Num 0x3F800000)

/-- The group state records that a command names keep their reserved bits 0, and one whose exponent an UPDATE uses for copies gives a
normal coarse scale (08 R207, Table 08-5; 02 R40). -/
def State.pgsOk (s : State) (update : Bool) (pgs : Nat) (l : List Group) : Bool :=
  l.all (fun x =>
    let a := pgs + 16 * x.g
    let f := s.hbm.num (a + 5) 1
    x.frozen || (f ≤ 1 && s.hbm.num (a + 6) 2 == 0 &&
      !(update && f == 1 && !x.live.isEmpty && decide (signedOf 8 (s.hbm.num (a + 4) 1) < -126))))

/-- Reserved operand bytes of each command (08 Table 08-2). -/
def reservedOk (op : Nat) (b : List Byte) : Bool :=
  zeroAt b 1 3 && zeroAt b 10 2 &&
  (if op = 1 ∨ op = 2 then zeroAt b 54 2 && zeroAt b 62 2
   else if op = 3 ∨ op = 5 then zeroAt b 22 2 && zeroAt b 38 2 && zeroAt b 48 16
   else if op = 4 then zeroAt b 22 2 && zeroAt b 30 2 && zeroAt b 40 24
   else if op = 6 then zeroAt b 22 10 && zeroAt b 40 24
   else if op = 7 then zeroAt b 22 42
   else if op = 8 ∨ op = 9 then zeroAt b 22 2 && zeroAt b 30 2 && zeroAt b 46 18
   else zeroAt b 22 42)

/-- The checks of a command after RESULT (08 R207): a status of 0x10 and above, DONE_ZERO_EXTENT, or DONE.  A command with an
empty primary range uses no address, so only its reserved bits and its PARAM come before (DEDUCED, log 26). -/
def State.holtCheck (s : State) (d : Fin 2) (b : List Byte) : Status :=
  let op := blk b 0 1
  let param := blk b 12 4
  if op = 0 || 10 < op || !reservedOk op b then Code.bounds
  else if op = 1 || op = 2 then
    let pgt := blk b 48 6
    let pgs := blk b 56 6
    if (op = 1 && param ≠ 0) || (op = 2 && !clipOk param) then Code.bounds
    else if blk b 16 32 = 0 then Code.zeroExtent
    else if pgt % 4096 ≠ 0 || pgs % 4096 ≠ 0 then Code.align
    else if !inHbm pgt 0x8000 || !inHbm pgs 0x1000 then Code.bounds
    else
      let l := s.groups b
      if !l.all Group.fieldsOk then Code.bounds
      else if !l.all Group.alignOk then Code.align
      else if !groupsPlaced l || !s.pgsOk (op = 2) pgs l then Code.bounds
      else if l.all (·.frozen) then Code.frozenSkip
      else Code.done
  else if op = 3 || op = 5 then
    let a := blk b 16 6
    let st := blk b 24 8
    let dst := blk b 32 6
    let n := blk b 40 8
    let slots := (List.range param).map (fun k => (a + k * st, 4 * n))
    if param = 0 || 64 < param then Code.bounds
    else if n = 0 then Code.zeroExtent
    else if a % 4096 ≠ 0 || dst % 4096 ≠ 0 || a % 0x80000 ≠ dst % 0x80000 then Code.align
    else if st % 0x80000 ≠ 0 || st < 4 * n then Code.bounds
    else if !slots.all (fun r => inHbm r.1 r.2) || !inHbm dst (4 * n) then Code.bounds
    else if !apart (dst, 4 * n) (if op = 3 && dst = a then slots.tail else slots) then Code.bounds
    else Code.done
  else if op = 4 then
    let a := blk b 16 6
    let dst := blk b 24 6
    let n := blk b 32 8
    if param ≠ 0 then Code.bounds
    else if n = 0 then Code.zeroExtent
    else if a % 64 ≠ 0 || dst % 64 ≠ 0 || n % 64 ≠ 0 then Code.align
    else if !inHbm a n || !inHbm dst n then Code.bounds
    else if shareByte (a, n) (dst, n) then Code.bounds
    else Code.done
  else if op = 6 then
    let dst := blk b 16 6
    let n := blk b 32 8
    if n = 0 then Code.zeroExtent
    else if dst % 64 ≠ 0 || n % 64 ≠ 0 then Code.align
    else if !inHbm dst n then Code.bounds
    else Code.done
  else if op = 7 then
    let a := blk b 16 6
    if 65535 < param then Code.bounds
    else if param = 0 then Code.zeroExtent
    else if a % 32 ≠ 0 then Code.align
    else if !inHbm a (32 * param) then Code.bounds
    else if boxesOk (s.boxes b) then Code.done else Code.bounds
  else if op = 8 || op = 9 then
    let x := blk b 16 6
    let y := blk b 24 6
    let n := blk b 32 8
    let chk := blk b 40 6
    if param ≠ 0 then Code.bounds
    else if n = 0 then Code.zeroExtent
    else if x % 4096 ≠ 0 || y % 4096 ≠ 0 || chk % 4 ≠ 0 then Code.align
    else if !inHbm x (4096 * n) || !s.farRange y (4096 * n) (op = 8) || !nearRange chk (4 * n) then Code.bounds
    else Code.done
  else
    let a := blk b 16 6
    if param ≠ 0 then Code.bounds
    else if a % 128 ≠ 0 then Code.align
    else if !inHbm a 128 then Code.bounds
    else
      let r := SRec.read s.hbm a
      let n := segCount r.elen r.slen
      if r.state = 1 && r.tier = 0 && r.codec = 3 && !r.sparse &&
          (List.range n).all (fun j => inHbm (s.entryByte d r (4096 * (j + 1))) 4096) then Code.done
      else Code.bounds

/-- The primary ranges of a command (08 Table 08-2). -/
def State.primary (s : State) (d : Fin 2) (b : List Byte) : List (Nat × Nat) :=
  let op := blk b 0 1
  if op = 1 then ((s.groups b).filter (fun x => !x.frozen)).map (fun x => (x.gb, x.bytes))
  else if op = 2 then ((s.groups b).filter (fun x => !x.frozen)).flatMap Group.arrays
  else if op = 3 || op = 5 then
    (blk b 32 6, 4 * blk b 40 8) :: (List.range (blk b 12 4)).map (fun k => (blk b 16 6 + k * blk b 24 8, 4 * blk b 40 8))
  else if op = 4 then [(blk b 16 6, blk b 32 8)]
  else if op = 6 then [(blk b 16 6, blk b 32 8)]
  else if op = 7 then
    ((s.boxes b).filter (fun x => !x.empty)).flatMap (fun x => (x.dst, x.w * x.h * x.es) :: x.sources)
  else if op = 8 || op = 9 then [(blk b 16 6, 4096 * blk b 32 8)]
  else
    let r := SRec.read s.hbm (blk b 16 6)
    (List.range (ceilDiv r.span 4096)).map (fun j => (s.entryByte d r (4096 * j), min 4096 (r.span - 4096 * j)))

/-- A line of FP32 elements. -/
def State.floats (s : State) (a n : Nat) : List Nat := (chunks 4 (s.hbm.load a (4 * n))).map leNat

/-- The work of one Holt on one line of its channel: what it leaves, and the state. -/
abbrev LineWork := State → HSub → State × HSub

/-- NORM on the elements of one line of a gradient array (08 R213). -/
def normLine (x : Group) (a n : Nat) : LineWork := fun s r =>
  let vals := s.floats a (n / 4)
  let k0 := (a - x.gb) / 4
  let res := (vals.zip (List.range vals.length)).foldl (fun (acc : Nat × Nat × Nat) vi =>
    let pad := x.pad (k0 + vi.2)
    if f32Finite vi.1 then
      (f32Bits ((f32Num acc.1).add ((f32Num vi.1).mul (f32Num vi.1))), if pad then acc.2.1 else acc.2.1 + 1, acc.2.2)
    else (acc.1, acc.2.1, if pad then acc.2.2 else acc.2.2 + 1)) (Tbl.get r.sums x.g 0, 0, 0)
  (s, { r with sums := Tbl.put r.sums x.g res.1, a := r.a + res.2.1, c := r.c + res.2.2 })

/-- New momentum and weight of one element (08 R215). -/
def updateElem (x : Group) (cg g w m : Nat) : Nat × Nat :=
  let gp := f32Num (f32Bits ((f32Num cg).mul (f32Num g)))
  let mn := f32Num m
  let dir := ((f32Num x.a1).mul mn).add ((f32Num x.a2).mul gp)
  let u : Num := if dir.isZero then Num.zero else if dir.neg? then .fin true 1 0 else .fin false 1 0
  (f32Bits (((f32Num x.a3).mul mn).add ((f32Num x.a4).mul gp)),
   f32Bits ((f32Num w).sub ((f32Num x.lr).mul (u.add ((f32Num x.lam).mul (f32Num w))))))

/-- Addresses of plane p of element (r, col) of a copy, and of its block's scale (08 R219). -/
def Group.codeAt (x : Group) (c : Copy) (p r col : Nat) : Nat :=
  let e := r * x.np + col
  c.base + p * roundUp (x.planeBytes c) 4096 + if c.fmt = 0 then e / 2 else e
def Group.scaleAt (x : Group) (c : Copy) (p r col : Nat) : Nat :=
  c.bsa + p * roundUp (x.bsBytes c) 4096 + if c.bdim = 0 then r * (x.np / 32) + col / 32 else r / 32 * x.np + col

/-- Write a code of a copy. -/
def State.putCode (s : State) (x : Group) (c : Copy) (p r col code : Nat) : State :=
  let a := x.codeAt c p r col
  if c.fmt = 0 then
    let b := (s.hbm.read a).toNat
    s.putHbm a [BitVec.ofNat 8 (if (r * x.np + col) % 2 = 0 then b / 16 * 16 + code % 16 else b % 16 + 16 * (code % 16))]
  else s.putHbm a [BitVec.ofNat 8 code]

/-- Encode one block of a copy (08 R218, R219): the elements (row, column, value, counted). Elements not counted are padding, written as
zero codes. -/
def State.putCopyBlock (s : State) (x : Group) (c : Copy) (exp : Int) (els : List (Nat × Nat × Nat × Bool)) : State × Nat :=
  let f := (Fmt.ofCode c.fmt).getD .ln8
  let cs : Num := .fin false 1 exp
  let bl := encodeLn f [] (els.map (fun e => LnIn.ofNum (f32Num e.2.2.1) cs))
  let s1 := (bl.zip (List.range bl.length)).foldl (fun s bp =>
    let s1 := (els.zip bp.1.codes).foldl (fun s ec =>
      s.putCode x c bp.2 ec.1.1 ec.1.2.1 (if ec.1.2.2.2 then ec.2 else 0)) s
    match els.head? with
    | none => s1
    | some e => s1.putHbm (x.scaleAt c bp.2 e.1 e.2.1) [BitVec.ofNat 8 (twosOf 8 bp.1.bs)]) s
  let sat := (List.range els.length).filter (fun i =>
    (els.getD i (0, 0, 0, false)).2.2.2 && bl.any (fun b => b.sats.getD i false))
  (s1, sat.length)

/-- The blocks of the elements of one line: runs of 32 columns, or of 32 rows of a tile (08 R218). -/
def lineBlocks (c : Copy) (els : List (Nat × Nat × Nat × Bool)) : List (List (Nat × Nat × Nat × Bool)) :=
  if c.bdim = 0 then chunks 32 els
  else (List.range 32).map (fun k => (chunks 32 els).filterMap (fun row => row[k]?))

/-- The exponent a group's copies use (08 R218). -/
def State.groupExp (s : State) (b : List Byte) (g : Nat) : Int :=
  let a := blk b 56 6 + 16 * g
  if bitOf (s.hbm.num (a + 5) 1) 0 then signedOf 8 (s.hbm.num (a + 4) 1) else 0

/-- UPDATE on one line of a group's arrays, `a` its address in the weight array (08 R215, R218). -/
def updateLine (b : List Byte) (x : Group) (a n : Nat) : LineWork := fun s r =>
  let o := a - x.wb
  let cg := if x.clip then blk b 12 4 else 0x3F800000
  let k0 := o / 4
  let trip := (List.range (n / 4)).map (fun i =>
    (k0 + i, s.hbm.num (x.gb + o + 4 * i) 4, s.hbm.num (x.wb + o + 4 * i) 4, s.hbm.num (x.mb + o + 4 * i) 4))
  let fin (e : Nat × Nat × Nat × Nat) : Bool := f32Finite e.2.1 && f32Finite e.2.2.1 && f32Finite e.2.2.2
  let out := trip.map (fun e => if fin e then (updateElem x cg e.2.1 e.2.2.1 e.2.2.2) else (e.2.2.2, e.2.2.1))
  let s1 := (s.putHbm (x.wb + o) (out.flatMap (fun p => leBytes 4 p.2))).putHbm (x.mb + o) (out.flatMap (fun p => leBytes 4 p.1))
  let cnt (p : Nat × Nat × Nat × Nat → Bool) : Nat := (trip.filter (fun e => p e && !x.pad e.1)).length
  let els := (trip.zip out).map (fun eo =>
    let (row, col) := x.pos eo.1.1
    (row, col, if x.pad eo.1.1 then 0 else eo.2.2, !x.pad eo.1.1))
  let tail := (List.range ((32 - els.length % 32) % 32)).map (fun i => (0, k0 + els.length + i, 0, false))
  let exp := s.groupExp b x.g
  let (s2, sat) := x.live.foldl (fun (acc : State × Nat) c =>
    (lineBlocks c (els ++ tail)).foldl (fun acc blk =>
      let (s, k) := acc.1.putCopyBlock x c exp blk
      (s, acc.2 + k)) acc) (s1, 0)
  let big := (out.map (·.2)).foldl (fun m w =>
    if f32Finite w && !(f32Num w).abs.le (f32Num m) then f32Bits (f32Num w).abs else m) (Tbl.get r.amax x.g 0)
  (s2, { r with a := r.a + cnt fin, c := r.c + cnt (fun e => !fin e), amax := Tbl.put r.amax x.g big,
                nonfin := Tbl.put r.nonfin x.g (Tbl.get r.nonfin x.g 0 + cnt (fun e => !fin e)),
                nsat := Tbl.put r.nsat x.g (Tbl.get r.nsat x.g 0 + sat) })

/-- GRADSUM and REDUCE on one line of DST (08 R221). -/
def sumLine (b : List Byte) (keep : Bool) (a n : Nat) : LineWork := fun s r =>
  let o := a - blk b 32 6
  let slot (k : Nat) : List Nat := s.floats (blk b 16 6 + k * blk b 24 8 + o) (n / 4)
  let add (x y : List Nat) : List Nat := x.zipWith (fun p q => f32Bits ((f32Num p).add (f32Num q))) y
  let ks := List.range (blk b 12 4)
  let acc := if keep then ks.foldl (fun v k => add v (slot k)) (s.floats a (n / 4))
    else ks.tail.foldl (fun v k => add v (slot k)) (slot 0)
  (s.putHbm a (acc.flatMap (leBytes 4)), { r with a := r.a + n / 4 })

/-- COPY of one piece (08 R222). -/
def copyLine (b : List Byte) (a n : Nat) : LineWork := fun s r =>
  (s.putHbm (blk b 24 6 + (a - blk b 16 6)) (s.hbm.load a n), { r with a := r.a + n })

/-- FILL of one piece (08 R222). -/
def fillLine (b : List Byte) (a n : Nat) : LineWork := fun s r =>
  (s.putHbm a ((List.range (n / 4)).flatMap (fun _ => leBytes 4 (blk b 12 4))), { r with a := r.a + n })

/-- The bytes of one pixel that Holt h copies or zeroes (08 R223). -/
def pixelBytes (h es : Nat) (p : Nat × Option Nat) : List Nat :=
  (List.range es).filter (fun k => holtOf ((p.2.getD p.1 + k) / 4096) == h)

/-- One pixel of a box (08 R223). -/
def pixelWork (h es : Nat) (p : Nat × Option Nat) : LineWork := fun s r =>
  (pixelBytes h es p).foldl (fun (acc : State × HSub) k =>
    match p.2 with
    | some a => (acc.1.putHbm (p.1 + k) (acc.1.hbm.load (a + k) 1), acc.2)
    | none => (acc.1.putHbm (p.1 + k) [0], { acc.2 with b := acc.2.b + 1 })) (s, r)

/-- Addresses that line `a` of a checkpoint command reaches at its far side: the line, and its check word (08 R224, R225). -/
def farLine (b : List Byte) (a : Nat) : Nat := blk b 24 6 + (a - blk b 16 6)
def chkWord (b : List Byte) (a : Nat) : Nat := blk b 40 6 + 4 * ((a - blk b 16 6) / 4096)

/-- The lesser of two failures. -/
def leastFail (x y : Option (Nat × Nat)) : Option (Nat × Nat) :=
  match x, y with
  | some p, some q => if p.1 ≤ q.1 then some p else some q
  | some p, none => some p
  | none, q => q

/-- CKOUT of one line (08 R224): a remote line counts, and its check word is written, when it is acknowledged (07 R188). -/
def ckoutLine (id h : Nat) (b : List Byte) (a : Nat) : LineWork := fun s r =>
  let bs := s.hbm.load a 4096
  match s.place (farLine b a) true with
  | none => (s, { r with fail := some (a, Code.bounds) })
  | some (.remote q va k) =>
    if (s.qp q).st ≠ 3 then (s, { r with fail := some (a, Code.busErr) })
    else (s.remoteGo ⟨q, true, .holt id h a false, farLine b a, 4096, none, bs, none⟩ (.remote q va k), r)
  | some l => (((s.poke l bs).writeMod none (chkWord b a) (leBytes 4 (crc32 bs))).2, { r with a := r.a + 1 })

/-- A line of a CKIN that failed (08 R225). -/
def HSub.badLine (r : HSub) (a : Nat) : HSub :=
  { r with a := r.a + 1, c := r.c + 1, bad := some (match r.bad with
    | some z => min z a
    | none => a) }

/-- The check word of a line. -/
def State.chkOf (s : State) (b : List Byte) (a : Nat) : Nat :=
  leNat (((s.readMod none (chkWord b a) 4).1).getD [])

/-- CKIN of one line (08 R225): `lost` where its source access completes with BUS_ERR, `spoilt` where the bytes of its first fetch
differed from what the source holds. A remote line goes on when its data arrive. -/
def ckinLine (id h : Nat) (b : List Byte) (lost spoilt : Bool) (a : Nat) : LineWork := fun s r =>
  match s.place (farLine b a) false with
  | none => (s, { r with fail := some (a, Code.bounds) })
  | some (.remote q va k) =>
    if (s.qp q).st ≠ 3 then (s, r.badLine a)
    else (s.remoteGo ⟨q, false, .holt id h a false, farLine b a, 4096, none, [], none⟩ (.remote q va k), r)
  | some l =>
    if lost then (s, r.badLine a)
    else
      let bs := s.peek l 4096
      let s1 := s.putHbm a bs
      if crc32 bs ≠ s.chkOf b a then (s1, { r.badLine a with b := r.b + 1 })
      else (s1, { r with a := r.a + 1, b := if spoilt then r.b + 1 else r.b })

/-- SCOMP of segment j (09 R246). -/
def scompSeg (b : List Byte) (d : Fin 2) (j : Nat) : LineWork := fun s r =>
  let rec0 := SRec.read s.hbm (blk b 16 6)
  let ne := ceilDiv rec0.elen 4096
  let want := if j < ne then min 4096 (rec0.elen - 4096 * j) else min 4096 (rec0.slen - 4096 * (j - ne))
  let a := s.entryByte d rec0 (4096 * (j + 1))
  let (code, out) := encodeSeg false (if j < ne then zbUnit rec0.fmt else 1) (s.hbm.load a want)
  if code = 1 && out.length < want then
    ((s.putHbm a out).putHbm (s.entryByte d rec0 (4 * j)) (leBytes 4 (2 ^ 30 + out.length)), { r with a := r.a + 1, b := r.b + 1 })
  else (s, { r with a := r.a + 1 })

/-- One line of a sub-command's work (08 R205, R213): what it does, and, of an address in DRAM bursts of 64 bytes at which it fails, the
address of a primary range that the failure is known by (08 R226). -/
structure HItem where
  name : Nat → Option Nat
  run : LineWork
  /-- BOXG: its box. -/
  box : Nat := 0

/-- An address in the bursts of a range, brought into the range. -/
def hitAt (x n a : Nat) : Option Nat :=
  if 0 < n && x / 64 ≤ a / 64 && a / 64 ≤ (x + n - 1) / 64 then some (max x (min a (x + n - 1))) else none

/-- An address in the bursts of a range, by the address at the same distance from p. -/
def hitFor (p x n a : Nat) : Option Nat := (hitAt x n a).map (fun v => p + (v - x))

/-- Does an address lie in the bursts that the copies of `n` bytes of weights at `a` are written to (08 R219)? -/
def Group.copyHit (x : Group) (a n f : Nat) : Bool :=
  (List.range (n / 4)).any (fun i =>
    let (r, c) := x.pos ((a - x.wb) / 4 + i)
    x.live.any (fun k => (List.range k.planes).any (fun p =>
      (hitAt (x.codeAt k p r c) 1 f).isSome || (hitAt (x.scaleAt k p r c) 1 f).isSome)))

/-- The line of an UPDATE whose weights are at `a` (08 R215): its copies are forwarded writes of the weights. -/
def updateItem (b : List Byte) (x : Group) (a n : Nat) : HItem :=
  let o := a - x.wb
  ⟨fun f => ((hitAt a n f).orElse (fun _ => (hitAt (x.mb + o) n f).orElse (fun _ => hitAt (x.gb + o) n f))).orElse (fun _ =>
      if x.copyHit a n f then some a else none), updateLine b x a n, 0⟩

/-- The line of a GRADSUM or REDUCE whose destination is at `a` (08 R221). -/
def sumItem (b : List Byte) (a n : Nat) : HItem :=
  let o := a - blk b 32 6
  ⟨fun f => (hitAt a n f).orElse (fun _ => (List.range (blk b 12 4)).findSome? (fun k => hitAt (blk b 16 6 + k * blk b 24 8 + o) n f)),
   sumLine b (blk b 0 1 = 5) a n, 0⟩

/-- The pixels of box number i in which Holt h has a part (08 R223). -/
def boxItems (h i : Nat) (x : Box) : List HItem :=
  (x.pixels.filter (fun p => !(pixelBytes h x.es p).isEmpty)).map (fun p =>
    ⟨fun f => (p.2.bind (fun a => hitAt a x.es f)).orElse (fun _ => hitAt p.1 x.es f), pixelWork h x.es p, i⟩)

/-- A line of a checkpoint command, known by its HBM address wherever it fails (08 R224, R225). A BUS_ERR at the source of a CKIN fails
the line and stops nothing. -/
def ckItem (id h : Nat) (b : List Byte) (fs : List HFlt) (spoilt : List Nat) (a : Nat) : HItem :=
  let far (f : Nat) : Bool := (hitAt (farLine b a) 4096 f).isSome || (hitAt (chkWord b a) 4 f).isSome
  if blk b 0 1 = 8 then ⟨fun f => (hitAt a 4096 f).orElse (fun _ => if far f then some a else none), ckoutLine id h b a, 0⟩
  else
    let lost := fs.any (fun f => f.status == Code.busErr && far f.addr)
    ⟨fun f => (hitAt a 4096 f).orElse (fun _ => if far f && !lost then some a else none),
     ckinLine id h b lost (spoilt.any (fun z => z / 4096 == a / 4096)) a, 0⟩

/-- The work of Holt h in order, on command `id` with block b (08 R205, R213). -/
def State.holtWork (s : State) (d : Fin 2) (id : Nat) (b : List Byte) (fs : List HFlt) (spoilt : List Nat) (h : Nat) : List HItem :=
  let op := blk b 0 1
  let groups := (s.groups b).filter (fun x => !x.frozen)
  if op = 1 then groups.flatMap (fun x => (holtPieces h x.gb x.bytes).map (fun p => ⟨hitAt p.1 p.2, normLine x p.1 p.2, 0⟩))
  else if op = 2 then groups.flatMap (fun x => (holtPieces h x.wb x.bytes).map (fun p => updateItem b x p.1 p.2))
  else if op = 3 || op = 5 then (holtPieces h (blk b 32 6) (4 * blk b 40 8)).map (fun p => sumItem b p.1 p.2)
  else if op = 4 then (holtPieces h (blk b 16 6) (blk b 32 8)).map (fun p =>
    ⟨fun f => (hitAt p.1 p.2 f).orElse (fun _ => hitFor p.1 (blk b 24 6 + (p.1 - blk b 16 6)) p.2 f), copyLine b p.1 p.2, 0⟩)
  else if op = 6 then (holtPieces h (blk b 16 6) (blk b 32 8)).map (fun p => ⟨hitAt p.1 p.2, fillLine b p.1 p.2, 0⟩)
  else if op = 7 then
    let bs := s.boxes b
    ((bs.zip (List.range bs.length)).filter (fun x => !x.1.empty)).flatMap (fun x => boxItems h x.2 x.1)
  else if op = 8 || op = 9 then
    (holtPieces h (blk b 16 6) (4096 * blk b 32 8)).map (fun p => ckItem id h b fs spoilt p.1)
  else
    let r := SRec.read s.hbm (blk b 16 6)
    ((List.range (segCount r.elen r.slen)).filter (fun j => holtOf (s.entryByte d r (4096 * (j + 1)) / 4096) == h)).map (fun j =>
      ⟨fun f => (hitAt (s.entryByte d r (4096 * (j + 1))) 4096 f).orElse (fun _ => hitAt (s.entryByte d r (4 * j)) 4 f),
       scompSeg b d j, 0⟩)

/-- The failure that stops an item: of those that meet it, the one at the least address (08 R226). -/
def HItem.fault (i : HItem) (fs : List HFlt) : Option (Nat × HFlt) :=
  (fs.filterMap (fun f => (i.name f.addr).map (fun a => (a, f)))).foldl (fun m x =>
    match m with
    | some y => if y.1 ≤ x.1 then some y else some x
    | none => some x) none

/-- A sub-command's items in order, up to the first that fails (08 R226). -/
def runItems (fs : List HFlt) : List HItem → State → HSub → State × HSub
  | [], s, r => (s, r)
  | i :: is, s, r =>
    match i.fault fs with
    | some (a, f) =>
      let s1 := if f.status = Code.hbmUncorr && !f.counted && f.addr < hbmSize then
          s.bump (.ftD ⟨holtOf (f.addr / 4096) / 64 % 2, Nat.mod_lt _ (by decide)⟩) 0x110 1 else s
      (s1, { r with fail := some (a, f.status), inj := f.inj, undone := (i :: is).map (·.box) })
    | none =>
      let (s1, r1) := i.run s r
      if r1.fail.isSome then (s1, { r1 with undone := (i :: is).map (·.box) }) else runItems fs is s1 r1

/-- The sub-commands of a Holt command that the module itself issues over ranges (11 R298, 16 R389): each counts in its Thehan block, and
one whose block is halted ends with CFG_PARITY (17 Table 17-5). -/
def State.holtTally (s : State) (ranges : List (Nat × Nat)) : Status × State :=
  ((ranges.flatMap (fun r => holtsOf r.1 r.2)).eraseDups).foldl (fun (acc : Status × State) h =>
    let b : Blk := .ht ⟨h / 16 % 8, Nat.mod_lt _ (by decide)⟩
    if acc.2.cfgBad b then (Code.cfgParity, acc.2.bump b 0x0C 1) else (acc.1, acc.2.bump b 0x08 1)) (Code.done, s)

def HSub.start (h : Nat) : HSub := ⟨h, [], [], [], [], 0, 0, 0, none, none, false, []⟩

/-- Dispatch of a command: its checks, then a sub-command for each Holt it names; a full Holt queue leaves it at the pier
(08 R202, R207). -/
def State.holtIssue (s : State) (iss : HIss) (b : List Byte) : State :=
  let res := blk b 4 6
  let d := HIss.die iss
  let mk (names : List Nat) (early : Option Nat) (mute : Bool) : HCmd := ⟨s.hnext, iss, b, names, names, [], early, mute⟩
  let add (c : HCmd) : State := { s with hcmds := s.hcmds ++ [c], hnext := s.hnext + 1 }
  if res % 64 ≠ 0 then add (mk [] (some Code.align) true)
  else if !inHbm res (resultBytes (blk b 0 1)) then add (mk [] (some Code.bounds) true)
  else
    let c := s.holtCheck d b
    if c ≠ Code.done then add (mk [] (some c) false)
    else
      let names := ((s.primary d b).flatMap (fun r => holtsOf r.1 r.2)).eraseDups
      let s1 := add (mk names none false)
      names.foldl (fun s h =>
        match s.hq[h]? with
        | some q => if q.length < 33 then { s with hq := s.hq.set! h (q ++ [s1.hnext - 1]) }
          else { s with hwait := s.hwait ++ [(s1.hnext - 1, h)] }
        | none => s) s1

/-- The next sub-command waiting at the pier for a Holt enters its queue (08 R202). -/
def State.holtNext (s : State) (h : Nat) : State :=
  match s.hwait.find? (fun w => w.2 == h) with
  | none => s
  | some w => { s with hwait := s.hwait.erase w, hq := s.hq.set! h ((s.hq[h]?).getD [] ++ [w.1]) }

/-- The event record of a failing Holt (08 R226). -/
def State.holtFail (s : State) (h addr status : Nat) (inj : Bool) : State :=
  s.post { status := status, inj := inj, src := srcCode 2 (h / 64) (h % 64) 13, step := 0xFFFFFFFF, layer := 0,
           cycle := s.cycle, addr := addr, detail := [] }

/-- What Holt h leaves of command `id` is replaced. -/
def State.modSub (s : State) (id h : Nat) (f : HSub → HSub) : State :=
  { s with hcmds := s.hcmds.map (fun c =>
      if c.id = id then { c with subs := c.subs.map (fun r => if r.holt = h then f r else r) } else c) }

/-- The running sub-command of Holt h ends once no remote line of it is outstanding: it is counted, a fault is recorded, and the next
one enters the queue (08 R202, R226; 17 Table 17-5). -/
def State.holtClose (s : State) (id : Nat) (h : Fin 128) : State :=
  if s.roce.any (fun r => match r.who with
      | .holt i k _ _ => i == id && k == h.val
      | _ => false) then s
  else
    match (s.hcmds.find? (fun c => c.id == id)).bind (fun c => c.subs.find? (fun r => r.holt == h.val)) with
    | none => s
    | some r =>
      let s1 : State := { s with
        hcmds := s.hcmds.map (fun (x : HCmd) => if x.id = id then { x with left := x.left.erase h.val } else x),
        hq := s.hq.set h.val (s.hq[h.val]).tail, hflt := s.hflt.filter (fun f => f.holt != h.val) }
      let s2 := s1.bump (.ht ⟨h.val / 16, by omega⟩) (if r.fail.isSome then 0x0C else 0x08) 1
      let s3 := match r.fail with
        | some (a, st) => if st = Code.cfgParity then s2 else s2.holtFail h.val a st r.inj
        | none => s2
      s3.holtNext h.val

/-- The remote access of line `a` of a checkpoint command has ended (08 R224, R225): an acknowledged line of a CKOUT counts and has its
check word written, a failed one stops its sub-command; the bytes that arrive for a CKIN are written and checked, and fetched once more
where they differ. -/
def State.holtLine (s : State) (x : RAcc) (id h a : Nat) (again : Bool) (status : Status) (bs : List Byte) : State :=
  match s.hcmds.find? (fun c => c.id == id) with
  | none => s
  | some c =>
    let stop : State :=
      State.modSub { s with roce := s.roce.filter (fun r => match r.who with
          | .holt i k _ _ => !(i == id && k == h && r.sent.isNone)
          | _ => true) } id h (fun r => { r with fail := leastFail r.fail (some (a, status)) })
    let s1 : State :=
      if x.write then
        if status = Code.done then
          State.modSub (s.writeMod none (chkWord c.block a) (leBytes 4 (crc32 x.data))).2 id h (fun r => { r with a := r.a + 1 })
        else stop
      else if status = Code.busErr then s.modSub id h (fun r => r.badLine a)
      else if status ≠ Code.done then stop
      else
        let s1 := s.putHbm a bs
        if crc32 bs = s.chkOf c.block a then s1.modSub id h (fun r => { r with a := r.a + 1 })
        else if again then s1.modSub id h (fun r => r.badLine a)
        else
          let s2 := s1.modSub id h (fun r => { r with b := r.b + 1 })
          match s2.place x.pa false with
          | some (.remote q va k) =>
            if (s2.qp q).st ≠ 3 then s2.modSub id h (fun r => r.badLine a)
            else s2.remoteGo { x with qp := q, who := .holt id h a true, sent := none } (.remote q va k)
          | _ => s2.modSub id h (fun r => { r with fail := leastFail r.fail (some (a, Code.bounds)) })
    s1.holtClose id ⟨h % 128, Nat.mod_lt _ (by decide)⟩

/-- HOLT_SUB_COMMAND_END (08 R202, R226; 17 Table 17-5): the running sub-command of Holt h does its work, stopping at the first address
that fails, as `x` says or an access of it has met. It ends, unless remote lines of it are still to be acknowledged or to arrive. -/
def execHoltSubCommandEnd (h : Fin 128) (x : HoltEnd) (s : State) : Result :=
  .next (match s.hq[h.val] with
    | [] => s
    | id :: _ =>
      match s.hcmds.find? (fun c => c.id == id) with
      | none => s
      | some c =>
        if c.subs.any (fun r => r.holt == h.val) then s
        else
          let fs := s.hflt.filter (fun f => f.holt == h.val) ++ (match x.flt with
            | some (a, st) => if st = 0x22 || st = 0x23 || st = 0x20 then [⟨h.val, a.toNat, st.toNat, false, false⟩] else []
            | none => [])
          let work := s.holtWork (HIss.die c.iss) id c.block fs (x.spoilt.map (·.toNat)) h.val
          let (s1, r) :=
            if s.cfgBad (.ht ⟨h.val / 16, by omega⟩) then
              (s, { HSub.start h.val with
                fail := some ((((s.primary (HIss.die c.iss) c.block).flatMap (fun p => holtPieces h.val p.1 p.2)).foldl (fun m p =>
                  match m with
                  | some x => some (min x p.1)
                  | none => some p.1) none).getD 0, Code.cfgParity), undone := work.map (·.box) })
            else runItems fs work s (HSub.start h.val)
          let s2 : State := { s1 with hcmds := s1.hcmds.map (fun (x : HCmd) => if x.id = id then { x with subs := x.subs ++ [r] } else x) }
          s2.holtClose id h)

/-- The combined sum of NORM over Holts in order (08 R213). -/
def normSums (c : HCmd) (gs : List Nat) : List (Nat × Nat) × Nat :=
  let sg (g : Nat) : Nat := (List.range 128).foldl (fun acc h =>
    let p := match c.subs.find? (fun r => r.holt == h) with
      | some r => Tbl.get r.sums g 0
      | none => 0
    f32Bits ((f32Num acc).add (f32Num p))) 0
  let l := gs.map (fun g => (g, sg g))
  (l, l.foldl (fun s p => f32Bits ((f32Num s).add (f32Num p.2))) 0)

/-- Sum of a table entry over the sub-commands. -/
def HCmd.total (c : HCmd) (f : HSub → Nat) : Nat := c.subs.foldl (fun n r => n + f r) 0

/-- The failure at the least address (08 R226), the failed lines of a CKIN among them (R225). -/
def HCmd.failure (c : HCmd) : Option (Nat × Nat) :=
  (c.subs.flatMap (fun r => [r.fail, r.bad.map (fun a => (a, Code.busErr))])).foldl leastFail none

/-- The PGS record of an updated group, and the coarse words of its copies (08 R218 to R220). -/
def State.putPgs (s : State) (c : HCmd) (x : Group) : State :=
  let amax := c.subs.foldl (fun m r => if (f32Num (Tbl.get r.amax x.g 0)).le (f32Num m) then m else Tbl.get r.amax x.g 0) 0
  let exp : Int := if (f32Num amax).isZero then 0 else clampInt (-126) 127 (f32Num amax).ceilLog2
  let a := blk c.block 56 6 + 16 * x.g
  let cs := f32Pow2 (s.groupExp c.block x.g)
  let s1 := x.live.foldl (fun s k => s.putHbm k.csa (leBytes 4 cs)) s
  s1.putHbm a (leBytes 4 amax ++ leBytes 1 (twosOf 8 exp) ++ leBytes 1 (s.hbm.num (a + 5) 1 ||| 1) ++ (s.hbm.load (a + 6) 2) ++
    leBytes 4 (c.total (fun r => Tbl.get r.nonfin x.g 0)) ++ leBytes 4 (c.total (fun r => Tbl.get r.nsat x.g 0)))

/-- The result header and what follows it (08 Table 08-3, R213). -/
def resultHeader (status op nholt cycle a b c addr value : Nat) : List Byte :=
  leBytes 1 status ++ leBytes 1 op ++ leBytes 2 nholt ++ leBytes 4 0 ++ leBytes 8 cycle ++ leBytes 8 a ++ leBytes 8 b ++
  leBytes 8 c ++ leBytes 6 addr ++ leBytes 2 0 ++ leBytes 4 value ++ leBytes 12 0

/-- Elements of the frozen groups a command names. -/
def State.frozenElems (s : State) (b : List Byte) : Nat :=
  ((s.groups b).filter (·.frozen)).foldl (fun n x => n + x.elems) 0

/-- The end of SCOMP (09 R246): the record becomes ZB and sparse; its new ENC. -/
def State.scompEnd (s : State) (d : Fin 2) (b : List Byte) : Nat × State :=
  let a := blk b 16 6
  let r := SRec.read s.hbm a
  let n := segCount r.elen r.slen
  let enc := 4096 + (List.range n).foldl (fun t j => t + s.hbm.num (s.entryByte d r (4 * j)) 4 % 2 ^ 13) 0
  (enc, s.putRec a { r with codec := 0, sparse := true, enc := enc })

/-- The completion step of a command (08 R208): its status and the state with its result area written. -/
def State.holtResult (s : State) (c : HCmd) : Status × State :=
  let b := c.block
  let op := blk b 0 1
  let res := blk b 4 6
  let put (s : State) (status a bb cc addr value : Nat) (rest : List Byte) : Status × State :=
    (status, s.putHbm res (resultHeader status op c.names.length s.cycle a bb cc addr value ++ rest))
  let sgs (l : List (Nat × Nat)) : List Byte := (List.range 256).flatMap (fun g => leBytes 4 (Tbl.get l g 0))
  match c.early with
  | some st =>
    if c.mute then (st, s)
    else if st = Code.frozenSkip then put s st 0 (s.frozenElems b) 0 0 0 (if op = 1 then sgs [] else [])
    else put s st 0 0 0 0 0 []
  | none =>
    let groups := (s.groups b).filter (fun x => !x.frozen)
    let fl := c.failure
    let status := (fl.map (·.2)).getD Code.done
    let addr := (fl.map (·.1)).getD 0
    let a := c.total (·.a)
    if op = 1 then
      let (l, v) := normSums c (groups.map (·.g))
      put s status a (s.frozenElems b) (c.total (·.c)) addr v (sgs l)
    else if op = 2 then
      put (groups.foldl (fun s x => s.putPgs c x) s) status a (s.frozenElems b) (c.total (·.c)) addr 0 []
    else if op = 7 then
      let bs := s.boxes b
      let done (p : Box × Nat) : Bool := !p.1.empty && c.subs.all (fun r => !r.undone.contains p.2)
      put s status ((bs.zip (List.range bs.length)).filter done).length (c.total (·.b)) (bs.filter Box.empty).length addr 0 []
    else if op = 9 then put s status a (c.total (·.b)) (c.total (·.c)) addr 0 []
    else if op = 10 then
      if fl.isSome then put s status a (c.total (·.b)) 0 addr 0 []
      else
        let (enc, s1) := s.scompEnd (HIss.die c.iss) b
        put s1 status a (c.total (·.b)) enc 0 0 []
    else put s status a 0 0 addr 0 []

/-- The answer the management core sees: a value and a status. -/
def State.tellMgmt (s : State) (status : Status) : State := { s with rdata := s.rdata.set 2 (0, status) }

/-- Is a command's completion held by a freeze of the sett that issued it (04 R109)? -/
def State.holtHeld (s : State) (c : HCmd) : Bool :=
  match c.iss with
  | .sett u => (s.sett u).freeze.isSome
  | _ => false

/-- HOLT_COMPLETION_STEP (08 R208): for the oldest command whose sub-commands have all ended and whose issuer can take it. -/
def execHoltCompletionStep (s : State) : Result :=
  .next (match s.hcmds.find? (fun c => c.left.isEmpty && !s.holtHeld c) with
    | none => s
    | some c =>
      let (status, s1) := State.holtResult { s with hcmds := s.hcmds.filter (fun x => x.id != c.id) } c
      match c.iss with
      | .sett u =>
        (match ((s1.sett u).engine 9).run with
          | [] => s1
          | r :: rest => (s1.modSett u (fun t => t.modEng 9 (fun g => { g with run := rest }))).completeCmd u 9 r.q status)
      | .ep ep seq => s1.deferDone ep seq status (if c.mute then [] else s1.hbm.load (blk c.block 4 6) 64)
      | .mgmt => s1.tellMgmt status)

/-- A command block reaches the pier of its issuer: one of the Holt commands waits for its dispatch; any other OP, and a block
refused on RESULT, is checked and completed there (08 R207). -/
def State.holtArrive (s : State) (iss : HIss) (b : List Byte) : State :=
  let op := blk b 0 1
  if 1 ≤ op ∧ op ≤ 10 then { s with hin := s.hin ++ [(iss, b)] } else s.holtIssue iss b

/-- The start of an HCMD (05 R156): it reads its block from the sett store (08 R206). -/
def startHcmd (u : SettId) (dh : BitVec 14) (s : State) (_q : QCmd) : Start :=
  let t := s.sett u
  let a := dh.toNat * 64
  match s.consume u 9 [.store a 64] with
  | (true, s1) => .freeze s1
  | (false, s1) => .go (s1.holtArrive (.sett u) (t.store.load a 64)) Code.done 1 0 none true

/-- HCMD (05 R156). -/
def execHcmd (u : Sett) (h : Hdr) (dh : BitVec 14) (s : State) : Result :=
  .next (s.issueCmd u 9 h (.hcmd u h dh) [] true (startHcmd u dh))

/-- The pier dispatches the oldest waiting block of an OP (08 R202, Table 08-2). -/
def State.holtDispatch (s : State) (op : Nat) : State :=
  match s.hin.find? (fun p => blk p.2 0 1 == op) with
  | none => s
  | some p => State.holtIssue { s with hin := s.hin.erase p } p.1 p.2

/-- NORM (08 R213). -/
def execNorm (s : State) : Result := .next (s.holtDispatch 1)

/-- UPDATE (08 R215). -/
def execUpdate (s : State) : Result := .next (s.holtDispatch 2)

/-- GRADSUM (08 R221). -/
def execGradsum (s : State) : Result := .next (s.holtDispatch 3)

/-- COPY (08 R222). -/
def execCopy (s : State) : Result := .next (s.holtDispatch 4)

/-- REDUCE (08 R221). -/
def execReduce (s : State) : Result := .next (s.holtDispatch 5)

/-- FILL (08 R222). -/
def execFill (s : State) : Result := .next (s.holtDispatch 6)

/-- BOXG (08 R223). -/
def execBoxg (s : State) : Result := .next (s.holtDispatch 7)

/-- CKOUT (08 R224). -/
def execCkout (s : State) : Result := .next (s.holtDispatch 8)

/-- CKIN (08 R225). -/
def execCkin (s : State) : Result := .next (s.holtDispatch 9)

/-- SCOMP (09 R246). -/
def execScomp (s : State) : Result := .next (s.holtDispatch 10)

end Sys2Proof.Machine
end

