-- ==== Sys2Proof/Machine/Window.lean ====
section
/-!
DEFINITION. The command transport of a control endpoint: sequence window, epochs, responses, deferral (15 R355 to R364).
-/
namespace Sys2Proof.Machine

/-- Change an endpoint. -/
def State.modEp (s : State) (ep : Fin 2) (f : EpSt → EpSt) : State :=
  { s with eps := s.eps.set ep.val (f (s.eps[ep.val])) }

/-- LINK_UP of a port. -/
def State.linkUp (s : State) (p : Fin 2) : Bool := Word.bit (s.reg (portBlk p) 4) 0

/-- Does an endpoint answer requests: its port is up, EN_CTL.CT_EN is set and BRINGUP is over (15 Table 15-7, 18 R425)? -/
def State.ctOn (s : State) (ep : Fin 2) : Bool :=
  s.linkUp ep && Word.bit (s.reg (portBlk ep) 0) 1 && !s.pw.held &&
  (s.sc.stage == .verify || s.sc.stage == .run || s.sc.stage == .recovery)

/-- Sequence numbers of an endpoint's commands in flight (15 R364). -/
def State.flying (s : State) (ep : Fin 2) : List Nat :=
  ((s.eps[ep.val]).held.map (·.seq % 2 ^ 32)) ++
  (s.acc.toList.getD ep.val []).filterMap (fun q => if q.conv then none else q.link.map (·.2.2.1 % 2 ^ 32)) ++
  (s.mems.filter (fun m => m.ep == ep && !m.conv)).map (·.no % 2 ^ 32)

/-- Commands of an endpoint in flight (15 R364). -/
def State.inFlight (s : State) (ep : Fin 2) : Nat := (s.flying ep).length

/-- Where the response of a request goes: its source address and port (15 R355). -/
def reqPeer (q : Req) : Nat × Nat := (q.src.toNat, q.sport.toNat)

/-- Are the fields that every opcode has in range: no reserved bit, UDP length 64 + LEN, LEN up to 4,096, STATUS, ORIG and FLAGS 0 (15
R356, Table 15-2)? -/
def reqFit (q : Req) : Bool := q.ok && decide (q.data.length ≤ 4096) && q.status == 0 && q.orig == 0 && q.flags == 0

/-- A port drops a frame. -/
def State.rxDrop (s : State) (p : Fin 2) : State := s.bump (portBlk p) 0x80 1

/-- EN_EP_PEER of a port. -/
def State.peer (s : State) (p : Fin 2) : Nat :=
  (List.range 4).foldl (fun n i => n * 2 ^ 32 + (s.reg (portBlk p) (0x38 + 4 * i)).toNat) 0

/-- Is a source turned away by EN_EP_PEER (15 R354)? -/
def State.stranger (s : State) (p : Fin 2) (src : Nat) : Bool := s.peer p != 0 && src != s.peer p

/-- A response of an endpoint (15 Table 15-2). -/
def State.mkResp (s : State) (ep : Fin 2) (op seq arg status : Nat) : Resp :=
  { opcode := op, epoch := (s.eps[ep.val]).epoch, seq := seq, status := status, orig := 0, flags := 0, addr := none, arg := arg,
    cycle := s.cycle, data := [] }

/-- A response that is not retained. -/
def State.answerOnce (s : State) (ep : Fin 2) (op : Nat) (q : Req) (status : Status) (data : List Byte := []) (flags : Nat := 0) :
    State :=
  s.sendCt ep (reqPeer q) (.resp { s.mkResp ep op q.seq.toNat q.arg.toNat status with data := data, flags := flags })

/-- The response of a windowed command, retained in the window (15 R358). -/
def State.respond (s : State) (ep : Fin 2) (op seq arg : Nat) (to_ : Nat × Nat) (status : Status) (data : List Byte := []) (flags : Nat := 0)
    (addr : Option Nat := none) : State :=
  let r := { s.mkResp ep op seq arg status with data := data, flags := flags, addr := addr }
  (s.modEp ep (fun e => { e with win := e.win.map (fun w => if w.seq = seq && w.resp.isNone then { w with resp := some r } else w) })).sendCt
    ep to_ (.resp r)

/-- The number by which a deferred command of the present epoch is known. -/
def State.cmdNo (s : State) (ep : Fin 2) (seq : Nat) : Nat := (s.eps[ep.val]).gen * 2 ^ 32 + seq

/-- A deferred command is accepted (15 R360). -/
def State.defer (s : State) (ep : Fin 2) (op : Nat) (q : Req) : State :=
  let s1 := s.modEp ep (fun e => { e with held := e.held ++ [⟨s.cmdNo ep q.seq.toNat, none, false, false⟩] })
  s1.respond ep op q.seq.toNat q.arg.toNat (reqPeer q) Code.done [] 1

/-- Is a sequence number in the window that ends at H (15 R358)? -/
def inWindow (h seq : Nat) : Bool := decide ((h + 2 ^ 32 - seq) % 2 ^ 32 < 2048)

/-- A new request, with H as it will be: refused without room or where its number lies more than a window behind or before a command in
flight, otherwise recorded and handled (15 R358 rules 1 and 2). -/
def State.takeNew (s : State) (ep : Fin 2) (op : Nat) (q : Req) (h : Nat) (ok : Bool) (run : State → State) : State :=
  if 2048 ≤ s.inFlight ep || (s.flying ep).any (fun x => !inWindow q.seq.toNat x) then s.answerOnce ep op q Code.notReady
  else
    let s1 := s.modEp ep (fun e =>
      { e with high := some h, win := e.win.filter (fun w => inWindow h w.seq) ++ [⟨q.seq.toNat, none⟩],
               retired := e.retired.filter (inWindow h) })
    if ok then run s1 else s1.respond ep op q.seq.toNat q.arg.toNat (reqPeer q) Code.bounds

/-- A count of an endpoint's port: 0x84 duplicates, 0x88 epoch mismatches (15 Table 15-6). -/
def State.epCount (s : State) (ep : Fin 2) (o : Nat) : State := s.bump (portBlk ep) o 1

/-- A windowed request (15 R356 to R359): `ok` says that its fields are in range, `run` carries it out. -/
def State.windowed (s : State) (ep : Fin 2) (op : Nat) (q : Req) (ok : Bool) (run : State → State) : State :=
  let e := s.eps[ep.val]
  let seq := q.seq.toNat
  if !s.ctOn ep then s
  else if s.stranger ep q.src.toNat then s.rxDrop ep
  else if s.cfgBad (portBlk ep) && op ≠ 2 && op ≠ 3 then s.answerOnce ep op q Code.cfgParity
  else if q.epoch.toNat ≠ e.epoch then (s.epCount ep 0x88).answerOnce ep op q Code.aborted
  else
    let good := reqFit q && ok
    match e.high with
    | none => s.takeNew ep op q seq good run
    | some h =>
      let d := signedOf 32 (seq + 2 ^ 32 - h)
      if 0 < d then s.takeNew ep op q seq good run
      else if -2048 < d then
        match e.win.find? (fun w => w.seq == seq) with
        | none => s.takeNew ep op q h good run
        | some w =>
          match w.resp with
          | none => s.epCount ep 0x84
          | some r =>
            let r1 : Resp := { r with status := Code.doneRepeat, orig := r.status, epoch := e.epoch, cycle := s.cycle }
            (s.epCount ep 0x84).sendCt ep (reqPeer q) (.resp r1)
      else s.answerOnce ep op q Code.bounds

/-- An unwindowed request (15 R357, R359). -/
def State.unwindowed (s : State) (ep : Fin 2) (op : Nat) (q : Req) (run : State → State) : State :=
  if !s.ctOn ep then s
  else if s.stranger ep q.src.toNat then s.rxDrop ep
  else if s.cfgBad (portBlk ep) then s.answerOnce ep op q Code.cfgParity
  else if op ≠ 0x42 && q.epoch.toNat ≠ (s.eps[ep.val]).epoch then (s.epCount ep 0x88).answerOnce ep op q Code.aborted
  else if !reqFit q || q.seq ≠ 0 then s.answerOnce ep op q Code.bounds
  else run s

/-- A request with a reserved opcode (15 R356). -/
def State.reservedOp (s : State) (ep : Fin 2) (op : Nat) (q : Req) : State := s.windowed ep op q false id

/-- A memory access of an endpoint ends (15 R360, R361): its response, or the result of a command answered as deferred. -/
def State.memEnd (s : State) (m : MemAcc) (status : Status) (data : List Byte) : State :=
  let s1 : State := { s with mems := s.mems.filter (fun x => x.ep != m.ep || x.no != m.no) }
  if m.conv then s1.deferDone m.ep m.no status data
  else if m.mute then s1
  else s1.respond m.ep (if m.write then 5 else 4) (m.no % 2 ^ 32) m.arg m.peer status data

/-- Change a memory access in progress. -/
def State.modMem (s : State) (ep : Fin 2) (no : Nat) (f : MemAcc → MemAcc) : State :=
  { s with mems := s.mems.map (fun m => if m.ep = ep ∧ m.no = no then f m else m) }

/-- The opcodes of 15 Table 15-3. -/
def opcodes : List Nat :=
  [0x0001, 0x0002, 0x0003, 0x0004, 0x0005, 0x0010, 0x0011, 0x0012, 0x0013, 0x0020, 0x0021, 0x0030, 0x0040, 0x0041, 0x0042]

end Sys2Proof.Machine
end

