-- ==== Sys2Proof/Machine/Port.lean ====
section
/-!
DEFINITION. The Ethernet ports, queue pairs, inbound RDMA, flow and congestion control, and the semaphore bank
(15 R351 to R353, R365 to R376; 07 R187, R188).
-/
namespace Sys2Proof.Machine

/-- ETHERNET_LINK_UP (15 R351): a link comes up, on the management port at the speed it advertised, or is lost. -/
def execEthernetLinkUp (p : Fin 2) (up : Bool) (s : State) : Result :=
  let b := portBlk p
  let ctl := s.reg b 0
  .next (if up && !Word.bit ctl 0 then s
  else (s.putBit b 4 0 up).putBit b 4 1 (if up then p == 1 && Word.bit ctl 3 else Word.bit (s.reg b 4) 1))

/-- EN_PFC_BUF[p] of a priority: SIZE, HDRM, GAP. -/
def State.pfcBuf (s : State) (p : Fin 8) : Nat × Nat × Nat :=
  let v := s.reg .enHost (0x60 + 4 * p.val)
  (fieldOf v 31 19, fieldOf v 18 9, fieldOf v 8 0)

/-- Is a priority lossless? -/
def State.lossless (s : State) (p : Fin 8) : Bool := Word.bit (s.reg .enHost 0x50) p.val

/-- Is the port pausing a priority (EN_STATUS.PFC_TX)? -/
def State.pausing (s : State) (p : Fin 8) : Bool := Word.bit (s.reg .enHost 4) (8 + p.val)

/-- Send a PFC frame. -/
def State.sendPfc (s : State) (p : Fin 8) (quanta : Nat) : State :=
  (s.emit (.pfc p.val quanta)).putBit .enHost 4 (8 + p.val) (quanta != 0)

/-- Receive-buffer units a frame takes. -/
def frameUnits (len : Nat) : Nat := ceilDiv len 4096

/-- A frame of the host port enters its priority's buffer (15 R374): false where the buffer has no room for it. -/
def State.rxBuffer (s : State) (p : Fin 8) (len : Nat) : Bool × State :=
  let (size, hdrm, _) := s.pfcBuf p
  let occ := s.rxOcc[p.val] + frameUnits len
  if size < occ then (false, s)
  else
    let s1 := { s with rxOcc := s.rxOcc.set p.val occ }
    (true, if s1.lossless p && size - hdrm ≤ occ && !s1.pausing p then s1.sendPfc p 0xFFFF else s1)

/-- PFC_XOFF_REPEAT (15 R374). -/
def execPfcXoffRepeat (p : Fin 8) (s : State) : Result :=
  let (size, hdrm, gap) := s.pfcBuf p
  .next (if s.lossless p && s.pausing p && decide (size - hdrm - gap ≤ s.rxOcc[p.val]) then s.sendPfc p 0xFFFF else s)

/-- RX_BUFFER_OCCUPANCY_FALL (15 R374): frames drain until `occ` units are held. -/
def execRxBufferOccupancyFall (p : Fin 8) (occ : BitVec 13) (s : State) : Result :=
  let (size, hdrm, gap) := s.pfcBuf p
  .next (if s.rxOcc[p.val] ≤ occ.toNat then s
  else
    let s1 := { s with rxOcc := s.rxOcc.set p.val occ.toNat }
    if s1.pausing p && decide (occ.toNat < size - hdrm - gap) then s1.sendPfc p 0 else s1)

/-- A frame as it leaves: a response or notification carries the cycle count of that moment (15 Table 15-2). -/
def EthFrame.stamp (f : EthFrame) (cycle : Nat) : EthFrame :=
  { f with body := match f.body with
      | .resp r => .resp { r with cycle := cycle }
      | .note e n st a _ => .note e n st a cycle
      | b => b }

/-- A field of a header that an external standard defines: big-endian (00 R13). -/
def beBytes (n v : Nat) : List Byte := (leBytes n v).reverse

/-- The 64-byte header of a command-transport datagram, little-endian (00 R13, 15 Table 15-2): TYPE, OPCODE, EPOCH, SEQ, STATUS, ORIG,
FLAGS, ADDR, LEN, ARG, CYCLE. -/
def ctHeader (type op epoch seq status orig flags addr len arg cycle : Nat) : List Byte :=
  leBytes 2 0x544B ++ leBytes 1 1 ++ leBytes 1 type ++ leBytes 2 op ++ leBytes 2 epoch ++ leBytes 4 seq ++ leBytes 1 status ++
  leBytes 1 orig ++ leBytes 1 flags ++ leBytes 1 0 ++ leBytes 6 addr ++ leBytes 2 0 ++ leBytes 4 len ++ leBytes 4 arg ++
  leBytes 8 cycle ++ List.replicate 24 0

/-- The UDP payload of a frame of the command transport; none of another frame. -/
def EthFrame.datagram (s : State) (f : EthFrame) : Option (List Byte) :=
  match f.body with
  | .resp r => some (ctHeader 2 r.opcode r.epoch r.seq r.status r.orig r.flags (r.addr.getD 0) r.data.length r.arg r.cycle ++ r.data)
  | .note ev n st a c => some (ctHeader 3 ev (s.eps[f.port.val]).epoch n st 0 0 0 0 a c)
  | _ => none

/-- An IP address as its header carries it: four bytes where it is IPv4-mapped, else sixteen. -/
def ipBytes (ip : Nat) : List Byte := if ip / 2 ^ 32 = 0xFFFF then beBytes 4 (ip % 2 ^ 32) else beBytes 16 ip

/-- The queue pair of a RoCEv2 frame. -/
def EthFrame.pair (f : EthFrame) : Option Nat :=
  match f.body with
  | .read n _ _ _ | .write n _ _ _ | .ack n _ _ | .cnp n | .resend n => some n
  | _ => none

/-- The fields of a frame's Ethernet, IP, UDP and RoCEv2 headers that the spec fixes, as they stand on the wire (00 R13): source MAC
address, VLAN tag (PCP and VID), for RoCEv2 the traffic class, DSCP and ECT(0) (15 R375), destination address, UDP ports; of an RDMA request its destination queue pair, remote virtual address,
key and length. -/
def EthFrame.headers (s : State) (f : EthFrame) : List (List Byte) :=
  let q (n : Nat) : List Byte := beBytes 3 (s.qp n).dqpn
  [beBytes 6 ((s.reg (portBlk f.port) 8).toNat + fieldOf (s.reg (portBlk f.port) 0xC) 15 0 * 2 ^ 32)] ++
  (match f.vlan with
    | some v => [beBytes 2 (f.prio * 8192 + v)]
    | none => []) ++ (match f.pair with
    | some n => [beBytes 1 ((s.qp n).dscp * 4 + 2)]
    | none => []) ++ [ipBytes f.dip, beBytes 2 f.sport, beBytes 2 f.dport] ++
  (match f.body with
    | .read n va k len => [q n, beBytes 8 va, beBytes 4 k, beBytes 4 len]
    | .write n va k d => [q n, beBytes 8 va, beBytes 4 k, beBytes 4 d.length]
    | .ack n _ _ => [q n]
    | .cnp n => [q n]
    | .resend n => [q n]
    | _ => [])

/-- The pause of a priority ends: the frames that waited for it leave, in order (15 R373). -/
def State.unpause (s : State) (p : Fin 8) : State :=
  { s with tx := s.tx ++ (s.txWait.filter (fun (f : EthFrame) => f.prio == p.val)).map (fun (f : EthFrame) => Tx.eth (f.stamp s.cycle)),
           txWait := s.txWait.filter (fun (f : EthFrame) => f.prio != p.val), pause := s.pause.set p.val 0 }.putBit .enHost 4 (16 + p.val) false

/-- PFC_FRAME_RECEIVED (15 R373): the priorities enabled in the frame, with their quanta. -/
def execPfcFrameReceived (en : BitVec 8) (q : List (BitVec 16)) (s : State) : Result :=
  .next (if !s.linkUp 0 then s
  else
    (List.finRange 8).foldl (fun s p =>
      if en.getLsbD p.val then
        let n := (q.getD p.val 0).toNat
        if n = 0 then s.unpause p else { s with pause := s.pause.set p.val n }.putBit .enHost 4 (16 + p.val) true
      else s) s)

/-- PFC_PAUSE_EXPIRY (15 R373). -/
def execPfcPauseExpiry (p : Fin 8) (s : State) : Result := .next (s.unpause p)

/-- The unit of a send rate: Gb/s. The rate of a queue pair is `rate / 2^rateExp`. -/
def maxRate : Nat := 800

/-- A queue pair takes a new context. -/
def State.setQp (s : State) (n : Nat) (q : Qp) : State := { s with qps := Tbl.set s.qps n q Qp.reset }

/-- Bytes put into a list at an offset. -/
def putAt (l : List Byte) (o : Nat) (bs : List Byte) : List Byte := l.take o ++ bs ++ l.drop (o + bs.length)

/-- A part of a memory access over a remote window has ended (07 R188). -/
def State.memPart (s : State) (ep : Fin 2) (no off : Nat) (status : Status) (bs : List Byte) : State :=
  match s.mems.find? (fun m => m.ep == ep && m.no == no) with
  | none => s
  | some m =>
    let m1 := { m with out := m.out - 1, status := if m.status = Code.done then status else m.status,
                       data := if m.write then m.data else putAt m.data off bs }
    if m1.out = 0 then s.memEnd m1 m1.status (if m.write || m1.status ≠ Code.done then [] else m1.data) else s.modMem ep no (fun _ => m1)

/-- A remote access ends with a status other than DONE (07 R178, R188). -/
def State.remoteStop (s : State) (r : RAcc) (status : Status) : State :=
  let s1 : State := { s with roce := s.roce.erase r }
  match r.who with
  | .burst c i => s1.burstEnd c i (!r.write) status false
  | .mem ep no off => s1.memPart ep no off status []
  | .holt id h a again => s1.holtLine r id h a again status []

/-- The bytes that a burst's write replaces as its request leaves. -/
def State.noteUndo (s : State) (r : RAcc) (l : Loc) : State :=
  match r.who, r.write with
  | .burst c i, true => s.modChan c (fun h => { h with xfer := h.xfer.map (fun x => { x with undo := x.undo.set i ⟨l, s.peek l r.n⟩ }) })
  | _, _ => s

/-- Requests of a queue pair that wait their turn leave, in order, over the mapping then in force, while MAX_RD allows (15 R369, 07
R189). -/
def State.pump (q : Nat) : Nat → State → State
  | 0, s => s
  | n + 1, s =>
    match s.roce.find? (fun r => r.qp == q && r.sent.isNone) with
    | none => s
    | some r =>
      if !r.write && (s.qp q).maxRd ≤ (s.roce.filter (fun x => x.qp == q && !x.write && x.sent.isSome)).length then s
      else
        match s.place r.pa r.write with
        | some (.remote q1 va k) =>
          let s1 := s.noteUndo r (.remote q1 va k)
          State.pump q n (if q1 = q then s1.leaves r (.remote q1 va k)
            else if (s.qp q1).st ≠ 3 then s.remoteStop r Code.busErr
            else { s1 with roce := s1.roce.erase r }.remoteGo { r with qp := q1 } (.remote q1 va k))
        | _ => State.pump q n (s.remoteStop r Code.bounds)

/-- Let waiting requests of a queue pair leave. -/
def State.pumpQp (s : State) (q : Nat) : State := State.pump q s.roce.length s

/-- Every outstanding access of a queue pair completes with BUS_ERR (15 R370). -/
def State.qpDrop (s : State) (n : Nat) : State :=
  (s.roce.filter (fun r => r.qp == n)).foldl (fun s r => if s.roce.contains r then s.remoteStop r Code.busErr else s) s

/-- Entry to ERROR (15 R370). -/
def State.qpError (s : State) (n : Nat) : State :=
  if (s.qp n).st = 4 then s else (s.setQp n { s.qp n with st := 4, tries := 0 }).qpDrop n

/-- The bytes that arrive for burst `i` of a multicast write go to every member's copy. -/
def State.mcastData (s : State) (u : SettId) (k : Fin 4) (i : Nat) (bs : List Byte) : State :=
  { s with mcast := s.mcast.map (fun m =>
      if m.iss = u ∧ m.ch = k.val then
        { m with parts := (m.parts.zip (List.range m.parts.length)).map (fun p => if p.2 = i then (p.1.1, p.1.2.1, bs) else p.1) }
      else m) }

/-- The oldest outstanding access of a queue pair completes (07 R188): a read's bytes are those that arrived. -/
def State.remoteDone (s : State) (r : RAcc) (data : List Byte) : State :=
  let s1 : State := { (s.setQp r.qp { s.qp r.qp with tries := 0 }) with roce := s.roce.erase r }
  let bs := data.take r.n
  let s2 : State := if r.write then s1
    else { s1 with remote := s1.remote.store (remoteKey r.qp ((r.sent.map (·.1)).getD 0)) bs }
  let s3 := match r.who with
    | .mem ep no off => s2.memPart ep no off Code.done bs
    | .holt id h a again => s2.holtLine r id h a again Code.done bs
    | .burst c i =>
      if r.write then s2
      else
        match c, (((s2.chan c).xfer).map Xfer.multi).getD false, r.dst with
        | .sett u k, true, _ => s2.mcastData u k i bs
        | _, _, some l => s2.burstData c i l bs
        | _, _, none => s2
  s3.pumpQp r.qp

/-- Does the data of a remote access wait at the crossing of a frozen sett (04 R110)? -/
def State.remoteHeld (s : State) (r : RAcc) : Bool :=
  (match r.who with
    | .burst c _ => s.chanFrozen c
    | .mem _ _ _ | .holt _ _ _ _ => false) ||
  (match r.dst.bind Loc.sett? with
    | some u => (s.sett u).freeze.isSome
    | none => false)

/-- ROCE_ACK_RECEIVED (07 R188, 15 R370): the oldest request of the queue pair that has left. -/
def execRoceAckReceived (q : BitVec 10) (nak : Bool) (data : List (BitVec 8)) (s : State) : Result :=
  .next (match s.roce.find? (fun r => r.qp == q.toNat && r.sent.isSome) with
    | none => s
    | some r => if nak then s.qpError q.toNat else if s.remoteHeld r then s else s.remoteDone r data)

/-- QP_ACK_TIMEOUT (15 R370). -/
def execQpAckTimeout (q : BitVec 10) (s : State) : Result :=
  let c := s.qp q.toNat
  .next (if !s.roce.any (fun r => r.qp == q.toNat && r.sent.isSome) then s
  else if c.tries < c.retry then
    (s.setQp q.toNat { c with tries := c.tries + 1 }).sendRoce q.toNat (.resend q.toNat)
  else s.qpError q.toNat)

/-- The statuses with which the memory of a range can fail an access of Xalor (07 R186, R198, R199): HBM_UNCORR in HBM, PARITY_HARD on
the Span links to HBM and the setts, BUS_ERR in the Burrow. -/
def memFaultOk (a : Nat) (c : Nat) : Bool :=
  if a < hbmSize then c == Code.hbmUncorr || c == Code.parityHard
  else if burrowBase ≤ a && a < 0x20000000000 then c == Code.busErr
  else decide (settBase ≤ a) && c == Code.parityHard

/-- The failure that the memory at an address may answer with, where one is named. -/
def failStatus (a : Nat) (flt : Option (BitVec 8)) : Option Status := (flt.map (·.toNat)).filter (memFaultOk a)

/-- The remote parts of a memory access set out, in order of address. -/
def State.memRemote (s : State) (m : MemAcc) : Nat → List ((Loc × Nat) × (Nat × Nat)) → State
  | _, [] => s
  | off, ((l, n), (pa, _)) :: ps =>
    let s1 := match l with
      | .remote q _ _ => s.remoteGo ⟨q, m.write, .mem m.ep m.no off, pa, n, none, (m.data.drop off).take n, none⟩ l
      | _ => if m.write then s.poke l ((m.data.drop off).take n) else s
    State.memRemote s1 m (off + n) ps

/-- A memory access of an endpoint goes to its target (15 R355, R357): it waits while that lies in a frozen sett; words it reads, or
writes in part, in a sett window are consumed there; remote parts end with their acknowledgements. -/
def State.memTry (s : State) (m : MemAcc) : State :=
  if s.rangeFrozen m.addr m.n then s
  else
    match State.consumeAll none 9 m.checked (s.sideReads m.addr m.n m.write) 0 s with
    | (some k, s1) => s1.modMem m.ep m.no (fun x => { x with checked := k })
    | (none, s0) =>
      let ps := pieces m.addr m.n
      match s0.locateAll none m.write ps with
      | (none, s1) => s1.memEnd m Code.bounds []
      | (some ls, s1) =>
        if ls.any (fun p => s1.notReady p.1) then s1.memEnd m Code.busErr []
        else
          match m.flt.filter (memFaultOk m.addr) with
          | some c => s1.memEnd m c []
          | none =>
            let out := (ls.filter (fun p => match p.1 with
              | .remote _ _ _ => true
              | _ => false)).length
            let m1 := { m with begun := true, out := out, data := if m.write then m.data else s1.gather ls }
            if out = 0 then
              (if m.write then s1.scatter ls m.data else s1).memEnd m1 Code.done (if m.write then [] else m1.data)
            else (s1.modMem m.ep m.no (fun _ => m1)).memRemote m1 0 (ls.zip ps)

/-- Memory accesses that waited at a crossing go on, the oldest first. -/
def State.memRetry (s : State) : State := (s.mems.filter (fun m => !m.begun)).foldl (fun s m =>
  match s.mems.find? (fun x => x.ep == m.ep && x.no == m.no) with
  | some x => s.memTry x
  | none => s) s

/-- A queue-pair context from its 64 bytes (15 Table 15-5). -/
def Qp.parse (bs : List Byte) : Qp :=
  let f (o n : Nat) : Nat := leNat ((bs.drop o).take n)
  { st := f 0 1, pmtu := f 1 1, retry := f 2 1 / 16, timeout := f 2 1 % 16, prio := f 3 1, dscp := f 4 1, maxRd := f 5 1,
    sport := f 6 2, dqpn := f 8 3, spsn := f 12 3, epsn := f 16 3, dmac := f 20 6, dip := f 28 16, rqBase := f 44 6,
    rqSize := f 50 2, rqSig := f 52 4, rqCount := 0, rate := maxRate, rateExp := 0, tries := 0 }

/-- The 64 bytes of a context (15 Table 15-5). -/
def Qp.bytes (q : Qp) : List Byte :=
  leBytes 1 q.st ++ leBytes 1 q.pmtu ++ leBytes 1 (q.retry * 16 + q.timeout) ++ leBytes 1 q.prio ++ leBytes 1 q.dscp ++
  leBytes 1 q.maxRd ++ leBytes 2 q.sport ++ leBytes 3 q.dqpn ++ leBytes 1 0 ++ leBytes 3 q.spsn ++ leBytes 1 0 ++
  leBytes 3 q.epsn ++ leBytes 1 0 ++ leBytes 6 q.dmac ++ leBytes 2 0 ++ leBytes 16 q.dip ++ leBytes 6 q.rqBase ++
  leBytes 2 q.rqSize ++ leBytes 4 q.rqSig ++ leBytes 4 q.rqCount ++ leBytes 4 0

/-- Reserved bytes of a context that are 0, and STATE in range. -/
def qpBytesOk (bs : List Byte) : Bool :=
  let f (o n : Nat) : Nat := leNat ((bs.drop o).take n)
  f 11 1 == 0 && f 15 1 == 0 && f 19 1 == 0 && f 26 2 == 0 && f 60 4 == 0 && decide (f 0 1 ≤ 4) && decide (f 3 1 < 8) && decide (f 4 1 < 64)

/-- Fields in their ranges, where the transition may change them. -/
def Qp.fieldsOk (q : Qp) : Bool :=
  decide (1 ≤ q.pmtu) && decide (q.pmtu ≤ 3) && decide (q.retry ≤ 7) && decide (1 ≤ q.timeout) && decide (1 ≤ q.maxRd) &&
  decide (q.maxRd ≤ 16) && q.rqBase % 4096 == 0

/-- May a queue pair go from state `a` to state `b` (15 R370)? -/
def qpMay (a b : Nat) : Bool := (a == 0 && b == 1) || (a == 1 && b == 2) || (a == 2 && b == 3) || b == 4 || b == 0 || a == b

/-- QP_MODIFY (15 R370): none where it completes with BOUNDS. -/
def State.qpModify (s : State) (n : Nat) (bs : List Byte) : Option State :=
  let old := s.qp n
  let q := Qp.parse bs
  let new := { q with rqCount := old.rqCount, rate := old.rate, rateExp := old.rateExp, tries := old.tries }
  let entry := old.st ≠ q.st && (q.st = 1 || q.st = 2)
  if !qpBytesOk bs || !qpMay old.st q.st then none
  else if entry then (if new.fieldsOk then some (s.setQp n new) else none)
  else if { new with st := old.st } ≠ old then none
  else if q.st = old.st then some s
  else if q.st = 4 then some (s.qpError n)
  else if q.st = 0 then some ((s.setQp n { new with rqCount := 0, tries := 0 }).qpDrop n)
  else some (s.setQp n { new with rate := maxRate, rateExp := 0 })

/-- EN_ECN.EN. -/
def State.ecnOn (s : State) : Bool := Word.bit (s.reg .enHost 0x54) 31

/-- CNP_RECEIVED (15 R375): the rate halves, no lower than EN_RATE.MIN. -/
def execCnpReceived (q : BitVec 10) (s : State) : Result :=
  .next (if !s.linkUp 0 then s
  else
    let s1 := s.bump .enHost 0x90 1
    if !s1.ecnOn then s1
    else
      let c := s1.qp q.toNat
      let m := fieldOf (s1.reg .enHost 0x58) 31 20
      s1.setQp q.toNat (if c.rate ≤ m * 2 ^ (c.rateExp + 1) then { c with rate := m, rateExp := 0 }
        else { c with rateExp := c.rateExp + 1 }))

/-- RATE_RECOVERY (15 R375): the rate rises by EN_RATE.STEP, to 800 Gb/s at most. -/
def execRateRecovery (q : BitVec 10) (s : State) : Result :=
  .next (if !s.ecnOn then s
  else
    let c := s.qp q.toNat
    let r := c.rate + fieldOf (s.reg .enHost 0x58) 19 10 * 2 ^ c.rateExp
    s.setQp q.toNat (if maxRate * 2 ^ c.rateExp ≤ r then { c with rate := maxRate, rateExp := 0 } else { c with rate := r }))

/-- A RoCEv2 packet marked CE (15 R375): a CNP, at most one per queue pair in EN_ECN.CNP_GAP µs of the module counter. -/
def State.ceMark (s : State) (q : Nat) : State :=
  if !s.ecnOn then s
  else
    let gap := fieldOf (s.reg .enHost 0x54) 15 0 * 1000
    let sent := ({ s with cnpAt := Tbl.put s.cnpAt q s.cycle }.sendRoce q (.cnp q)).bump .enHost 0x8C 1
    match Tbl.find s.cnpAt q with
    | some t => if s.cycle < t + gap then s else sent
    | none => sent

/-- EN_MAC of a port. -/
def State.mac (s : State) (p : Fin 2) : Nat :=
  (s.reg (portBlk p) 8).toNat + fieldOf (s.reg (portBlk p) 0xC) 15 0 * 2 ^ 32

/-- EN_IP6 of a port; EN_IP6[0] is the most significant word. -/
def State.ip6 (s : State) (p : Fin 2) : Nat :=
  (List.range 4).foldl (fun n i => n * 2 ^ 32 + (s.reg (portBlk p) (0x14 + 4 * i)).toNat) 0

/-- Does an address, IPv4 in its IPv4-mapped form, belong to a port (15 R352)? -/
def State.myIp (s : State) (p : Fin 2) (ip : Nat) : Bool :=
  if ip / 2 ^ 32 = 0xFFFF then (s.reg (portBlk p) 0x10) != 0 && ip % 2 ^ 32 == (s.reg (portBlk p) 0x10).toNat
  else s.ip6 p != 0 && ip == s.ip6 p

/-- An answer of the port itself, to whoever asked, with priority 0 (15 R352, R372). -/
def State.autoReply (s : State) (p : Fin 2) (body : EthBody) : State := s.send p 0 (0, 0) 0 body

/-- A frame that has passed the port's own checks (15 R352, R354, R356). -/
def State.rxPass (s : State) (p : Fin 2) (k : FrameKind) : State :=
  match k with
  | .arp ip => if s.myIp p (0xFFFF * 2 ^ 32 + ip.toNat) then s.autoReply p (.arp ip.toNat (s.mac p)) else s
  | .neighbour ip => if s.ip6 p != 0 && ip.toNat == s.ip6 p then s.autoReply p (.neighbour ip.toNat (s.mac p)) else s
  | .echo ip bs => if s.myIp p ip.toNat then s.autoReply p (.echo bs) else s
  | .command src dst port head =>
    let f (o n : Nat) : Nat := leNat ((head.drop o).take n)
    if !s.myIp p dst.toNat || port.toNat != fieldOf (s.reg (portBlk p) 0x28) 15 0 || !Word.bit (s.reg (portBlk p) 0) 1 then s
    else if s.stranger p src.toNat then s.rxDrop p
    else if f 0 2 != 0x544B || f 2 1 != 1 || f 3 1 != 1 then s.rxDrop p
    else if !opcodes.contains (f 4 2) then
      s.reservedOp p (f 4 2)
        { epoch := BitVec.ofNat 16 (f 6 2), seq := BitVec.ofNat 32 (f 8 4), addr := BitVec.ofNat 48 (f 16 6),
          arg := BitVec.ofNat 32 (f 28 4), data := [], ok := false, src := src }
    else s
  | .roce q ce => if p = 0 && ce then s.ceMark q.toNat else s
  | .other => s

/-- RX_FRAME (15 R352): dropped and counted, answered, or passed on. -/
def execRxFrame (p : Fin 2) (f : Frame) (s : State) : Result :=
  .next (if !s.linkUp p then s
  else
    let (hit, s1) := s.injStep .injX (5 + p.val) (fun x => x == 0) 1
    if hit.isSome || !f.fcsOk || 9216 < f.len.toNat || f.fragment || f.options || f.pause ||
        !(f.dst.toNat == s1.mac p || f.dst.toNat == 2 ^ 48 - 1) then s1.rxDrop p
    else if p = 0 then
      match s1.rxBuffer ⟨(f.prio.map (·.toNat)).getD 0 % 8, Nat.mod_lt _ (by decide)⟩ f.len.toNat with
      | (false, s2) => s2.rxDrop p
      | (true, s2) => s2.rxPass p f.kind
    else s1.rxPass p f.kind)

/-- Does the region whose registers stand at `o`, lying in one tier, hold the bytes (15 R371)? -/
def State.mrHolds (s : State) (o a n : Nat) : Bool :=
  let base := (s.reg .enHost o).toNat + fieldOf (s.reg .enHost (o + 4)) 15 0 * 2 ^ 32
  let size := (s.reg .enHost (o + 8)).toNat * 4096
  decide (base ≤ a) && decide (a + n ≤ base + size) &&
  (decide (base + size ≤ hbmSize) || (decide (burrowBase ≤ base) && decide (base + size ≤ 0x20000000000)))

/-- The region of an R_Key that permits an access (15 R371). -/
def State.mrOk (s : State) (rkey a n : Nat) (wr : Bool) : Bool :=
  let r := rkey / 2 ^ 24
  let o := 0x400 + 16 * r
  let w3 := s.reg .enHost (o + 12)
  decide (r < 64) && Word.bit w3 31 && fieldOf w3 23 0 == rkey % 2 ^ 24 && Word.bit w3 (if wr then 30 else 29) && s.mrHolds o a n
/-- Does a queue pair take inbound requests: RTR or RTS? -/
def State.qpReceives (s : State) (q : Nat) : Bool := (s.qp q).st = 2 || (s.qp q).st = 3

/-- An inbound request refused with a remote access error (15 R371). -/
def State.racc (s : State) (q : Nat) : State := (s.sendRoce q (.ack q false [])).bump .enHost 0x94 1

/-- RDMA_WRITE_INBOUND (15 R371). -/
def execRdmaWriteInbound (q : BitVec 10) (rkey : BitVec 32) (va : BitVec 64) (data : List (BitVec 8)) (s : State) : Result :=
  .next (if !s.qpReceives q.toNat then s
  else if s.mrOk rkey.toNat va.toNat data.length true then
    (s.writeMod none va.toNat data).2.sendRoce q.toNat (.ack q.toNat true [])
  else s.racc q.toNat)

/-- RDMA_READ_INBOUND (15 R371). -/
def execRdmaReadInbound (q : BitVec 10) (rkey : BitVec 32) (va : BitVec 64) (n : BitVec 32) (s : State) : Result :=
  .next (if !s.qpReceives q.toNat then s
  else if s.mrOk rkey.toNat va.toNat n.toNat false then
    match s.readMod none va.toNat n.toNat with
    | (some bs, s1) => s1.sendRoce q.toNat (.ack q.toNat true bs)
    | (none, s1) => s1.racc q.toNat
  else s.racc q.toNat)

/-- SEND_INBOUND (15 R371): message n goes to ring entry n mod RQ_SIZE, in a region that permits SEND. -/
def execSendInbound (q : BitVec 10) (data : List (BitVec 8)) (s : State) : Result :=
  let c := s.qp q.toNat
  let a := c.rqBase + c.rqCount % c.rqSize * 4096
  .next (if !s.qpReceives q.toNat then s
  else if c.rqSize = 0 || 4096 < data.length then s.sendRoce q.toNat (.ack q.toNat false [])
  else if !inHbm a 4096 || !(List.range 64).any (fun r =>
      let w3 := s.reg .enHost (0x400 + 16 * r + 12)
      Word.bit w3 31 && Word.bit w3 30 && s.mrHolds (0x400 + 16 * r) a data.length) then s.racc q.toNat
  else
    let s1 := (s.putHbm a data).setQp q.toNat { c with rqCount := (c.rqCount + 1) % 2 ^ 32 }
    (s1.sendRoce q.toNat (.ack q.toNat true [])).targetSig (BitVec.ofNat 32 c.rqSig))

/-- Owner code of a requester (15 R365). -/
def ownerCode : Requester → Nat
  | .endA => 1
  | .endB => 2
  | .mgmt => 3

/-- A read of SM_SEM[n] (15 R365): the value it returns. -/
def State.semRead (s : State) (n : Fin 32) (r : Requester) : Word × State :=
  let v := s.reg .sm (4 * n.val)
  if v = 0 then (0, s.setReg .sm (4 * n.val) (BitVec.ofNat 32 (ownerCode r)))
  else if v.toNat = ownerCode r then (0, s)
  else (v, s)

/-- Number of a requester (17 Table 17-9). -/
def reqIx : Requester → Fin 3
  | .endA => 0
  | .endB => 1
  | .mgmt => 2

/-- A register access of a requester completes: its value and status. -/
def State.answer (s : State) (r : Requester) (v : Word) (status : Status) : State :=
  { s with rdata := s.rdata.set (reqIx r).val (v, status) }

/-- SM_SEM_READ (15 R365). -/
def execSmSemRead (n : Fin 32) (r : Requester) (s : State) : Result :=
  .next (let (v, s1) := s.semRead n r
         s1.answer r v (if v = 0 then Code.done else Code.semDenied))

/-- A semaphore is released (15 R366, R368). -/
def State.semFree (s : State) (n : Fin 32) : State := (s.setReg .sm (4 * n.val) 0).notifyBoth 5 Code.done n.val

/-- A write to SM_SEM[n] (15 R366). -/
def State.semWrite (s : State) (n : Fin 32) (r : Requester) (v : Word) : State :=
  if v = 0 && (s.reg .sm (4 * n.val)).toNat = ownerCode r then s.semFree n else s.orReg .sm 0x84 1

/-- SM_SEM_WRITE (15 R366). -/
def execSmSemWrite (n : Fin 32) (r : Requester) (v : BitVec 32) (s : State) : Result := .next (s.semWrite n r v)

/-- A write to SM_FORCE (15 R366): one event record; a semaphore that was owned is released. -/
def State.semForce (s : State) (n : Fin 32) : State :=
  let s1 := s.post { status := Code.done, inj := false, src := srcCode 3 0 0 17, step := 0xFFFFFFFF, layer := 0, cycle := s.cycle,
                     addr := 0, detail := [] }
  if s1.reg .sm (4 * n.val) = 0 then s1 else s1.semFree n

/-- SM_FORCE (15 R366). -/
def execSmForce (n : Fin 32) (s : State) : Result := .next (s.semForce n)

end Sys2Proof.Machine
end

