-- ==== Sys2Proof/Machine/Shake.lean ====
section
/-!
DEFINITION. SHAKE256 of FIPS 202, which 18 R425 to R430 name (PRESUMED: taken from the standard, log entry 12). A state is 25 lanes of 64
bits, five rows of five. Nothing is tabulated: the round constants come from the standard's shift register, and the rotations from the
walk along which lanes move.
-/
namespace Sys2Proof.Machine

/-- Successive states of the shift register of the round constants: multiplication by x modulo x^8 + x^6 + x^5 + x^4 + 1. -/
def shiftRun : Nat → Nat → List Nat
  | 0, _ => []
  | n + 1, r => r :: shiftRun n (if r < 128 then 2 * r else (2 * r) ^^^ 0x171)

/-- The constant of round i: bit 2^j − 1 is the register's output at time j + 7 i. -/
def roundWord (i : Nat) : BitVec 64 :=
  ((shiftRun 7 (((shiftRun 169 1)[7 * i]?).getD 0)).zip (List.range 7)).foldl
    (fun w p => if p.1 % 2 = 1 then w ||| BitVec.ofNat 64 (2 ^ (2 ^ p.2 - 1)) else w) 0

/-- The walk of the 24 moving lanes: at its t-th step the lane in column x of row y goes to column y of row 2x + 3y, turned left by
(t + 1)(t + 2) / 2. -/
def lanesMoved (a : List (BitVec 64)) : Nat → Nat → Nat → Nat → List (BitVec 64) → List (BitVec 64)
  | 0, _, _, _, b => b
  | n + 1, t, x, y, b =>
    let z := (2 * x + 3 * y) % 5
    lanesMoved a n (t + 1) y z (b.set (y + 5 * z) ((a.getD (x + 5 * y) 0).rotateLeft ((t + 1) * (t + 2) / 2 % 64)))

/-- XOR of two rows, or of two states. -/
def xorLanes (p q : List (BitVec 64)) : List (BitVec 64) := p.zipWith (· ^^^ ·) q

/-- A round: every column takes the parities of its neighbours, the lanes move, each row is mixed, and the constant enters lane 0. -/
def spongeRound (a : List (BitVec 64)) (i : Nat) : List (BitVec 64) :=
  let parity := (chunks 5 a).foldl xorLanes (List.replicate 5 0)
  let turn := (parity.rotateLeft 1).map (·.rotateLeft 1)
  let m := (chunks 5 a).flatMap (fun r => xorLanes r (xorLanes (parity.rotateRight 1) turn))
  let mix (r : List (BitVec 64)) : List (BitVec 64) :=
    xorLanes r (((r.rotateLeft 1).zip (r.rotateLeft 2)).map (fun p => p.2 &&& ~~~p.1))
  match (chunks 5 (lanesMoved m 24 0 1 0 m)).flatMap mix with
  | l :: ls => (l ^^^ roundWord i) :: ls
  | [] => []

/-- The permutation: 24 rounds. -/
def spongeStep (a : List (BitVec 64)) : List (BitVec 64) := (List.range 24).foldl spongeRound a

/-- Bytes taken in or given out per permutation. -/
def shakeRate : Nat := 136

/-- Take in a block of 136 bytes. -/
def takeIn (a : List (BitVec 64)) (bs : List Byte) : List (BitVec 64) :=
  spongeStep (xorLanes a ((chunks 8 bs).map (fun b => BitVec.ofNat 64 (leNat b)) ++ List.replicate 8 0))

/-- Give out `n` blocks. -/
def giveOut : Nat → List (BitVec 64) → List Byte
  | 0, _ => []
  | n + 1, a => (a.take 17).flatMap (fun l => leBytes 8 l.toNat) ++ (if n = 0 then [] else giveOut n (spongeStep a))

/-- SHAKE256 with an output of `n` bytes: the message is followed by the bits 1111, a 1, zeros, and a last 1 that ends a block. -/
def shake256 (msg : List Byte) (n : Nat) : List Byte :=
  let room := shakeRate - msg.length % shakeRate
  let last := (List.range room).map (fun i => (if i = 0 then (0x1F : Byte) else 0) ||| (if i + 1 = room then 0x80 else 0))
  (giveOut (ceilDiv n shakeRate) ((chunks shakeRate (msg ++ last)).foldl takeIn (List.replicate 25 0))).take n

end Sys2Proof.Machine
end

