-- ==== Sys2Proof/Machine/Power.lean ====
section
/-!
DEFINITION. Supply, resets, clock steps, power and thermal loops, boot, measurement, debug policy and pins (18 R415 to R432,
19 R435 to R439).
-/
namespace Sys2Proof.Machine

/-- Change the power unit's state, the security block's. -/
def State.modPw (s : State) (f : PwSt → PwSt) : State := { s with pw := f s.pw }
def State.modSc (s : State) (f : ScSt → ScSt) : State := { s with sc := f s.sc }

/-- PM_SUP.WARN. -/
def State.warn (s : State) : Bool := Word.bit (s.reg .pmX 0) 31

/-- CAP_P; CAP_T of a die. -/
def State.capP (s : State) : Nat := fieldOf (s.reg .pmX 8) 4 0
def State.capT (s : State) (d : Fin 2) : Nat := fieldOf (s.reg (.pmD d) 0) 20 16

/-- Set a field of a register. -/
def State.setFld (s : State) (b : Blk) (o hi lo v : Nat) : State := s.setReg b o (putField (s.reg b o) hi lo v)

/-- The step that a sett's caps allow (18 R422). -/
def State.stepMax (s : State) (u : SettId) : Nat :=
  if s.pw.warnCap then 0
  else min (fieldOf (s.reg (.pmS u) 0) 4 0) (min (s.capT (dieIx u)) s.capP)

/-- PM_SCLK.CUR. -/
def State.curStep (s : State) (u : SettId) : Nat := fieldOf (s.reg (.pmS u) 0) 20 16

/-- The setts of a die. -/
def settsOf (d : Fin 2) : List SettId := (List.finRange 128).map (fun n => settOf d.val n.val)

/-- Rail voltage in mV for a highest step (18 R422). -/
def railOf (step : Nat) : Nat := (600000 + 15625 * step) / 1000

/-- Set the rail of a die to what its highest step asks for. -/
def State.setRail (s : State) (d : Fin 2) : State :=
  s.setFld (.pmD d) 0 9 0 (railOf ((settsOf d).foldl (fun n u => max n (s.curStep u)) 0))

/-- Every sett that a cap now holds lower takes its lower step at once, and then the rail of its die may fall (18 R422). -/
def State.lowerSteps (s : State) : State :=
  (List.finRange 2).foldl (fun s d =>
    let us := (settsOf d).filter (fun u => decide (s.stepMax u < s.curStep u))
    if us.isEmpty then s
    else (us.foldl (fun s u => s.setFld (.pmS u) 0 20 16 (s.stepMax u)) s).setRail d) s

/-- RAIL_SETTLED (18 R422): the rail of a die has reached the value that its rising setts need. -/
def execRailSettled (d : Fin 2) (s : State) : Result :=
  .next (((settsOf d).foldl (fun s u => if s.curStep u < s.stepMax u then s.setFld (.pmS u) 0 20 16 (s.stepMax u) else s) s).setRail d)

/-- A module reset (18 R418, R419): everything at its reset values, but the input's own state, fuses, memory contents, what
lies outside the module, and the commands that wait. A blow in progress leaves its bit blown or not (18 R426). -/
def State.moduleReset (s : State) (cause : Nat) : State :=
  let c := if s.pw.held then min cause (fieldOf (s.reg .pmX 0x10) 3 0) else cause
  let ctrs := match s.sc.blow with
    | some k => s.sc.ctrs.set k.val (s.sc.ctrs[k.val] + Config.freeValue s.freeCtr % 2)
    | none => s.sc.ctrs
  let w := s.warn
  let s1 : State :=
    { State.reset with pending := s.pending, hbm := s.hbm, burrow := s.burrow, remote := s.remote, tx := s.tx, flash := s.flash,
                       freeCtr := s.freeCtr + 2,
                       pw := { PwSt.reset with held := true, pinLow := s.pw.pinLow, lost := s.pw.held && s.pw.lost },
                       sc := { ScSt.reset with ctrs := ctrs, nonce := s.freeCtr + 1 } }
  (s1.setReg .pmX 0x10 (BitVec.ofNat 32 c)).putBit .pmX 0 31 w

/-- What a supply warning does (18 R417). -/
def State.supplyWarn (s : State) (inj : Bool) : State :=
  if s.warn then s
  else
    let s1 := (s.orReg .pmX 0 0xC0000000).raise .supply
    let s2 := s1.post { status := Code.supplyWarn, inj := inj, src := srcCode 3 0 0 8, step := 0xFFFFFFFF, layer := 0, cycle := s.cycle,
                        addr := 0, detail := [] }
    let s3 := s2.notifyBoth 4 Code.supplyWarn 0
    if Word.bit (s3.reg .pmX 0) 29 then (s3.modPw (fun p => { p with warnCap := true })).lowerSteps else s3

/-- SUPPLY_WARNING (18 R417). -/
def execSupplyWarning (s : State) : Result := .next (s.supplyWarn false)

/-- SUPPLY_WARNING_CLEAR (18 R417). -/
def execSupplyWarningClear (s : State) : Result :=
  .next ((s.putBit .pmX 0 31 false).modPw (fun p => { p with warnCap := false }))

/-- SUPPLY_RESET (18 R416). -/
def execSupplyReset (s : State) : Result := .next (s.moduleReset 1)

/-- OVER_VOLTAGE_RESET (18 R416). -/
def execOverVoltageReset (s : State) : Result := .next (s.moduleReset 2)

/-- MEMORY_HOLD_LOSS (18 R416, R418): what HBM and the Burrow held is lost, as if nothing had written them. -/
def execMemoryHoldLoss (s : State) : Result :=
  .next { s with hbm := [], burrow := [], pw := { s.pw with lost := true } }

/-- POWER_ON_RESET (18 R419): the input rises past 37.0 V from below 30.0 V. -/
def execPowerOnReset (s : State) : Result :=
  .next (if s.pw.lost then (s.moduleReset 0).modPw (fun p => { p with lost := true }) else s)

/-- RESET_N (19 R435): held low for at least 1 µs, or released. -/
def execResetN (low : Bool) (s : State) : Result :=
  .next (if low then (s.modPw (fun p => { p with pinLow := true })).moduleReset 4 else s.modPw (fun p => { p with pinLow := false }))

/-- RESET_RELEASE (18 R418, R419, R425). -/
def execResetRelease (s : State) : Result :=
  .next (if s.pw.held && !s.pw.pinLow then
    ((s.modPw (fun p => { p with held := false })).modSc (fun c => { c with stage := .waitsup })).putBit .pmX 0x10 8 (!s.pw.lost)
  else s)

/-- A write to PM_RST_CTL.KEY (18 R420). -/
def State.rstCtl (s : State) (key : Nat) : State := if key = 0xA5C3 then s.modPw (fun p => { p with swDue := true }) else s

/-- PM_RST_CTL (18 R420). -/
def execPmRstCtl (key : BitVec 16) (s : State) : Result := .next (s.rstCtl key.toNat)

/-- SOFTWARE_RESET (18 R420): 100 µs after the key was written. -/
def execSoftwareReset (s : State) : Result := .next (if s.pw.swDue then s.moduleReset 5 else s)

/-- The fast limiter (18 R423). -/
def State.fastLimit (s : State) : State := ((s.setFld .pmX 8 4 0 0).putBit .pmX 8 8 true).lowerSteps

/-- Is an injection point of the power detectors fired (18 Table 18-8)? -/
def State.injPower (s : State) (p : Nat) (sel : Nat → Bool) : Bool × State :=
  match s.injStep .injX p sel 1 with
  | (some _, s1) => (true, s1)
  | (none, s1) => (false, s1)

/-- POWER_MEASUREMENT (18 R423): the input power of 1 µs in W, and the input voltage in units of 10 mV. -/
def execPowerMeasurement (w vin : BitVec 16) (s : State) : Result :=
  .next (
    let (r, s1) := s.injPower 17 (fun x => x == 0)
    if r then s1.moduleReset 1
    else
      let (a, s2) := s1.injPower 16 (fun x => x == 0)
      let (f, s3) := s2.injPower 18 (fun x => x == 0)
      let s4 := (s3.setFld .pmX 4 15 0 w.toNat).setFld .pmX 0 15 0 vin.toNat
      let s5 := if a then s4.supplyWarn true else s4
      if f || decide (s5.pw.budget < (w.toNat : Int)) then s5.fastLimit else s5)

/-- CAP_T of a die is set to 0 (18 R424). -/
def State.thermalLimit (s : State) (d : Fin 2) : State := (s.setFld (.pmD d) 0 20 16 0).lowerSteps

/-- The thermal part of a tick for one die, T its hottest sensor: 1,680 is the junction limit of 105 °C in 1/16 °C (18 R424). -/
def State.thermalTick (s : State) (d : Fin 2) (t : Int) : State :=
  let target : Int := (fieldOf (s.reg .pmX 0xC) 23 16 : Nat) * 16
  let cap := s.capT d
  if 1680 ≤ t then s.setFld (.pmD d) 0 20 16 0
  else if target ≤ t then s.setFld (.pmD d) 0 20 16 (cap - 1)
  else if t < target - 32 then s.setFld (.pmD d) 0 20 16 (min 16 (cap + 1))
  else s

/-- A temperature in 1/16 °C. -/
def tempOf (w : BitVec 16) : Int := signedOf 16 w.toNat

/-- POWER_LOOP_TICK (18 R423, R424): the average power of the latest tick in W, and every sensor's reading; 1,840 is 115 °C. -/
def execPowerLoopTick (avg : BitVec 16) (t : Temps) (s : State) : Result :=
  .next (
    let (trip, s0) := (List.range 4).foldl (fun (acc : Bool × State) k =>
      match acc.2.injPower 20 (fun x => x == k) with
      | (f, s) => (acc.1 || f, s)) (false, s)
    if trip || (t.setts ++ t.die ++ t.thehan ++ [t.xalor]).any (fun w => decide (1840 ≤ tempOf w)) then s0.moduleReset 3
    else
      let ticks := (avg.toNat :: s0.pw.ticks).take 9
      let b : Int := min 2950 (26000 - (ticks.foldl (· + ·) 0 : Nat))
      let s1 := (s0.modPw (fun p => { p with ticks := ticks, budget := b })).setFld .pmX 4 31 16 avg.toNat
      let s2 := s1.putBit .pmX 8 8 false
      let p : Int := avg.toNat
      let cap := s2.capP
      let s3 := if 95 * b < 100 * p then s2.setFld .pmX 8 4 0 (cap - 1)
        else if 100 * p < 85 * b then s2.setFld .pmX 8 4 0 (min 16 (cap + 1)) else s2
      let s4 := (t.setts.zip (List.range t.setts.length)).foldl (fun s q =>
        s.setFld (.pmS ⟨q.2 % 256, Nat.mod_lt _ (by decide)⟩) 4 15 0 q.1.toNat) s3
      let hot (d : Fin 2) : Int :=
        ((t.setts.zip (List.range t.setts.length)).filter (fun q => q.2 / 128 == d.val)).foldl (fun m q => max m (tempOf q.1))
          (max (tempOf (t.die.getD d.val 0)) (tempOf (t.thehan.getD d.val 0)))
      let s5 := (List.finRange 2).foldl (fun s d =>
        (s.setFld (.pmD d) 4 15 0 (twosOf 16 (hot d))).thermalTick d (max (hot d) (tempOf t.xalor))) s4
      let s6 := s5.setFld .pmX 0xC 15 0 (twosOf 16 (max (max (hot 0) (hot 1)) (tempOf t.xalor)))
      let s7 := (List.range 4).foldl (fun (s : State) k =>
        match s.injPower 19 (fun x => x == k) with
        | (true, s) => if k < 2 then s.thermalLimit ⟨k % 2, Nat.mod_lt _ (by decide)⟩ else (s.thermalLimit 0).thermalLimit 1
        | (false, s) => s) s6
      let s8 := s7.lowerSteps
      if s8.capP < 16 || s8.capT 0 < 16 || s8.capT 1 < 16 then s8.bump .pmX 0x18 1 else s8)

/-- THERMAL_TRIP (18 R424). -/
def execThermalTrip (s : State) : Result := .next (s.moduleReset 3)

/-- THERMAL_LIMIT (18 R424): a sensor of a die, or of its Thehan dies, or of Xalor, reaches 105 °C. -/
def execThermalLimit (d : Fin 2) (s : State) : Result := .next (s.thermalLimit d)

/-- The fuse map record (18 Table 18-7), as this unit's fuses hold it (log entry 5): physical setts 128 to 135 of each die and
arrays 96 to 99 of each sett absent, no Viaduct lane failed, nothing repaired. -/
def fuseMap : List Byte :=
  let die : List Byte := (List.range 8).map (fun k => BitVec.ofNat 8 (128 + k)) ++
    (List.range 136).flatMap (fun p => if p < 128 then [96, 97, 98, 99] else [0xFF, 0xFF, 0xFF, 0xFF])
  die ++ die ++ List.replicate 16 0xFF ++ List.replicate 416 0

/-- Fuse fields as shipped (18 R430, Table 18-7; log entry 5). -/
def fuseLifecycle : Nat := 1
def fuseDbg : Nat := 1
def fuseInj : Nat := 1

/-- The root-key digest in the fuses. -/
def rootDigest : List Byte := (List.range 32).map (fun i => BitVec.ofNat 8 (Config.rootDigest i))

/-- The fuse summary (18 Table 18-7). -/
def fuseSum (ctrs : List Nat) : List Byte :=
  rootDigest ++ ctrs.map (fun n => BitVec.ofNat 8 n) ++
  [BitVec.ofNat 8 fuseLifecycle, BitVec.ofNat 8 fuseDbg, BitVec.ofNat 8 fuseInj, 0] ++ List.replicate 24 0

/-- Extend the measurement (18 R427). -/
def State.extend (s : State) (t svn : Nat) (d : List Byte) : State :=
  if 256 ≤ s.sc.log.length then s.modSc (fun c => { c with logFull := true })
  else s.modSc (fun c => { c with m := shake256 (c.m ++ leBytes 2 t ++ d) 64, log := c.log ++ [⟨t, svn, s.cycle, d⟩] })

/-- WAITSUP (18 R425): WARN has been 0 for 10 ms; BRINGUP runs. -/
def execWaitsup (s : State) : Result :=
  .next (if s.pw.held || s.warn || (s.sc.stage ≠ .rom && s.sc.stage ≠ .waitsup) then s
  else
    let s1 := (s.modSc (fun c => { c with stage := .bringup, keyed := true })).extend 1 0
      ((List.range 64).map (fun i => BitVec.ofNat 8 (Config.romDigest i)))
    ((s1.extend 2 0 (shake256 (fuseMap ++ fuseSum s1.sc.ctrs.toList) 64)).setRail 0).setRail 1)

/-- Bytes of a boot image or a token where it lies. -/
abbrev Reader := Nat → Nat → List Byte

/-- Verification of a firmware image (18 R426): a header field outside its range in Table 18-3 makes the header malformed (log entry 34). -/
def verifyImage (rd : Reader) (ctr0 : Nat) : Status :=
  let f (o n : Nat) : Nat := leNat (rd o n)
  let len := f 12 4
  if f 0 4 ≠ 0x4B464D49 || f 4 2 ≠ 1 || f 6 2 ≠ 0 || f 5349 2843 ≠ 0 || len < 2 ^ 20 || 2 ^ 23 < len ||
      64 < f 8 4 || f 12 4 ≤ f 16 8 then Code.bounds
  else if shake256 (rd 88 1952) 32 ≠ rootDigest || !Config.mlDsaVerify (rd 88 1952) (rd 0 2040) (rd 2040 3309) ||
      shake256 (rd 8192 len) 64 ≠ rd 24 64 || f 8 4 < ctr0 then Code.authFail
  else Code.done

/-- A verified image is started (18 R425). -/
def State.bootImage (s : State) (rd : Reader) : State :=
  let len := leNat (rd 12 4)
  let s1 := s.extend 3 (leNat (rd 8 4)) (shake256 (rd 0 2040) 64)
  { s1 with sram := (Mem.store [] 0 (rd 0 (8192 + len))) }.modSc (fun c => { c with stage := .run })

/-- VERIFY (18 R425, R426): slot A, then slot B; `errA` and `errB` say that a slot's flash could not be read. -/
def execVerify (errA errB : Bool) (s : State) : Result :=
  .next (if s.sc.stage ≠ .bringup then s
  else
    let rd (base : Nat) : Reader := fun o n => s.flash.load (base + o) n
    let c := s.sc.ctrs[0]
    let a := if errA then Code.busErr else verifyImage (rd 0) c
    if a = Code.done then s.bootImage (rd 0)
    else
      let b := if errB then Code.busErr else verifyImage (rd 0x2000000) c
      let s1 := s.modSc (fun x => { x with errA := a, errB := b })
      if b = Code.done then (s1.bootImage (rd 0x2000000)).modSc (fun x => { x with slotB := true })
      else s1.modSc (fun x => { x with stage := .recovery }))

/-- SC_ADDR. -/
def State.scAddr (s : State) : Nat := (s.reg .sc 8).toNat + fieldOf (s.reg .sc 0xC) 15 0 * 2 ^ 32

/-- A write of 1 to SC_CTL.BOOT (18 R425). -/
def State.scBoot (s : State) : State :=
  if s.sc.stage ≠ .recovery then s
  else
    let a := s.scAddr
    let rd : Reader := fun o n => s.hbm.load (a + o) n
    let c := if a % 4096 ≠ 0 || !inHbm a (8192 + 2 ^ 23) && !inHbm a (8192 + leNat (rd 12 4)) then Code.bounds
      else verifyImage rd s.sc.ctrs[0]
    if c = Code.done then (s.bootImage rd).modSc (fun x => { x with recovery := true })
    else s.modSc (fun x => { x with errA := c })

/-- SC_CTL_BOOT (18 R425). -/
def execScCtlBoot (s : State) : Result := .next s.scBoot

/-- SC_IDDIG (18 R428). -/
def idPublic : List Byte := (List.range 1952).map (fun i => BitVec.ofNat 8 (Config.idPublic i))
def idDigest : List Byte := shake256 idPublic 64

/-- SC_DBG_NONCE: free bytes (log entry 1). -/
def State.nonce (s : State) : List Byte := Config.freeBytes s.sc.nonce 32

/-- Is a debug token valid (18 R430)? -/
def State.tokenOk (s : State) (rd : Reader) : Bool :=
  leNat (rd 0 4) == 0x4B444247 && leNat (rd 4 28) == 0 && rd 32 64 == idDigest && rd 96 32 == s.nonce &&
  shake256 (rd 128 1952) 32 == rootDigest && Config.mlDsaVerify (rd 128 1952) (rd 0 2080) (rd 2080 3309)

/-- An event record of the security block. -/
def State.scRecord (s : State) (status : Status) (inj : Bool) : State :=
  s.post { status := status, inj := inj, src := srcCode 3 0 0 21, step := 0xFFFFFFFF, layer := 0, cycle := s.cycle, addr := 0, detail := [] }

/-- A write of 1 to SC_CTL.UNLOCK (18 R430, R431): the nonce is renewed either way. -/
def State.scUnlock (s : State) : State :=
  if s.sc.locked then s
  else
    let a := s.scAddr
    let rd : Reader := fun o n => s.hbm.load (a + o) n
    let (inj, s1) := s.injPower 21 (fun x => x == 0)
    let ok := a % 4096 = 0 && inHbm a 5389 && s.tokenOk rd && !inj
    let s2 := if ok then (s1.modSc (fun c => { c with unlocked := true })).extend 4 0 (shake256 (rd 0 128) 64)
      else s1.scRecord Code.authFail inj
    { s2 with sc := { s2.sc with nonce := s2.freeCtr }, freeCtr := s2.freeCtr + 1 }

/-- SC_CTL_UNLOCK (18 R430). -/
def execScCtlUnlock (s : State) : Result := .next s.scUnlock

/-- A write to SC_RB_BUMP (18 R426, R431). -/
def State.rbBump (s : State) (r : Requester) (k : Fin 4) (key : Nat) : State :=
  if key ≠ 0x4B4C then s
  else if r ≠ .mgmt || s.warn || s.sc.ctrs[k.val] = 64 || s.sc.blow.isSome || s.sc.locked then s.orReg .sc 0 0x40000
  else s.modSc (fun c => { c with blow := some k })

/-- SC_RB_BUMP (18 R426). -/
def execScRbBump (r : Requester) (k : Fin 4) (key : BitVec 16) (s : State) : Result := .next (s.rbBump r k key.toNat)

/-- COUNTER_ADVANCE_DONE (18 R426). -/
def execCounterAdvanceDone (s : State) : Result :=
  .next (match s.sc.blow with
    | none => s
    | some k => s.modSc (fun c => { c with ctrs := c.ctrs.set k.val (c.ctrs[k.val] + 1), blow := none }))

/-- A write to SC_EXT_CTL (18 R427). -/
def State.extCtl (s : State) (r : Requester) (t : Nat) : State :=
  if r = .mgmt && decide (0x100 ≤ t) then
    s.extend t 0 ((List.range 16).flatMap (fun i => leBytes 4 (s.reg .sc (0x80 + 4 * i)).toNat))
  else s

/-- SC_EXT_CTL (18 R427). -/
def execScExtCtl (r : Requester) (t : BitVec 16) (s : State) : Result := .next (s.extCtl r t.toNat)

/-- Is debug access permitted (18 R430)? -/
def State.debugOk (s : State) : Bool := fuseDbg == 2 || (fuseDbg == 1 && s.sc.unlocked)

/-- Is injection permitted (18 R430, R431)? -/
def State.injOk (s : State) : Bool :=
  !s.sc.locked && (fuseInj == 1 || (fuseInj == 2 && (s.sc.unlocked || fuseDbg == 2)))

/-- Key of an INJ_CTL register in register space (17 Tables 17-1, 17-2, 17-11). -/
def isInjCtl (k : Nat) : Bool :=
  let o (base points : Nat) : Bool := decide (base + 0x100 ≤ k) && decide (k < base + 0x100 + 16 * points) && k % 16 == 0
  if 0x80000000 ≤ k then o (k - k % 0x800000 + 0x1C000) 6
  else if 0x01000000 ≤ k && k < 0x01200000 then o (k - k % 0x100000 + 0x14000) 8
  else o 0x24000 32

/-- Disarm the points of which `p` holds of the key of INJ_CTL (17 R412). -/
def State.disarm (s : State) (p : Nat → Bool) : State :=
  let l := s.regs.act.map (fun e => if isInjCtl e.1 && p e.1 then (e.1, e.2 &&& 0x6FFFFFFF) else e)
  { s with regs := { s.regs with act := l.filter (fun e => !(isInjCtl e.1 && e.2 == 0)) }, inj := s.inj.filter (fun e => !p e.1) }

/-- A write to INJ_GLOBAL.ALLOW (17 R412, 18 R430). -/
def State.injAllow (s : State) (v : Bool) : State :=
  if v then
    if !s.injOk then s
    else
      let s1 := s.setReg .injX 0 1
      if s.sc.injEver then s1 else (s1.modSc (fun c => { c with injEver := true })).extend 5 0 (List.replicate 64 0)
  else (s.setReg .injX 0 0).disarm (fun _ => true)

/-- INJ_GLOBAL_ALLOW (17 R412). -/
def execInjGlobalAllow (v : Bool) (s : State) : Result := .next (s.injAllow v)

/-- JTAG_INSTRUCTION (19 R438, 18 R430): an instruction outside the boundary-scan set selects BYPASS unless debug is open. -/
def execJtagInstruction (i : JtagInstr) (s : State) : Result :=
  .next { s with jtag := some (match i with
    | .other ir => if s.debugOk then .other ir else .bypass
    | x => x) }

/-- ALERT_N low; READY high (19 R435). -/
def State.alertLow (s : State) : Bool := s.warn || s.pw.held
def State.ready (s : State) : Bool := !s.pw.held && s.sc.stage == .run

/-- SC_STATUS.STAGE code. -/
def Stage.code : Stage → Nat
  | .rom => 0
  | .waitsup => 1
  | .bringup => 2
  | .verify => 3
  | .run => 4
  | .recovery => 5

/-- The view of SC_STATUS (18 Table 18-11); BUMPREF stands in the register. -/
def State.scStatus (s : State) : Word :=
  let c := s.sc
  BitVec.ofNat 32 (c.stage.code * 2 ^ 29 + fuseLifecycle * 2 ^ 27 + fuseDbg * 2 ^ 25 + fuseInj * 2 ^ 23 + flagBit c.unlocked 22 +
    flagBit c.injEver 21 + flagBit c.recovery 20 + flagBit c.logFull 19 + bitsOf (s.reg .sc 0).toNat 18 18 * 2 ^ 18 + flagBit c.locked 17 +
    flagBit c.slotB 16 + c.errB * 256 + c.errA)

/-- The data register that a scan of the TAP reads in IDCODE (19 R438): version, part number, manufacturer, bit 0 set; none where
another one is selected. -/
def State.tapIdcode (s : State) : Option Word := if s.jtag = some .idcode then some 0x17200B4F else none

end Sys2Proof.Machine
end

