-- ==== Sys2Proof/Machine/Viaduct.lean ====
section
/-!
DEFINITION. Viaduct: ports, flits with replay and credits, work queues, messages and reduction gates (16 R377 to R393).
-/
namespace Sys2Proof.Machine

/-- Change the Viaduct's state, a port, a gate. -/
def State.modVd (s : State) (f : VdSt → VdSt) : State := { s with vd := f s.vd }
def State.modPort (s : State) (p : Fin 8) (f : VPort → VPort) : State :=
  s.modVd (fun v => { v with ports := v.ports.set p.val (f v.ports[p.val]) })
def State.modGate (s : State) (g : Fin 64) (f : Gate → Gate) : State :=
  s.modVd (fun v => { v with gates := v.gates.set g.val (f v.gates[g.val]) })
def State.vport (s : State) (p : Fin 8) : VPort := s.vd.ports[p.val]
def State.gate (s : State) (g : Fin 64) : Gate := s.vd.gates[g.val]

/-- VD_RANKMAP of a rank: its route (16 R386): none where it has none, else none for LOCAL or a port. -/
def State.route (s : State) (r : Nat) : Option (Option (Fin 8)) :=
  let v := s.reg .vd (0x1000 + 4 * r)
  if 1024 ≤ r || !Word.bit v 31 then none
  else if Word.bit v 30 then some none
  else some (some ⟨fieldOf v 2 0 % 8, Nat.mod_lt _ (by decide)⟩)

/-- GEN of a rank. -/
def State.rankGen (s : State) (r : Nat) : Nat := fieldOf (s.reg .vd (0x1000 + 4 * r)) 11 8

/-- Is a rank hosted here? -/
def State.hosted (s : State) (r : Nat) : Bool :=
  let v := s.reg .vd 0
  r == fieldOf v 9 0 || (Word.bit v 31 && r == fieldOf v 25 16)

/-- The own rank, the source of every message sent. -/
def State.rank0 (s : State) : Nat := fieldOf (s.reg .vd 0) 9 0

/-- An event record of Viaduct. -/
def State.vdRecord (s : State) (unit status step layer addr : Nat) (inj : Bool := false) : State :=
  s.post { status := status, inj := inj, src := srcCode 3 0 unit 18, step := step, layer := layer, cycle := s.cycle, addr := addr,
           detail := [] }

/-- The 256 bytes of a flit (16 Table 16-1). -/
def flitBytes (ty seq crvc : Nat) (nak : Bool) (ack crcnt : Nat) (f : OutFlit) : List Byte :=
  let head := leBytes 2 (ty * 4096 + seq % 4096) ++ leBytes 2 (crvc * 2 ^ 13 + flagBit nak 12 + ack % 4096) ++ leBytes 1 crcnt ++
    leBytes 1 (f.sgen * 4 + f.vc) ++ leBytes 2 f.src ++ leBytes 2 f.dst ++ leBytes 2 0
  let body := head ++ f.payload.take 240 ++ List.replicate (240 - f.payload.length) 0
  body ++ leBytes 4 (crc32 body)

/-- Nothing to carry but ACK, NAK and credits. -/
def idleFlit : OutFlit := ⟨0, 0, 0, 0, 0, []⟩

/-- Send an IDLE flit. -/
def State.sendIdle (s : State) (p : Fin 8) (crvc crcnt : Nat) (nak : Bool) : State :=
  s.emit (.viaduct p.val 0 (flitBytes 0 0 crvc nak (s.vport p).rxAck crcnt idleFlit))

/-- Send the waiting flits that have credits, in order on each virtual channel, at most 1,024 unacknowledged (16 R380, R381). -/
def State.flush (p : Fin 8) : Nat → State → State
  | 0, s => s
  | n + 1, s =>
    let t := s.vport p
    match t.waiting.find? (fun f => decide (0 < t.credits.toList.getD f.vc 0)) with
    | none => s
    | some f =>
      if !t.up || t.training || 1024 ≤ t.held.length then s
      else
        let bs := flitBytes f.ty t.txSeq 0 false t.rxAck 0 f
        State.flush p n ((s.modPort p (fun t =>
          { t with waiting := t.waiting.erase f, txSeq := (t.txSeq + 1) % 4096, held := t.held ++ [(t.txSeq, bs)],
                   credits := t.credits.set! f.vc (t.credits.toList.getD f.vc 0 - 1) })).emit (.viaduct p.val f.ty bs))

/-- Queue flits on a port and send what can go. -/
def State.enqueue (s : State) (p : Fin 8) (fs : List OutFlit) : State :=
  let s1 := s.modPort p (fun t => { t with waiting := t.waiting ++ fs })
  State.flush p ((s1.vport p).waiting.length) s1

/-- The flits of a message: HEAD with the entry's fields, then its bytes 240 at a time, the last LAST. -/
def messageFlits (vc src dst sgen : Nat) (entry data : List Byte) : List OutFlit :=
  let cs := chunks 240 data
  ⟨1, vc, src, dst, sgen, entry⟩ ::
    (cs.zip (List.range cs.length)).map (fun c => ⟨if c.2 + 1 = cs.length then 3 else 2, vc, src, dst, sgen, c.1⟩)

/-- A retrain of a port (16 R380). -/
def State.retrain (s : State) (p : Fin 8) : State :=
  (s.modPort p (fun t => { t with up := false, training := true, fails := 0, naks := 0, spoil := false })).bump .vd (0x110 + 0x20 * p.val) 1

/-- A message's fields (16 Table 16-2). -/
def eOp (e : List Byte) : Nat := blk e 0 1
def eRank (e : List Byte) : Nat := blk e 2 2
def eLen (e : List Byte) : Nat := blk e 4 4
def eSrc (e : List Byte) : Nat := blk e 8 6
def eDst (e : List Byte) : Nat := blk e 16 6
def eStep (e : List Byte) : Nat := blk e 32 4
def eGate (e : List Byte) : Nat := blk e 36 1
def eSt (e : List Byte) : Nat := blk e 40 6

/-- An answer to a message (16 R383): a COMPL to its sender; none over a port that is down, whose peer has completed the entry
(16 R379; log entry 32). -/
def State.compl (s : State) (m : VMsg) (status : Status) : State :=
  match m.port with
  | none => s.modVd (fun v => { v with done := v.done ++ [(m.orig.1, m.orig.2, status)] })
  | some p =>
    let p : Fin 8 := ⟨p % 8, Nat.mod_lt _ (by decide)⟩
    if (s.vport p).up || (s.vport p).training then
      s.enqueue p [⟨4, 2, m.dst, m.src, s.rankGen m.dst, leBytes 1 status⟩]
    else s

/-- Does a signal target keep its reserved bits 0, and name a counter of a sett below 32? -/
def sigTargetOk (v : Nat) : Bool := bitsOf v 30 15 == 0 && (bitOf v 14 || decide (bitsOf v 5 0 < 32))

/-- Does a range lie in HBM, the Burrow or a sett window (16 Table 16-2)? -/
def State.vdRange (s : State) (a n : Nat) (wr : Bool) : Bool :=
  (pieces a n).all (fun p => match s.place p.1 wr with
    | some (.remote _ _ _) => false
    | some _ => true
    | none => false)

/-- The receive window of a WRITE (16 R384). -/
def State.rwinOk (s : State) (a n : Nat) : Bool :=
  (List.range 16).any (fun w =>
    let o := 0x800 + 16 * w
    let base := (s.reg .vd o).toNat + fieldOf (s.reg .vd (o + 4)) 15 0 * 2 ^ 32
    let size := (s.reg .vd (o + 8)).toNat * 4096
    Word.bit (s.reg .vd (o + 12)) 31 && decide (base ≤ a) && decide (a + n ≤ base + size)) && s.vdRange a n true

/-- The HEAD of a message arrives: a WRITE outside the receive windows is answered BOUNDS and its bytes are discarded (16 R384). -/
def State.headIn (s : State) (m : VMsg) : State :=
  if m.vc = 0 && !s.rwinOk (eDst m.entry) (eLen m.entry) then
    let s1 := s.compl m Code.bounds
    if m.full then s1 else s1.modVd (fun v => { v with msgs := v.msgs ++ [{ m with cls := some .drop }] })
  else s.modVd (fun v => { v with msgs := v.msgs ++ [m] })

/-- A flit of a message that this module takes (16 R386): its bytes join the message. -/
def State.flitIn (s : State) (p : Fin 8) (ty vc src dst : Nat) (payload : List Byte) : State :=
  if ty = 1 then
    s.headIn { port := some p.val, orig := (0, 0), src := src, dst := dst, vc := vc, entry := payload.take 64, data := [],
               full := decide (eLen payload = 0), cls := none, checked := 0, flt := none }
  else if ty = 2 || ty = 3 then
    let mine (m : VMsg) : Bool := m.port == some p.val && m.vc == vc && !m.full
    match s.vd.msgs.find? mine with
    | none => s
    | some m =>
      let m1 := { m with data := (m.data ++ payload).take (eLen m.entry), full := decide (ty = 3) }
      s.modVd (fun v => { v with msgs :=
        if m1.full && m.cls == some .drop then v.msgs.erase m else v.msgs.map (fun x => if x = m then m1 else x) })
  else s

/-- Distance of sequence numbers modulo 4,096. -/
def seqDist (a b : Nat) : Nat := (a + 4096 - b % 4096) % 4096

/-- A NAK: the unacknowledged flits are sent again, in order; the eighth in a row for one flit retrains the port (16 R380). -/
def State.resendAll (s : State) (p : Fin 8) (ack : Nat) : State :=
  let t := s.vport p
  if t.held.isEmpty then s
  else
    let n := if t.naks ≠ 0 && t.nakAck = ack then t.naks + 1 else 1
    if 8 ≤ n then s.retrain p
    else
      let s1 := (s.modPort p (fun t => { t with naks := n, nakAck := ack })).bump .vd (0x10C + 0x20 * p.val) t.held.length
      t.held.foldl (fun s f => s.emit (.viaduct p.val (leNat (f.2.take 2) / 4096) f.2)) s1

/-- A flit that failed its check: it is discarded and answered with NAK (16 R380). -/
def State.flitBad (s : State) (p : Fin 8) : State :=
  if 7 ≤ (s.vport p).fails then s.retrain p
  else (s.modPort p (fun t => { t with fails := t.fails + 1 })).sendIdle p 0 0 true

/-- VIADUCT_FLIT_RECEIVED (16 R380, R381, R386): the 256 bytes of a flit. -/
def execViaductFlitReceived (p : Fin 8) (bytes : List (BitVec 8)) (s : State) : Result :=
  let t := s.vport p
  let f (o n : Nat) : Nat := leNat ((bytes.drop o).take n)
  let ty := f 0 2 / 4096
  let seq := f 0 2 % 4096
  .next (if !t.up || t.training then s
  else
    let (hit, s1) := s.injStep .injX 4 (fun x => x == p.val) 1
    let per := match hit with
      | some (_, b) => b
      | none => false
    if bytes.length ≠ 256 || f 252 4 ≠ crc32 (bytes.take 252) || hit.isSome || (t.spoil && seqDist seq t.rxAck = 1) then
      (if per then s1.modPort p (fun t => { t with spoil := true }) else s1).flitBad p
    else
      let ack := f 2 2 % 4096
      let crvc := f 2 2 / 2 ^ 13 % 4
      let s2 := s1.modPort p (fun t =>
        let held := t.held.filter (fun h => decide (2048 ≤ seqDist ack h.1))
        { t with held := held, naks := if held.length < t.held.length then 0 else t.naks,
                 credits := if crvc < 3 then t.credits.set! crvc (t.credits.toList.getD crvc 0 + f 4 1) else t.credits })
      let s3 := if bitOf (f 2 2) 12 then s2.resendAll p ack else s2
      let s4 :=
        if ty = 0 || 4 < ty || f 5 1 % 4 = 3 then s3
        else if seqDist seq (s3.vport p).rxAck ≠ 1 then s3.sendIdle p 0 0 true
        else
          let vc := f 5 1 % 4
          let src := f 6 2 % 1024
          let s5 := s3.modPort p (fun t => { t with rxAck := seq, fails := 0, spoil := false })
          let s6 := if s5.rankGen src ≠ f 5 1 / 4 % 16 || !s5.hosted (f 8 2 % 1024) then s5.bump .vd 0x10 1
            else s5.flitIn p ty vc src (f 8 2 % 1024) ((bytes.drop 12).take 240)
          s6.sendIdle p vc 1 false
      State.flush p ((s4.vport p).waiting.length) s4)

/-- The shift of a direction from the lanes its fuses and training name (16 R378): 17 for none; none where it cannot run. -/
def laneShift (l : List (Fin 17)) : Option Nat :=
  match l with
  | [] => some 17
  | k :: ks => if ks.all (· == k) then some k.val else none

/-- A queue halts (16 R383). -/
def State.wqHalt (s : State) (q : Nat) : State := s.putBit .vd (0x418 + 0x20 * q) 30 true

/-- The last of an entry's end (16 R383): its status word, once the sett it lies in is not frozen, then LSIG; the sett that handed the
entry over waits for it no longer. -/
def State.endWord (s : State) (x : VEnd) : State :=
  let later (s : State) (x : VEnd) : State := s.modVd (fun v => { v with ends := v.ends ++ [x] })
  let fin (s : State) : State :=
    ((x.lsig.map (fun v => s.targetSig v)).getD s).modVd (fun v => { v with owed := v.owed.filter (fun o => o.2 != (x.q, x.k)) })
  if x.addr = 0 then fin s
  else if s.rangeFrozen x.addr 1 then later s x
  else
    match State.consumeAll none 9 x.checked (s.sideReads x.addr 1 true) 0 s with
    | (some n, s1) => later s1 { x with checked := n }
    | (none, s1) => fin (s1.writeMod none x.addr (leBytes 1 x.status)).2

/-- Ends that waited for a frozen sett go on. -/
def State.endRetry (s : State) : State :=
  s.vd.ends.foldl State.endWord (s.modVd (fun v => { v with ends := [] }))

/-- An entry completes (16 R383). -/
def State.entryDone (s : State) (q k : Nat) (e : List Byte) (status : Status) (inj : Bool := false) : State :=
  let s1 := s.endWord ⟨q, k, eSt e, status, if bitOf (blk e 1 1) 0 then some (BitVec.ofNat 32 (blk e 28 4)) else none, 0⟩
  let s2 := s1.setReg .vd (0x418 + 0x20 * q) (putField (s1.reg .vd (0x418 + 0x20 * q)) 7 0 status)
  if 0x10 ≤ status then (s2.wqHalt q).vdRecord 0 status 0xFFFFFFFF 0 0 inj else s2

/-- VD_WQ_HEAD. -/
def State.wqHead (s : State) (q : Nat) : Nat := (s.reg .vd (0x414 + 0x20 * q)).toNat

/-- The 64 bytes of entry k of a queue. -/
def State.wqEntry (s : State) (q k : Nat) : List Byte :=
  let size := fieldOf (s.reg .vd (0x408 + 0x20 * q)) 16 0
  let base := (s.reg .vd (0x400 + 0x20 * q)).toNat + fieldOf (s.reg .vd (0x404 + 0x20 * q)) 15 0 * 2 ^ 32
  s.hbm.load (base + 64 * (k % size)) 64

/-- The gate that a contribution names, where it has that many. -/
def gateIx (n : Nat) : Fin 64 := ⟨n % 64, Nat.mod_lt _ (by decide)⟩

/-- The fields of a gate's descriptor (16 Table 16-3). -/
def Gate.nmem (g : Gate) : Nat := blk g.desc 2 1
def Gate.elems (g : Gate) : Nat := blk g.desc 4 4
def Gate.stride (g : Gate) : Nat := blk g.desc 24 8
def Gate.slot (g : Gate) (k : Nat) : Nat := blk g.desc 16 6 + k * g.stride
def Gate.lateSlot (g : Gate) (k : Nat) : Nat := blk g.desc 40 6 + k * g.stride

/-- Mask of a list of members. -/
def maskOf (l : List Nat) : Nat := l.eraseDups.foldl (fun n k => n + 2 ^ k) 0

/-- The messages of late contributions that the close cuts end as late drops (16 R389). -/
def State.cutMsgs (s : State) (g : Fin 64) (sel : VCls → Bool) : State :=
  (s.vd.msgs.filter (fun m => m.vc == 1 && eGate m.entry == g.val && (m.cls.map sel).getD false)).foldl (fun s m =>
    let s1 := s.modVd (fun v => { v with msgs := if m.full then v.msgs.erase m else v.msgs.map (fun x => if x = m then { m with cls := some .drop } else x) })
    (s1.compl m Code.lateDropped).bump .vd 0x0C 1) s

/-- The gate begins to close (16 R389): late contributions of the step before that are not complete are cut with it. -/
def State.gateClose (s : State) (g : Fin 64) : State :=
  let s1 := s.cutMsgs g (fun c => match c with
    | .late _ soon => soon
    | _ => false)
  s1.modGate g (fun x => { x with st := .closing, closeCyc := s.cycle, on := x.on.filter (·.2), late := x.late.filter (·.2) })

/-- Close the gate if it is time (16 R389). -/
def State.gateSettle (s : State) (g : Fin 64) : State :=
  let x := s.gate g
  if x.st = .opened && x.on.all (·.2) && (x.on.length == x.nmem || x.due) then s.gateClose g else s

/-- A contribution whose message is discarded is no longer its gate's. -/
def State.forgetContrib (s : State) (m : VMsg) : State :=
  let g := gateIx (eGate m.entry)
  match m.cls with
  | some (.onTime k) => s.modGate g (fun x => { x with on := x.on.filter (fun y => y.1 != k) })
  | some (.late k true) => s.modGate g (fun x => { x with late := x.late.filter (fun y => y.1 != k) })
  | some (.late k false) => s.modGate g (fun x => { x with late2 := x.late2.filter (fun y => y.1 != k) })
  | _ => s

/-- Messages not complete when their port goes down are discarded (16 R379); a gate that waited for them may then close. -/
def State.dropMsgs (s : State) (p : Fin 8) : State :=
  let gone := s.vd.msgs.filter (fun m => m.port == some p.val && !m.full)
  let s1 := s.modVd (fun v => { v with msgs := v.msgs.filter (fun m => !(m.port == some p.val && !m.full)) })
  let s2 := gone.foldl State.forgetContrib s1
  gone.foldl (fun s m => match m.cls with
    | some (.onTime _) => s.gateSettle (gateIx (eGate m.entry))
    | _ => s) s2

/-- Entries of a queue accepted and not taken, that route to a port (16 R379). -/
def State.queuedTo (s : State) (q : Nat) (p : Fin 8) : List Nat :=
  let h := s.wqHead q
  let n := ((s.vd.tails.toList.getD q 0) + 2 ^ 32 - h) % 2 ^ 32
  ((List.range n).map (fun i => (h + i) % 2 ^ 32)).filter (fun k =>
    !s.vd.skip.contains (q, k) && eOp (s.wqEntry q k) ≤ 2 && s.route (eRank (s.wqEntry q k)) == some (some p))

/-- A port goes down (16 R379). -/
def State.portDown (s : State) (p : Fin 8) (inj : Bool := false) : State :=
  let s1 := (s.vdRecord p.val Code.busErr 0xFFFFFFFF 0 0 inj).modPort p (fun t =>
    { VPort.reset with rxShift := t.rxShift, txShift := t.txShift })
  let s2 := s1.dropMsgs p
  let s3 := (s2.vd.run.filter (fun r => r.port == some p.val)).foldl (fun s r =>
    (s.modVd (fun v => { v with run := v.run.erase r })).entryDone r.q r.k r.entry Code.busErr) s2
  (List.range 32).foldl (fun s q => (s.queuedTo q p).foldl (fun s k =>
    (s.modVd (fun v => { v with skip := v.skip ++ [(q, k)] })).entryDone q k (s.wqEntry q k) Code.busErr) s) s3

/-- VIADUCT_PORT_TRAIN (16 R378, R379): the lanes that fuses and training name in each direction, and the credits the peer gives
each virtual channel. Flits held for resending are sent after a retrain. -/
def execViaductPortTrain (p : Fin 8) (tx rx : List (Fin 17)) (c0 c1 c2 : BitVec 11) (s : State) : Result :=
  let t := s.vport p
  .next (if !Word.bit (s.reg .vd (0x100 + 0x20 * p.val)) 31 || t.up then s
  else
    match laneShift tx, laneShift rx with
    | some a, some b =>
      let s1 := s.modPort p (fun t =>
        { t with up := true, training := false, txShift := a, rxShift := b,
                 credits := if t.training then t.credits else #v[c0.toNat, c1.toNat, c2.toNat] })
      let s2 := if t.held.isEmpty then s1 else t.held.foldl (fun s f => s.emit (.viaduct p.val (leNat (f.2.take 2) / 4096) f.2))
        (s1.bump .vd (0x10C + 0x20 * p.val) t.held.length)
      State.flush p t.waiting.length s2
    | _, _ => if t.training then s.portDown p else s)

/-- VIADUCT_PORT_DOWN (16 R379). -/
def execViaductPortDown (p : Fin 8) (s : State) : Result :=
  let t := s.vport p
  .next (if t.up || t.training then s.portDown p else s)

/-- VD_WQ_STATUS of a queue: enabled and not halted. -/
def State.wqOn (s : State) (q : Nat) : Bool :=
  let v := s.reg .vd (0x418 + 0x20 * q)
  Word.bit v 31 && !Word.bit v 30

/-- WQ_TAIL_POLL (16 R382). -/
def execWqTailPoll (q : Fin 32) (s : State) : Result :=
  let o := 0x20 * q.val
  let a := (s.reg .vd (0x40C + o)).toNat + fieldOf (s.reg .vd (0x410 + o)) 15 0 * 2 ^ 32
  .next (if !s.wqOn q then s
  else
    let size := fieldOf (s.reg .vd (0x408 + o)) 16 0
    let bad := ((s.putBit .vd (0x418 + o) 29 true).wqHalt q).vdRecord 0 Code.bounds 0xFFFFFFFF 0 a
    if !inHbm a 4 then bad
    else
      let v := s.hbm.num a 4
      if size < (v + 2 ^ 32 - s.wqHead q) % 2 ^ 32 || size < (v + 2 ^ 32 - s.vd.tails[q.val]) % 2 ^ 32 then bad
      else s.modVd (fun d => { d with tails := d.tails.set q.val v }))

/-- Reserved fields of an entry that are 0 (16 Table 16-2). -/
def entryOk (e : List Byte) : Bool :=
  decide (blk e 1 1 < 4) && zeroAt e 14 2 && zeroAt e 22 2 && zeroAt e 37 3 && zeroAt e 46 18 && decide (eRank e < 1024) &&
  sigTargetOk (blk e 24 4) && sigTargetOk (blk e 28 4)

/-- Take the next entry of a queue where its OP is `op` (or reserved) and it may be taken (16 R382). -/
def State.takeEntry (s : State) (q : Fin 32) (op : Nat) (f : State → Nat → List Byte → State) : State :=
  let k := s.wqHead q
  if !s.wqOn q || k == s.vd.tails[q.val] then s
  else
    let taken (s : State) : State := s.setReg .vd (0x414 + 0x20 * q.val) (BitVec.ofNat 32 (k + 1))
    let e := s.wqEntry q k
    if s.vd.skip.contains (q.val, k) then
      (taken s).modVd (fun v => { v with skip := v.skip.erase (q.val, k) })
    else if eOp e ≠ op && 1 ≤ eOp e && eOp e ≤ 3 then s
    else if s.cfgBad .vd then (taken s).entryDone q k e Code.cfgParity
    else if eOp e ≠ op || !entryOk e then (taken s).entryDone q k e Code.bounds
    else f (taken s) k e

/-- Send the message of an entry over its route (16 R382, R386). -/
def State.sendEntry (s : State) (q k vc : Nat) (e data : List Byte) : State :=
  match s.route (eRank e) with
  | none => s.entryDone q k e Code.bounds
  | some none =>
    (s.modVd (fun v => { v with run := v.run ++ [⟨q, k, e, none⟩] })).headIn
      { port := none, orig := (q, k), src := s.rank0, dst := eRank e, vc := vc, entry := e, data := data, full := true, cls := none,
        checked := 0, flt := none }
  | some (some p) =>
    if (s.vport p).up || (s.vport p).training then
      (s.modVd (fun v => { v with run := v.run ++ [⟨q, k, e, some p.val⟩] })).enqueue p
        (messageFlits vc s.rank0 (eRank e) (s.rankGen s.rank0) e data)
    else s.entryDone q k e Code.busErr

/-- A WRITE or CONTRIB that its source bytes can leave: words of a sett window are consumed as they are read (07 R194), and an entry
whose source lies in a frozen sett waits (04 R110). -/
def State.leave (s : State) (q : Fin 32) (op vc : Nat) (flt : Option (BitVec 8)) (ok : State → List Byte → Bool) : State :=
  let e0 := s.wqEntry q (s.wqHead q)
  if s.rangeFrozen (eSrc e0) (eLen e0) then s
  else
    s.takeEntry q op (fun s1 k e =>
      if !ok s1 e || !s1.vdRange (eSrc e) (eLen e) false then s1.entryDone q k e Code.bounds
      else
        match State.consumeAll none 9 (Tbl.get s1.vd.checked q.val 0) (s1.sideReads (eSrc e) (eLen e) false) 0 s1 with
        | (some n, s2) =>
          (s2.modVd (fun v => { v with checked := Tbl.put v.checked q.val n })).setReg .vd (0x414 + 0x20 * q.val) (BitVec.ofNat 32 k)
        | (none, s2) =>
          let s3 := s2.modVd (fun v => { v with checked := Tbl.drop v.checked q.val })
          match failStatus (eSrc e) flt, s3.readMod none (eSrc e) (eLen e) with
          | some c, _ => s3.entryDone q k e c
          | none, (some bs, s4) => s4.sendEntry q k vc e bs
          | none, (none, s4) => s4.entryDone q k e Code.bounds)

/-- WRITE (16 R382, R384). -/
def execWrite (m : WqMove) (s : State) : Result :=
  .next (s.leave m.q 1 0 m.flt (fun _ e => decide (1 ≤ eLen e) && decide (eLen e ≤ 2 ^ 30)))

/-- CONTRIB (16 R382, R388). -/
def execContrib (m : WqMove) (s : State) : Result :=
  .next (s.leave m.q 2 1 m.flt (fun _ e => eLen e % 4 == 0 && decide (eGate e < 64)))

/-- A Holt block of GRADSUM (3) or REDUCE (5) over a gate's slots. -/
def Gate.block (g : Gate) (op slot0 : Nat) : List Byte :=
  leBytes 1 op ++ List.replicate 11 0 ++ leBytes 4 g.nmem ++ leBytes 6 slot0 ++ leBytes 2 0 ++ leBytes 8 g.stride ++
  leBytes 6 (blk g.desc 32 6) ++ leBytes 2 0 ++ leBytes 8 g.elems ++ List.replicate 16 0

/-- The checks of ARM (16 R387). -/
def State.armCheck (s : State) (g : Gate) : Status :=
  let d := g.desc
  let mem := blk d 8 6
  if 1 < blk d 0 1 || 4 ≤ blk d 1 1 || !zeroAt d 3 1 || !zeroAt d 22 2 || !zeroAt d 38 2 || !zeroAt d 46 2 || !zeroAt d 60 4 ||
      g.nmem = 0 || 64 < g.nmem || (blk d 0 1 = 1 && 4096 < g.elems) || !inHbm mem (2 * g.nmem) || !sigTargetOk (blk d 56 4) then Code.bounds
  else
    let c := s.holtCheck 0 (g.block 3 (g.slot 0))
    let c2 := if bitOf (blk d 1 1) 0 then Code.done else s.holtCheck 0 (g.block 5 (g.lateSlot 0))
    if 0x10 ≤ c then c
    else if 0x10 ≤ c2 then c2
    else if !(g.members.zip g.members.tail).all (fun p => decide (p.1 < p.2)) || !g.members.all (fun r => (s.route r).isSome) ||
        !s.hosted (blk d 14 2) then Code.bounds
    else Code.done

/-- ARM (16 R387). -/
def execArm (q : Fin 32) (s : State) : Result :=
  .next (s.takeEntry q 3 (fun s k e =>
    let a := eSrc e
    if eRank e ≠ 0 || 64 ≤ eGate e || a % 64 ≠ 0 || !inHbm a 64 then s.entryDone q k e Code.bounds
    else
      let i := gateIx (eGate e)
      let old := s.gate i
      let d := s.hbm.load a 64
      let new : Gate := { Gate.reset with st := .armed, step := eStep e, desc := d,
                                          members := (List.range (blk d 2 1)).map (fun k => s.hbm.num (blk d 8 6 + 2 * k) 2),
                                          late := if (old.st = .closed && old.step + 1 = eStep e) || (old.st = .armed && old.step = eStep e) then old.late
                                            else [] }
      if old.st = .opened || old.st = .closing then s.entryDone q k e Code.bounds
      else
        let c := s.armCheck new
        if c = Code.done then (s.modGate i (fun _ => new)).entryDone q k e Code.done else s.entryDone q k e c))

/-- Remove a message. -/
def State.dropMsg (s : State) (m : VMsg) : State := s.modVd (fun v => { v with msgs := v.msgs.erase m })

/-- Change a message. -/
def State.setMsg (s : State) (m n : VMsg) : State := s.modVd (fun v => { v with msgs := v.msgs.map (fun x => if x = m then n else x) })

/-- The oldest WRITE that has arrived whole (16 R384). -/
def VdSt.arrived (v : VdSt) : Option VMsg := v.msgs.find? (fun m => m.vc == 0 && m.full && m.cls.isNone)

/-- WRITE_RECEIVED (16 R384): the oldest WRITE that has arrived whole; it waits for a frozen sett (04 R110), where words written in part
are consumed first (07 R193). -/
def execWriteReceived (s : State) : Result :=
  .next (match s.vd.arrived with
    | none => s
    | some m =>
      let a := eDst m.entry
      if s.rangeFrozen a (eLen m.entry) then s
      else
        match State.consumeAll none 9 m.checked (s.sideReads a (eLen m.entry) true) 0 s with
        | (some n, s1) => s1.setMsg m { m with checked := n }
        | (none, s0) =>
          match m.flt with
          | some c => (s0.dropMsg m).compl m c
          | none =>
          let s2 := ((s0.dropMsg m).writeMod none a m.data).2
          let s3 := if bitOf (blk m.entry 1 1) 1 then s2.targetSig (BitVec.ofNat 32 (blk m.entry 24 4)) else s2
          s3.compl m Code.done)

/-- WQ_ENTRY_COMPLETE (16 R383): entry `k` of a queue completes; an entry to an own rank with the status it was answered. -/
def execWqEntryComplete (q : Fin 32) (k : BitVec 32) (status : BitVec 8) (s : State) : Result :=
  .next (match s.vd.run.find? (fun r => r.q == q.val && r.k == k.toNat) with
    | none => s
    | some r =>
      let end_ (s : State) (c : Status) : State := (s.modVd (fun v => { v with run := v.run.erase r })).entryDone q k.toNat r.entry c
      match r.port with
      | some _ => end_ s status.toNat
      | none =>
        match s.vd.done.find? (fun d => d.1 == q.val && d.2.1 == k.toNat) with
        | none => s
        | some d => end_ (s.modVd (fun v => { v with done := v.done.erase d })) d.2.2)

/-- A contribution that is in no step (16 R390): its sender completes with DONE_LATE_DROPPED, one record. -/
def State.lateDrop (s : State) (m : VMsg) : State :=
  let s1 := if m.full then s.dropMsg m else s.setMsg m { m with cls := some .drop }
  ((s1.compl m Code.lateDropped).bump .vd 0x0C 1).vdRecord (m.port.getD 0) Code.lateDropped (eStep m.entry) (eGate m.entry) 0

/-- A contribution refused with BOUNDS. -/
def State.refuseContrib (s : State) (m : VMsg) : State :=
  (if m.full then s.dropMsg m else s.setMsg m { m with cls := some .drop }).compl m Code.bounds

/-- A late contribution under the gate's policy (16 R390). -/
def State.lateContrib (s : State) (g : Fin 64) (m : VMsg) (k : Nat) (soon : Bool) : State :=
  let x := s.gate g
  if bitOf (blk x.desc 1 1) 0 then s.lateDrop m
  else if (soon && x.late.any (fun y => y.1 == k)) || (!soon && x.late2.any (fun y => y.1 == k)) then s.refuseContrib m
  else
    ((s.setMsg m { m with cls := some (.late k soon) }).modGate g (fun x =>
      if soon then { x with late := x.late ++ [(k, false)] } else { x with late2 := x.late2 ++ [(k, none)] })).vdRecord
      (m.port.getD 0) Code.done (eStep m.entry) g.val 0

/-- CONTRIB_OPEN (16 R388, R390): the oldest contribution whose HEAD has reached its gate. -/
def execContribOpen (s : State) : Result :=
  .next (match s.vd.msgs.find? (fun m => m.vc == 1 && m.cls.isNone) with
    | none => s
    | some m =>
      let g := gateIx (eGate m.entry)
      let x := s.gate g
      let n := eStep m.entry
      match x.members.findIdx? (· == m.src) with
      | none => s.refuseContrib m
      | some k =>
        if 64 ≤ eGate m.entry || x.st = .idle || eLen m.entry ≠ 4 * x.elems || x.step < n then s.refuseContrib m
        else if x.step = n then
          match x.st with
          | .armed =>
            (s.setMsg m { m with cls := some (.onTime k) }).modGate g (fun x =>
              { x with st := .opened, openCyc := s.cycle, on := [(k, false)] })
          | .opened =>
            if x.due then s.lateContrib g m k false
            else if x.on.any (fun y => y.1 == k) then s.refuseContrib m
            else (s.setMsg m { m with cls := some (.onTime k) }).modGate g (fun x => { x with on := x.on ++ [(k, false)] })
          | .closing => s.lateContrib g m k false
          | _ => s.lateContrib g m k true
        else if x.step = n + 1 && (x.st = .armed || x.st = .opened) then s.lateContrib g m k true
        else s.lateDrop m)

/-- CONTRIB_COMPLETE (16 R388 to R390): the oldest contribution that has opened and arrived whole. -/
def execContribComplete (s : State) : Result :=
  .next (match s.vd.msgs.find? (fun m => m.vc == 1 && m.cls.isSome && m.full) with
    | none => s
    | some m =>
      let g := gateIx (eGate m.entry)
      let x := s.gate g
      let s1 := s.dropMsg m
      match m.cls with
      | some (.onTime k) =>
        (((s1.putHbm (x.slot k) m.data).modGate g (fun x =>
          { x with on := x.on.map (fun y => if y.1 = k then (k, true) else y) })).compl m Code.done).gateSettle g
      | some (.late k true) =>
        (((s1.putHbm (x.lateSlot k) m.data).modGate g (fun x =>
          { x with late := x.late.map (fun y => if y.1 = k then (k, true) else y) })).bump .vd 0x08 1).compl m Code.done
      | some (.late k false) =>
        ((s1.modGate g (fun x => { x with late2 := x.late2.map (fun y => if y.1 = k then (k, some m.data) else y) })).bump
          .vd 0x08 1).compl m Code.done
      | _ => s1)

/-- GATE_DEADLINE (16 R389). -/
def execGateDeadline (g : Fin 64) (s : State) : Result :=
  let x := s.gate g
  .next (if x.st = .opened && blk x.desc 48 4 ≠ 0 then (s.modGate g (fun x => { x with due := true })).gateSettle g else s)

/-- GATE_GRACE_LIMIT (16 R389): incomplete contributions are cut and the gate closes. -/
def execGateGraceLimit (g : Fin 64) (s : State) : Result :=
  let x := s.gate g
  .next (if x.st = .opened && x.due then
    let s1 := s.modGate g (fun x => { x with cut := (x.on.filter (fun y => !y.2)).map (·.1) })
    (s1.cutMsgs g (fun c => match c with
      | .onTime k => x.on.contains (k, false)
      | _ => false)).gateClose g
  else s)

/-- The elementwise maximum of slots into DST (16 R389, 02 R67). -/
def State.gateMax (s : State) (x : Gate) (bases : List Nat) : State :=
  let rows := bases.map (fun a => (s.floats a x.elems).map f32Num)
  let acc := match rows with
    | [] => []
    | r :: rs => rs.foldl (fun v w => v.zipWith Num.max w) r
  s.putHbm (blk x.desc 32 6) (acc.flatMap (fun v => leBytes 4 (f32Bits v)))

/-- GATE_REDUCTION_DONE (16 R389 to R391): the reduction ends, with a Holt fault or none. -/
def execGateReductionDone (g : Fin 64) (flt : Option (BitVec 8)) (s : State) : Result :=
  let x := s.gate g
  .next (if x.st ≠ .closing then s
  else
    let n := 4 * x.elems
    let on := x.on.map (·.1)
    let all := List.range x.nmem
    let fault : Option Status := match flt with
      | some c => if c = 0x23 || c = 0x20 || c = 0x21 || c = 0x22 then some c.toNat else none
      | none => none
    let fill (s : State) (l : List Nat) : State := l.foldl (fun s a => { s with hbm := s.hbm.zero a n }) s
    let s0 := fill s ((all.filter (fun k => !on.contains k)).map x.slot)
    let dst := blk x.desc 32 6
    let add := !x.late.isEmpty
    let sum := blk x.desc 0 1 == 0
    let (c1, sa) := if sum then s0.holtTally ((dst, n) :: (all.map (fun k => (x.slot k, n)))) else (Code.done, s0)
    let (c2, s1) := if sum && add && fault.isNone && c1 == Code.done then
        sa.holtTally ((dst, n) :: (all.map (fun k => (x.lateSlot k, n)))) else (Code.done, sa)
    let fault := fault.or (if c1 ≠ Code.done then some c1 else if c2 ≠ Code.done then some c2 else none)
    let s2 := match fault with
      | some _ => { s1 with hbm := s1.hbm.store dst (Config.freeBytes s1.freeCtr n), freeCtr := s1.freeCtr + 1 }
      | none =>
        if sum then
          let a := (sumLine (x.block 3 (x.slot 0)) false dst n s1 (HSub.start 0)).1
          if add then (sumLine (x.block 5 (x.lateSlot 0)) true dst n a (HSub.start 0)).1 else a
        else s1.gateMax x (all.map x.slot ++ if add then all.map x.lateSlot else [])
    let s3 := if add then fill s2 (all.map x.lateSlot) else s2
    let status := fault.getD Code.done
    let rec0 := leBytes 4 status ++ leBytes 4 x.step ++ leBytes 8 (maskOf on) ++ leBytes 8 (maskOf (x.late.map (·.1))) ++
      leBytes 8 (maskOf x.cut) ++ leBytes 8 x.openCyc ++ leBytes 8 x.closeCyc ++ List.replicate 16 0
    let s4 := s3.putHbm (fieldOf (s3.reg .vd 4) 26 0 * 4096 + 64 * g.val) rec0
    let s5 := (if fault.isSome then s4.vdRecord 0 status x.step g.val 0 else s4).targetSig (BitVec.ofNat 32 (blk x.desc 56 4))
    let auto := bitOf (blk x.desc 1 1) 1
    let s6 := x.late2.foldl (fun s y => match y.2 with
      | some bs => s.putHbm (x.lateSlot y.1) bs
      | none => s) s5
    let s7 := s6.modVd (fun v => { v with msgs := v.msgs.map (fun m =>
      if m.vc == 1 && eGate m.entry == g.val then
        (match m.cls with
          | some (.late k false) => { m with cls := some (.late k true) }
          | _ => m)
      else m) })
    s7.modGate g (fun x => { x with st := if auto then .armed else .closed, step := if auto then (x.step + 1) % 2 ^ 32 else x.step,
                                    due := false, on := [], cut := [], late := x.late2.map (fun y => (y.1, y.2.isSome)), late2 := [] }))

/-- Views of the Viaduct's status registers (16 Table 16-7). -/
def VPort.statusWord (t : VPort) : Word := BitVec.ofNat 32 (flagBit t.up 31 + t.rxShift * 256 + t.txShift)
def GateSt.code : GateSt → Nat
  | .idle => 0
  | .armed => 1
  | .opened => 2
  | .closing => 3
  | .closed => 4

end Sys2Proof.Machine
end

