-- ==== Sys2Proof/Machine/Views.lean ====
section
/-!
DEFINITION. What a register reads as (17 R397 to R399): registers that are views of other state, by block; every other
register stands in the register file.
-/
namespace Sys2Proof.Machine

/-- SQ_STATUS.STATE (04 Table 04-7). -/
def SettSt.stateCode (t : SettSt) : Nat :=
  if t.freeze.isSome then 4
  else
    match t.st with
    | .idle => 0
    | .run => 1
    | .wait => 2
    | .brk => 3
    | .done => 5
    | .halted => 6

/-- SQ_STATUS (04 Table 04-7). -/
def SettSt.statusWord (t : SettSt) : Word :=
  BitVec.ofNat 32 (t.lastFault * 2 ^ 24 + t.loops.length * 2 ^ 17 + flagBit t.region.isSome 16 + flagBit t.engBusy 15 + t.stateCode) |||
  t.sticky

/-- A loop level, level 0 the outermost (04 Table 04-12). -/
def SettSt.level (t : SettSt) (d : Nat) : Option LoopLv := t.loops.reverse[d]?

/-- SQ_LOOP_INFO (04 Table 04-12). -/
def LoopLv.info (l : LoopLv) : Nat := 2 ^ 31 + l.last * 2 ^ 16 + flagBit l.imm 4 + l.src.toNat

/-- The registers of a sequencer (04 Table 04-5). The LATCH, REMAIN and INFO of a loop level that is not active read 0, which 04
Table 04-12 leaves open (log entry 51); the fourth word of a level is reserved (17 R397). -/
def SettSt.sqView (t : SettSt) (f : Word) (o : Nat) : Word :=
  if o = 0x00 then 0
  else if o = 0x04 then t.statusWord
  else if o = 0x0C then BitVec.ofNat 32 t.pc
  else if o = 0x18 then t.step
  else if o = 0x1C then BitVec.ofNat 32 (t.tag.toNat * 2 ^ 16 + t.layer)
  else if o = 0x20 then t.haltInfo
  else if o = 0x30 then BitVec.ofNat 32 t.cmdCnt
  else if o = 0x34 then BitVec.ofNat 32 t.stallCnt
  else if o = 0x38 then BitVec.ofNat 32 t.frzCnt
  else if o = 0x3C then BitVec.ofNat 32 t.absentCnt
  else if o = 0x40 then BitVec.ofNat 32 t.cyc
  else if o = 0x44 then BitVec.ofNat 32 (t.cyc / 2 ^ 32)
  else if o = 0x48 then t.shpend.setWidth 32
  else if 0x100 ≤ o && o < 0x140 then t.ct.toList.getD ((o - 0x100) / 4) 0
  else if 0x140 ≤ o && o < 0x180 then t.ctsh.toList.getD ((o - 0x140) / 4) 0
  else if 0x180 ≤ o && o < 0x1A0 then t.cmp.toList.getD ((o - 0x180) / 4) 0
  else if 0x1A0 ≤ o && o < 0x1E0 then
    match t.level ((o - 0x1A0) / 16) with
    | none => 0
    | some l => if o % 16 = 0 then l.latch else if o % 16 = 4 then BitVec.ofNat 32 l.remain else if o % 16 = 8 then BitVec.ofNat 32 l.info else 0
  else if 0x200 ≤ o && o < 0x280 then t.sig.toList.getD ((o - 0x200) / 4) 0
  else f

/-- Queued, busy and last fields of an engine's status register. -/
def Eng.busy (g : Eng) : Bool := !g.queue.isEmpty || !g.run.isEmpty

/-- TE_STATUS (03 Table 03-7); DISC_REFUSED stands in the register file. -/
def SettSt.teStatus (t : SettSt) (f : Word) : Word :=
  let g := t.engine 1
  let slots := (t.tiles.filter (fun x => match x.place with
    | .slot _ => true
    | _ => false)).length
  BitVec.ofNat 32 (g.last * 2 ^ 24 + g.queue.length * 2 ^ 18 + slots * 2 ^ 12 + (t.tiles.length - slots) * 2 ^ 8 +
    flagBit t.resident.isSome 3 + flagBit (t.tiles.any (·.strict)) 2 + flagBit g.busy 0) ||| (f &&& 2)

/-- VE_STATUS (10 Table 10-8). -/
def SettSt.veStatus (t : SettSt) : Word :=
  let g := t.engine 2
  BitVec.ofNat 32 (g.last * 2 ^ 24 + g.queue.length * 2 ^ 4 + flagBit g.busy 0)

/-- VE_ROV (10 Table 10-10). -/
def SettSt.veRov (t : SettSt) (f : Word) : Word :=
  BitVec.ofNat 32 (t.cause.toNat * 256 + flagBit (t.latch != 0) 5) ||| f

/-- SE_STATUS, KV_STATUS (09 Table 09-8, 11 Table 11-7). -/
def Eng.statusWord (g : Eng) : Word :=
  BitVec.ofNat 32 (g.last * 2 ^ 24 + g.run.length * 256 + g.queue.length * 2 + flagBit g.busy 0)

/-- Iterations not begun at a loop level of a channel, level 0 the outermost (13 Table 13-3). -/
def DmaCh.remain (h : DmaCh) (d : Nat) : Nat := ((h.loops.reverse[d]?).map (·.2)).getD 0

/-- The registers of a DMA channel (13 Table 13-3), by offset in the channel; `f` is the register file's word. -/
def DmaCh.view (h : DmaCh) (f : Word) (o : Nat) : Word :=
  match o with
  | 0x00 => 0
  | 0x04 => BitVec.ofNat 32 h.statusWord
  | 0x08 => BitVec.ofNat 32 h.retryMax
  | 0x0C => BitVec.ofNat 32 (h.pc % 2 ^ 24)
  | 0x10 => BitVec.ofNat 32 (h.rowLeft % 2 ^ 16)
  | 0x14 => BitVec.ofNat 32 (h.byteLeft % 2 ^ 24)
  | 0x28 => BitVec.ofNat 32 h.faddr
  | 0x2C => BitVec.ofNat 32 (h.faddr / 2 ^ 32 % 2 ^ 16)
  | 0x30 => BitVec.ofNat 32 h.retry
  | 0x34 => BitVec.ofNat 32 (h.remain 1 % 2 ^ 16 * 2 ^ 16 + h.remain 0 % 2 ^ 16)
  | _ => f

/-- TR_LMAP[n] (01 R31): this unit's fuses leave logical sett n at physical sett n (log entry 5). -/
def lmapWord (n : Nat) : Word :=
  BitVec.ofNat 32 (2 ^ 31 + n * 2 ^ 16 + min (n % 17) 15 * 2 ^ 12 + n / 17 * 256 + n % 17)

/-- HT_STATUS of a Thehan die (08 Table 08-12). -/
def State.htStatus (s : State) (n : Fin 8) : Word :=
  let qs := (List.range 16).map (fun c => (s.hq.toList.getD (16 * n.val + c) []).length)
  BitVec.ofNat 32 (((qs.zip (List.range 16)).foldl (fun v q => v + flagBit (0 < q.1) (16 + q.2)) 0) +
    qs.foldl (fun v q => v + (q - 1)) 0)

/-- FT_RSTALL_LO and _HI of a requester (17 R401). -/
def State.rstall (s : State) (k : Nat) (hi : Bool) : Word :=
  match s.acc.toList.getD k [] with
  | [] => 0
  | q :: _ =>
    if !q.issued then 0
    else if hi then BitVec.ofNat 32 (2 ^ 31 + q.addr / 2 ^ 32 % 2 ^ 16) else BitVec.ofNat 32 q.addr

/-- Word i of a byte string. -/
def wordAt (bs : List Byte) (i : Nat) : Word := BitVec.ofNat 32 (leNat ((bs.drop (4 * i)).take 4))

/-- The registers of the security block (18 Table 18-11). -/
def State.scView (s : State) (f : Word) (o : Nat) : Word :=
  if o = 0x00 then s.scStatus
  else if o = 0x04 || o = 0x10 || o = 0x18 then 0
  else if o = 0x14 then BitVec.ofNat 32 (leNat (s.sc.ctrs.toList.map (fun n => BitVec.ofNat 8 n)))
  else if o = 0x1C then BitVec.ofNat 32 s.sc.log.length
  else if 0x40 ≤ o && o < 0x60 then wordAt s.nonce ((o - 0x40) / 4)
  else if 0x100 ≤ o && o < 0x140 then (if s.sc.keyed then wordAt idDigest ((o - 0x100) / 4) else 0)
  else if 0x140 ≤ o && o < 0x180 then wordAt s.sc.m ((o - 0x140) / 4)
  else if 0x400 ≤ o && o < 0xA00 then wordAt fuseMap ((o - 0x400) / 4)
  else if 0xA00 ≤ o && o < 0xA40 then wordAt (fuseSum s.sc.ctrs.toList) ((o - 0xA00) / 4)
  else f

/-- The registers of the Viaduct unit (16 Table 16-6). -/
def State.vdView (s : State) (f : Word) (o : Nat) : Word :=
  if 0x100 ≤ o && o < 0x200 && o % 0x20 = 8 then (s.vd.ports.toList.getD ((o - 0x100) / 0x20) VPort.reset).statusWord
  else if 0xA00 ≤ o && o < 0xC00 then
    let g := s.vd.gates.toList.getD ((o - 0xA00) / 8) Gate.reset
    if o % 8 = 0 then BitVec.ofNat 32 g.st.code else BitVec.ofNat 32 g.step
  else f

/-- EN_EP_STATUS and EN_EP_HIGH of an endpoint (15 Table 15-7). -/
def State.epView (s : State) (ep : Fin 2) (f : Word) (o : Nat) : Word :=
  if o = 0x30 then BitVec.ofNat 32 (s.inFlight ep % 4096 * 2 ^ 16 + (s.eps[ep.val]).epoch)
  else if o = 0x34 then BitVec.ofNat 32 ((s.eps[ep.val]).high.getD 0)
  else f

/-- What a register holds, without the side effects of a read; EN_EP_HIGH of an empty window is a free value that the read
supplies. DM_LTAG[n].LINE reads 0 while CLEAN is 0, which 07 Table 07-9 leaves open (log entry 51). -/
def State.view (s : State) (b : Blk) (o : Nat) : Word :=
  let f := s.reg b o
  match b with
  | .sq u => (s.sett u).sqView f o
  | .te u => if o = 4 then (s.sett u).teStatus f else f
  | .ve u => if o = 0 then (s.sett u).veStatus else if o = 0xC then (s.sett u).veRov f else f
  | .se u => if o = 0 then ((s.sett u).engine 3).statusWord else f
  | .dm u =>
    if o < 0x100 then ((s.sett u).ch.toList.getD (o / 0x40) DmaCh.reset).view f (o % 0x40)
    else if 0x400 ≤ o && o < 0x1000 then
      match Tbl.find (s.sett u).clean ((o - 0x400) / 4) with
      | some l => BitVec.ofNat 32 (2 ^ 31 + l)
      | none => 0
    else f
  | .kvw u => if o = 0 then ((s.sett u).engine 8).statusWord else f
  | .dmX =>
    if o < 0x1000 then (s.xch.toList.getD (o / 0x40) DmaCh.reset).view f (o % 0x40)
    else if o < 0x1100 then s.xsig.toList.getD ((o - 0x1000) / 4) 0
    else f
  | .tr _ => if 0x400 ≤ o && o < 0x600 then lmapWord ((o - 0x400) / 4) else f
  | .ht n => if o = 4 then s.htStatus n else f
  | .enHost => s.epView 0 f o
  | .enMgmt => s.epView 1 f o
  | .vd => s.vdView f o
  | .intake => if o = 4 then s.inStatus else f
  | .ftX => if 0x50 ≤ o && o < 0x68 then s.rstall ((o - 0x50) / 8) (o % 8 == 4) else f
  | .pmX =>
    if o = 0x808 then BitVec.ofNat 32 s.stbBusy else if o = 0x80C then BitVec.ofNat 32 (s.stbBusy / 2 ^ 32) else f
  | .sc => s.scView f o
  | _ => f

/-- Is the block that a SRC names busy: does its status register show BUSY, or a STATE that is not idle (19 Table 19-5, 17 Table 17-8)? -/
def State.tmBusy (s : State) (src : Nat) : Bool :=
  let die := bitsOf src 12 12
  let unit := bitsOf src 11 5
  let t := s.sett (settOf die unit)
  match bitsOf src 15 13, src % 32 with
  | 0, 0 => t.stateCode != 0
  | 0, 1 => (t.engine 1).busy
  | 0, 2 => (t.engine 2).busy
  | 0, 3 => (t.engine 3).busy
  | 0, 4 => t.ch.toList.any (fun h => h.statusWord % 8 != 0)
  | 0, 5 => (t.engine 8).busy
  | 2, 13 => !(s.hq.toList.getD (64 * die + unit % 64) []).isEmpty
  | 3, 4 => (s.xch.toList.getD (unit % 64) DmaCh.reset).statusWord % 8 != 0
  | 3, 19 => s.intake.busy
  | _, _ => false

/-- Does the block that a SRC names hold a halt or a fault: its sett is halted, it is halted by its configuration parity, its channel or
Intake is halted (19 Table 19-5)? -/
def State.tmHalt (s : State) (src : Nat) : Bool :=
  let die : Fin 2 := ⟨bitsOf src 12 12 % 2, Nat.mod_lt _ (by decide)⟩
  let unit := bitsOf src 11 5
  let u := settOf die.val unit
  match bitsOf src 15 13, src % 32 with
  | 0, 4 => (s.sett u).ch.toList.any (fun h => h.st == .halted && h.fault.isSome) || (s.sett u).st == .halted
  | 0, 6 => Word.bit (s.reg (.ftS u) 0) 31
  | 0, _ => (s.sett u).st == .halted
  | 1, 6 => Word.bit (s.reg (.ftD die) 0) 31
  | 1, 9 => s.cfgBad (.tr die)
  | 1, 11 => s.cfgBad (.spool die)
  | 1, 12 => s.cfgBad .kvpool
  | 2, 13 => s.cfgBad (.ht ⟨(4 * die.val + unit / 16 % 4) % 8, Nat.mod_lt _ (by decide)⟩)
  | 3, 4 => (s.xch.toList.getD (unit % 64) DmaCh.reset).fault.isSome
  | 3, 6 => Word.bit (s.reg .ftX 0) 31
  | 3, 15 => s.cfgBad .enHost
  | 3, 16 => s.cfgBad .enMgmt
  | 3, 18 => s.cfgBad .vd
  | 3, 19 => s.intake.halted
  | 3, 21 => s.sc.locked
  | _, _ => false

/-- A signal of the test multiplexer (19 R439, Table 19-5), SRC as in 17 Table 17-8: what the state shows of it. A record is one emitted in
the present 8 ns (log entry 58). -/
def State.tmSignal (s : State) (src sig : Nat) : Bool :=
  let u := settOf (bitsOf src 12 12) (bitsOf src 11 5)
  let sett := bitsOf src 15 13 == 0
  match sig with
  | 1 => s.tmBusy src
  | 2 => sett && ((List.range 16).any (fun e => (s.sett u).issuing && s.stalled u (BitVec.ofNat 4 e)) ||
      s.acc.toList.any (fun l => (l.head?.map (fun q => q.issued && ((regTarget q.addr).bind (fun b => b.1.sett?)) == some u)).getD false))
  | 3 => sett && (s.sett u).freeze.isSome
  | 4 => s.tmHalt src
  | 5 => bitOf (if sett then (s.sett u).cyc else s.cycle) 3
  | 7 => s.recs.any (fun r => r.src == src && r.cycle / 8 == s.cycle / 8)
  | _ => false

/-- TMUX pin n (19 R439): low while TM_CTL.EN is 0 and while debug access is closed. -/
def State.tmux (s : State) (n : Fin 16) : Bool :=
  let sel := s.reg .tm (0x10 + 4 * n.val)
  Word.bit (s.reg .tm 0) 31 && s.debugOk && s.tmSignal (fieldOf sel 31 16) (fieldOf sel 7 0)

end Sys2Proof.Machine
end

