-- ==== Sys2Proof/Machine/CfgParity.lean ====
section
/-!
DEFINITION. Configuration parity: the check of one copy of a register, and what a mismatch does (17 R406 to R408, R442,
Table 17-5).
-/
namespace Sys2Proof.Machine

/-- The fault block of a block's scope (17 R407). -/
def Blk.ft : Blk → Blk
  | .tr d => .ftD d
  | .sp d => .ftD d
  | .spool d => .ftD d
  | .ftD d => .ftD d
  | .injD d => .ftD d
  | .pmD d => .ftD d
  | .kvpool => .ftD 0
  | .ht n => .ftD ⟨n.val / 4 % 2, Nat.mod_lt _ (by decide)⟩
  | b => match b.sett? with
    | some u => .ftS u
    | none => .ftX

/-- The injection point of a block's configuration parity (17 R442). -/
def Blk.parPoint (b : Blk) : Blk × Nat :=
  match b.ft with
  | .ftS u => (.injS u, 5)
  | .ftD d => (.injD d, 7)
  | _ => (.injX, 9)

/-- Unit number of a block in FT_CFGP: stack mod 4 of a Holt block (17 Table 17-9). -/
def Blk.unit : Blk → Nat
  | .ht n => n.val % 4
  | _ => 0

/-- SEL that names a register (17 R442). -/
def Blk.sel (b : Blk) (o : Nat) : Nat := b.unit * 2 ^ 19 + o % 2 ^ 14 * 32 + b.code

/-- SRC of a block (17 Table 17-8); the Holts of a Thehan die begin at 16 times its stack's number in its die. -/
def Blk.src (b : Blk) : Nat :=
  match b.sett? with
  | some u => settSrc u b.code
  | none =>
    match b with
    | .ht n => srcCode 2 (n.val / 4) (16 * (n.val % 4)) 13
    | _ =>
      match b.ft with
      | .ftD d => srcCode 1 d.val 0 b.code
      | _ => srcCode 3 0 0 b.code

/-- Does a register carry parity (17 R406): it has an RW field, or it is DM_LTAG, which Table 17-5 names? -/
def Blk.isCfg (b : Blk) (o : Nat) : Bool :=
  match findRow o b.rows with
  | none => false
  | some r => r.rw != 0 || (match b with
      | .dm _ => o ≥ 0x400
      | _ => false)

/-- Has a register a pending copy (17 R403, R404)? -/
def Blk.staged (b : Blk) (o : Nat) : Bool :=
  b.stage.isSome && (match findRow o b.rows with
    | none => false
    | some r => !r.imm)

/-- ENGINE of a sett halt by a mismatch in one of its blocks (17 Table 17-5). -/
def Blk.haltEngine (b : Blk) (o : Nat) : Nat :=
  match b with
  | .te _ => 1
  | .ve _ => 2
  | .se _ => 3
  | .dm _ => if o < 0x100 then 4 + o / 0x40 else 4
  | .kvw _ => 8
  | _ => 0

/-- Every sett halts, and the management core is interrupted (17 Table 17-5). -/
def State.cfgHaltAll (s : State) (inj : Bool) : State :=
  ((List.finRange 256).foldl (fun s u => s.haltSett u Code.cfgParity 0 2 (s.sett u).pc inj) s).raise .cfgParity

/-- Points of one injection block (17 Table 17-5). -/
def injOf (b : Blk) (k : Nat) : Bool := decide (b.base ≤ k) && decide (k < b.base + 0x4000)

/-- The TMUX selection at its reset value (17 Table 17-5). -/
def State.tmReset (s : State) : State :=
  let out (t : Tbl Word) : Tbl Word := t.filter (fun e => !(decide (Blk.tm.key 0x10 ≤ e.1) && decide (e.1 < Blk.tm.key 0x50)))
  { s with regs := { s.regs with act := out s.regs.act, pend := out s.regs.pend } }

/-- What a mismatch does to its block (17 Table 17-5). -/
def State.cfgEffect (s : State) (b : Blk) (o : Nat) (inj : Bool) : State :=
  let stop : State := if s.cfgBad b then s else { s with cfgHalt := s.cfgHalt ++ [b.base] }
  match b.sett? with
  | some u =>
    let s1 := s.haltSett u Code.cfgParity (b.haltEngine o) 2 (s.sett u).pc inj
    (match b with
      | .injS _ => s1.disarm (injOf b)
      | _ => s1)
  | none =>
    match b with
    | .tr _ => stop
    | .spool _ => stop
    | .kvpool => stop
    | .ht _ => stop
    | .enHost => (List.range 1024).foldl (fun s q => if (s.qp q).st = 4 then s else s.qpError q) stop
    | .enMgmt => stop
    | .vd => (List.range 32).foldl (fun s q => s.wqHalt q) stop
    | .injD _ => s.disarm (injOf b)
    | .injX => (s.setReg .injX 0 0).disarm (fun _ => true)
    | .tm => s.tmReset
    | .sp _ => s.cfgHaltAll inj
    | .pmD _ => s.cfgHaltAll inj
    | .pmX => s.cfgHaltAll inj
    | .bu => s.cfgHaltAll inj
    | .sc => ((s.modSc (fun c => { c with locked := true })).setReg .injX 0 0).disarm (fun _ => true)
    | _ => s

/-- A mismatch (17 R407). -/
def State.cfgMismatch (s : State) (b : Blk) (o : Nat) (inj : Bool) : State :=
  let f := b.ft
  let s1 := if Word.bit (s.reg f 0) 31 then s
    else s.setReg f 0 (BitVec.ofNat 32 (2 ^ 31 + b.unit * 2 ^ 21 + b.code * 2 ^ 16 + o % 2 ^ 14))
  let s2 := s1.bump f 4 1
  let rec0 : EvRec :=
    { status := Code.cfgParity, inj := inj, src := b.src,
      step := (match b.sett? with
        | some u => (s.sett u).step.toNat
        | none => 0xFFFFFFFF),
      layer := (match b.sett? with
        | some u => (s.sett u).layer
        | none => 0),
      cycle := s.cycle, addr := b.addr o, detail := [] }
  (s2.post rec0).cfgEffect b o inj

/-- The parity check of one copy of a register (17 R406, R442): true with its effects where it fails. A fire inverts the
stored parity bit. -/
def State.cfgCheck (s : State) (b : Blk) (o : Nat) (pend : Bool) : Bool × State :=
  if !b.isCfg o then (false, s)
  else
    let k := b.key o
    let (i, p) := b.parPoint
    let (hit, s1) := s.injStep i p (fun x => x == b.sel o) 1
    let bad := if pend then s1.regs.badP else s1.regs.badA
    let bad1 : Tbl Bool := match hit with
      | none => bad
      | some _ => if (Tbl.find bad k).isSome then Tbl.drop bad k else Tbl.put bad k true
    let s2 : State := { s1 with regs := if pend then { s1.regs with badP := bad1 } else { s1.regs with badA := bad1 } }
    match Tbl.find bad1 k with
    | none => (false, s2)
    | some inj => (true, s2.cfgMismatch b o inj)

/-- Unit offsets of the registers of a block that carry parity. -/
def Blk.cfgOffsets (b : Blk) : List Nat :=
  (b.rows.flatMap (fun r => (List.range r.n).map (fun i => r.off + i * r.stride))).filter b.isCfg

/-- An upset of the stored parity of one copy of a register. -/
def State.upset (s : State) (b : Blk) (o : Nat) (pend : Bool) : State :=
  if !b.isCfg o || (pend && !b.staged o) then s
  else
    let flip (t : Tbl Bool) : Tbl Bool := if (Tbl.find t (b.key o)).isSome then Tbl.drop t (b.key o) else Tbl.put t (b.key o) false
    { s with regs := if pend then { s.regs with badP := flip s.regs.badP } else { s.regs with badA := flip s.regs.badA } }

/-- One pass of a block's scrubber over every copy of its configuration registers (17 R406). -/
def State.scrub (s : State) (b : Blk) : State :=
  b.cfgOffsets.foldl (fun s o =>
    let s1 := (s.cfgCheck b o false).2
    if b.staged o then (s1.cfgCheck b o true).2 else s1) s

/-- CONFIG_SCRUB (17 R406): a pass over the block at register address `a`, after upsets of stored parity in it: unit offset,
pending copy or active. -/
def execConfigScrub (a : BitVec 48) (ups : List (BitVec 14 × Bool)) (s : State) : Result :=
  .next (match regTarget a.toNat with
    | none => s
    | some (b, _, _) =>
      if ((b.sett?.map (fun u => (s.sett u).freeze.isSome)).getD false) then s
      else (ups.foldl (fun s u => s.upset b u.1.toNat u.2) s).scrub b)

/-- A write to FT_CFGP.CLR (17 R408). -/
def State.cfgpClr (s : State) (b : Blk) : State :=
  match b with
  | .ftS _ => s.putBit b 0 31 false
  | _ => s

/-- FT_CFGP_CLR (17 R408). -/
def execFtCfgpClr (u : Sett) (s : State) : Result := .next (s.sqAct u (fun s => s.cfgpClr (.ftS u)))

end Sys2Proof.Machine
end

