-- ==== Sys2Proof/Machine/EventLog.lean ====
section
/-!
DEFINITION. The fault and event-log controller (17 R410, R411).
-/
namespace Sys2Proof.Machine

/-- The 64 bytes of a record (17 Table 17-7). -/
def EvRec.bytes (r : EvRec) (seq : Nat) (lost : Bool) : List Byte :=
  leBytes 1 r.status ++ leBytes 1 (flagBit r.inj 0 + flagBit lost 1) ++ leBytes 2 r.src ++ leBytes 4 r.step ++ leBytes 4 r.layer ++
  leBytes 4 seq ++ leBytes 8 r.cycle ++ leBytes 8 r.addr ++ (r.detail ++ List.replicate 32 0).take 32

/-- FT_LOG_HEAD − FT_LOG_TAIL, FT_LOG_SIZE, FT_LOG_BASE. -/
def State.logUsed (s : State) : Nat := (s.reg .ftX 0x1C - s.reg .ftX 0x20).toNat
def State.logSize (s : State) : Nat := fieldOf (s.reg .ftX 0x18) 24 0
def State.logBase (s : State) : Nat := (s.reg .ftX 0x10).toNat + fieldOf (s.reg .ftX 0x14) 15 0 * 2 ^ 32

/-- FT_LOG_CTL.EN. -/
def State.logOn (s : State) : Bool := Word.bit (s.reg .ftX 0x24) 31

/-- A record is lost. -/
def State.logLose (s : State) (n : Nat) : State := if n = 0 then s else { s.bump .ftX 0x28 n with logGap := true }

/-- The controller, which writes no record, takes the first of those waiting for which the ring has a slot. -/
def State.logTake (s : State) : List (Nat × EvRec) → State
  | [] => { s with logQ := [] }
  | (n, r) :: q =>
    if s.logSize ≤ s.logUsed then State.logTake (s.logLose 1) q
    else { s with logQ := q, logCur := some (n, r, s.logGap), logGap := false }

/-- A record arrives (17 R411). -/
def State.logArrive (s : State) (r : EvRec) : State :=
  let s1 := { s with logSeq := (s.logSeq + 1) % 2 ^ 32 }
  if !s.logOn || 256 ≤ s.logQ.length then s1.logLose 1
  else
    let q := s.logQ ++ [(s.logSeq, r)]
    if s.logCur.isSome then { s1 with logQ := q } else s1.logTake q

/-- EVENT_RECORD_ARRIVAL (17 R411): the oldest record of a source on its way. -/
def execEventRecordArrival (src : BitVec 16) (s : State) : Result :=
  .next (match s.recs.find? (fun r => r.src == src.toNat) with
    | none => s
    | some r => ({ s with recs := s.recs.erase r }).logArrive r)

/-- FT_LOG_HEAD advances; reaching the mark interrupts the management core (17 R411). -/
def State.logAdvance (s : State) : State :=
  let s1 := s.setReg .ftX 0x1C (s.reg .ftX 0x1C + 1)
  let mark := fieldOf (s1.reg .ftX 0x24) 24 0
  if mark ≠ 0 && s1.logUsed = mark then (s1.putBit .ftX 0x24 30 true).raise .logMark else s1

/-- EVENT_RECORD_WRITTEN (17 R411): the record's write ends, well or not; then the next record is taken. -/
def execEventRecordWritten (ok : Bool) (s : State) : Result :=
  .next (match s.logCur with
    | none => s
    | some (n, r, lost) =>
      let a := s.logBase + 64 * ((s.reg .ftX 0x1C).toNat % max 1 s.logSize)
      let s0 := { s with logCur := none }
      let s1 := if ok && s.logBase % 4096 = 0 && inHbm a 64 then (s0.putHbm a (r.bytes n lost)).logAdvance
        else (s0.putBit .ftX 0x24 29 true).logLose 1
      s1.logTake s1.logQ)

/-- A write to FT_LOG_TAIL: one that moves it past HEAD, or backwards, is ignored (17 R411). -/
def State.logTail (s : State) (v : Word) : State :=
  if (v - s.reg .ftX 0x20).toNat ≤ s.logUsed then s.setReg .ftX 0x20 v else s

/-- FT_LOG_CTL after a write: where EN is 0, the records in the arrival queue are lost; a cleared IRQ withdraws the interrupt. -/
def State.logCtl (s : State) : State :=
  let s1 := if s.logOn then s else { s.logLose s.logQ.length with logQ := [] }
  if Word.bit (s1.reg .ftX 0x24) 30 then s1 else { s1 with irqs := s1.irqs.filter (fun q => q != .logMark) }

end Sys2Proof.Machine
end

