-- ==== Sys2Proof/Machine/Kv.lean ====
section
/-!
DEFINITION. The KV page walker and the KV pool allocator (11 R283 to R301, 05 R157). The page work of a command is one step,
taken at its completion; an eviction it needs begins at its start (log entry 8).
-/
namespace Sys2Proof.Machine

/-- A page header (11 Table 11-3). -/
structure PHdr where
  ref : Nat
  pin : Nat
  gen : Nat
  tier : Nat
  moving : Bool
  alloc : Bool
  frame : Nat
  last : Nat
  deriving DecidableEq, Repr

/-- HBM address of a page's header (11 R286). -/
def State.kvHdrAddr (s : State) (p : Nat) : Nat := s.fld .kvpool 0x08 26 0 * 4096 + 16 * p

/-- Number of pages, of HBM frames, of spill frames (11 Table 11-8). -/
def State.kvPages (s : State) : Nat := s.fld .kvpool 0x0C 28 0
def State.kvHf (s : State) : Nat := s.fld .kvpool 0x14 27 0
def State.kvBf (s : State) : Nat := s.fld .kvpool 0x1C 27 0

/-- Bytes of a frame (11 R286). -/
def State.kvFrame (s : State) : Nat := s.fld .kvpool 0x04 9 0 * 256

/-- Module address of a frame in its tier (11 R286). -/
def State.kvFrameAddr (s : State) (tier f : Nat) : Nat :=
  (if tier = 0 then s.fld .kvpool 0x10 26 0 else s.fld .kvpool 0x18 28 0) * 4096 + f * s.kvFrame

/-- The page, HBM-frame and spill-frame bitmaps, one after another (11 R290). -/
def State.kvMap (s : State) (k : Nat) : Nat :=
  let a := s.fld .kvpool 0x20 26 0 * 4096
  let b := a + roundUp (ceilDiv s.kvPages 8) 4096
  if k = 0 then a else if k = 1 then b else b + roundUp (ceilDiv s.kvHf 8) 4096

/-- The header of a page. -/
def State.kvHdr (s : State) (p : Nat) : PHdr :=
  let a := s.kvHdrAddr p
  let b := s.hbm.num (a + 6) 1
  { ref := s.hbm.num a 2, pin := s.hbm.num (a + 2) 2, gen := s.hbm.num (a + 4) 2, tier := bitsOf b 2 2, moving := bitOf b 1,
    alloc := bitOf b 0, frame := s.hbm.num (a + 8) 4, last := s.hbm.num (a + 12) 4 }

/-- Write the header of a page. -/
def State.putHdr (s : State) (p : Nat) (h : PHdr) : State :=
  s.putHbm (s.kvHdrAddr p) (leBytes 2 h.ref ++ leBytes 2 h.pin ++ leBytes 2 h.gen ++
    leBytes 1 (h.tier * 4 + flagBit h.moving 1 + flagBit h.alloc 0) ++ leBytes 1 0 ++ leBytes 4 h.frame ++ leBytes 4 h.last)

/-- Return a page number (k 0), an HBM frame (1) or a spill frame (2) to the allocator, or take one. -/
def State.kvGive (s : State) (k n : Nat) : State :=
  let s1 := s.mapBits (s.kvMap k) true [n]
  s1.setReg .kvpool (0x28 + 4 * k) (s1.reg .kvpool (0x28 + 4 * k) + 1)
def State.kvTake (s : State) (k : Nat) (l : List Nat) : State :=
  let s1 := s.mapBits (s.kvMap k) false l
  s1.setReg .kvpool (0x28 + 4 * k) (s1.reg .kvpool (0x28 + 4 * k) - BitVec.ofNat 32 l.length)

/-- Write back a header, reclaiming the page where both counts are 0 (11 R288): the return waits for a move in progress. -/
def State.kvPutCounts (s : State) (p : Nat) (h : PHdr) : State :=
  if h.ref = 0 && h.pin = 0 && h.alloc then
    let s1 := s.putHdr p { h with alloc := false, gen := (h.gen + 1) % 65536 }
    if h.moving then s1 else (s1.kvGive 0 p).kvGive (1 + h.tier) h.frame
  else s.putHdr p h

/-- Module address of a sequence's range (11 R283). -/
def kvSeq (q : Nat) : Nat := transBase + q * 0x4000000

/-- Module address of a page-list entry. -/
def kvEntAddr (q i : Nat) : Nat := kvSeq q + 0x1000 + 8 * i

/-- PAGE of an entry that names no page. -/
def noPage : Nat := 0xFFFFFFFF

/-- A little-endian number in the translated range, none for BOUNDS. -/
def State.kvNum (s : State) (u : SettId) (a n : Nat) : Option Nat × State :=
  match s.readMod (some (dieIx u)) a n with
  | (some bs, s1) => (some (leNat bs), s1)
  | (none, s1) => (none, s1)

/-- Drop the LAB entries of a page index in every walker (11 R291). -/
def State.kvStale (s : State) (q i : Nat) : State :=
  if s.setts.toList.any (fun t => t.lab.any (fun e => e.seq == q && e.idx == i)) then
    { s with setts := s.setts.map (fun t => { t with lab := t.lab.filter (fun e => e.seq != q || e.idx != i) }) }
  else s

/-- A page-list entry through the LAB (11 R291): PAGE and GEN, none for BOUNDS. Which entry a full LAB gives up is not stated:
a free value (log entry 1). -/
def State.kvEntry (s : State) (u : SettId) (q i : Nat) : Option (Nat × Nat) × State :=
  match (s.sett u).lab.find? (fun e => e.seq == q && e.idx == i) with
  | some e => (some (e.page, e.gen), s.bump (.kvw u) 0x0C 1)
  | none =>
    match (s.bump (.kvw u) 0x10 1).kvNum u (kvEntAddr q i) 8 with
    | (none, s1) => (none, s1)
    | (some w, s1) =>
      let pg := bitsOf w 31 0
      let gen := bitsOf w 47 32
      if pg = noPage then (some (pg, gen), s1)
      else
        let l := (s1.sett u).lab
        let e : LabEnt := ⟨q, i, pg, gen⟩
        if l.length < 64 then (some (pg, gen), s1.modSett u (fun t => { t with lab := l ++ [e] }))
        else
          let (r, s2) := s1.fresh
          (some (pg, gen), s2.modSett u (fun t => { t with lab := l.eraseIdx (r % 64) ++ [e] }))

/-- A page of a sequence with its header. -/
structure KvPage where
  page : Nat
  gen : Nat
  hdr : PHdr
  deriving DecidableEq, Repr

/-- The page an index names, its header checked (11 R294); where the page was reclaimed the entry is read again, up to `fuel` times
(R295). The status is DONE, BOUNDS or KV_REF. -/
def State.kvPage (s : State) (u : SettId) (q i : Nat) (pin : Bool) : Nat → Status × KvPage × State
  | 0 => (Code.kvRef, ⟨0, 0, s.kvHdr 0⟩, s)
  | fuel + 1 =>
    match s.kvEntry u q i with
    | (none, s1) => (s.denied (some (dieIx u)) transBase, ⟨0, 0, s1.kvHdr 0⟩, s1)
    | (some (pg, gen), s1) =>
      let h := s1.kvHdr pg
      if pg = noPage then (Code.bounds, ⟨pg, gen, h⟩, s1)
      else if pg < s1.kvPages && h.alloc && h.gen == gen && (!pin || decide (1 ≤ h.ref)) then (Code.done, ⟨pg, gen, h⟩, s1)
      else if fuel = 0 || (pg < s1.kvPages && h.alloc && h.gen == gen) then (Code.kvRef, ⟨pg, gen, h⟩, s1)
      else State.kvPage ((s1.modSett u (fun t => { t with lab := t.lab.filter (fun e => e.seq != q || e.idx != i) })).bump
        (.kvw u) 0x14 1) u q i pin fuel

/-- What an attempt at a command's page work answers. -/
inductive KvOut where
  /-- It waits for a move (11 R295, R300). -/
  | wait (s : State)
  | fin (s : State) (c : Status)

/-- KV_FAULT.PAGEIDX, 17 bits wide (11 Table 11-7). -/
def State.kvAt (s : State) (u : SettId) (i : Nat) : State := s.setReg (.kvw u) 0x08 (BitVec.ofNat 32 (i % 2 ^ 17))

/-- A fault of a command that is all or nothing: memory and allocator as they were; PAGEIDX names the page (11 R296). -/
def State.kvUndo (s s0 : State) (u : SettId) (c : Status) (i : Nat) : KvOut :=
  let s1 : State := { s with hbm := s0.hbm, burrow := s0.burrow, remote := s0.remote, kvCursor := s0.kvCursor }
  .fin (((s1.setReg .kvpool 0x28 (s0.reg .kvpool 0x28)).setReg .kvpool 0x2C (s0.reg .kvpool 0x2C)).kvAt u i) c

/-- A fault of a command that stops at a page, the earlier ones done (11 R296). -/
def State.kvStop (s : State) (u : SettId) (c : Status) (i : Nat) : KvOut := .fin (s.kvAt u i) c

/-- A command that waits looks its entries up again when it goes on: its reads are counted then, once (11 R291). -/
def State.kvRewind (s s0 : State) (u : SettId) : State :=
  (((s.setReg (.kvw u) 0x0C (s0.reg (.kvw u) 0x0C)).setReg (.kvw u) 0x10 (s0.reg (.kvw u) 0x10)).setReg (.kvw u) 0x14
    (s0.reg (.kvw u) 0x14)).modSett u (fun t => { t with lab := (s0.sett u).lab })

/-- A command of a walker allocates no more: its request, if it had one, is gone (11 R300). -/
def State.kvReqEnd (s : State) (u : SettId) (issue : Nat) : State :=
  { s with kvReq := s.kvReq.filter (fun r => r.u != u || r.issue != issue) }

/-- Pin a page for a command (11 R294). -/
def PHdr.pinned (h : PHdr) (step : Nat) : PHdr := { h with pin := h.pin + 1, last := step }

/-- Walk the pages of a KVMAP, pinning them where asked; `s0` is the state before the command. -/
def State.kvMapPages (s s0 : State) (u : SettId) (q : Nat) (pin : Bool) (step : Nat) :
    List Nat → List KvPage → (List KvPage ⊕ KvOut) × State
  | [], acc => (.inl acc, s)
  | i :: is, acc =>
    match s.kvPage u q i pin 17 with
    | (c, p, s1) =>
      if c ≠ Code.done then (.inr (s1.kvUndo s0 u c i), s1)
      else if pin && p.hdr.moving then (.inr (.wait s0), s1)
      else if pin && decide (65535 ≤ p.hdr.pin) then (.inr (s1.kvUndo s0 u Code.kvRef i), s1)
      else
        State.kvMapPages (if pin then s1.putHdr p.page (p.hdr.pinned step) else s1) s0 u q pin step is (acc ++ [p])

/-- The bytes of a KV list (11 R293). -/
def State.kvListBytes (s : State) (ps : List KvPage) : List Byte :=
  leBytes 4 ps.length ++ leBytes 12 0 ++
  ps.flatMap (fun p =>
    let a := s.kvFrameAddr p.hdr.tier p.hdr.frame
    leBytes 6 a ++ leBytes 2 0 ++ leBytes 5 ((a + s.fld .kvpool 0x04 25 16 * 256) / 256) ++ leBytes 3 0) ++
  ps.flatMap (fun p => leBytes 4 p.page ++ leBytes 2 p.gen ++ leBytes 2 0)

/-- Write a KV list into the store of the sett. -/
def State.kvPutList (s : State) (u : SettId) (dl : BitVec 14) (ps : List KvPage) : State :=
  s.modSett u (fun t => t.putStore (dl.toNat * 64) (s.kvListBytes ps))

/-- Page indices of tokens tc to tc + nc − 1. -/
def kvRange (tc nc : Nat) : List Nat := (List.range ((tc + nc - 1) / 16 + 1 - tc / 16)).map (fun j => tc / 16 + j)

/-- The page work of a KVMAP (11 R293 to R296). -/
def State.kvMapWork (s : State) (u : SettId) (q tc nc : Nat) (dl : BitVec 14) (pin : Bool) (step : Nat) : KvOut :=
  match s.kvNum u (kvSeq q) 4 with
  | (none, s1) => .fin s1 (s.denied (some (dieIx u)) transBase)
  | (some len, s1) =>
    let past := (kvRange tc nc).find? (fun i => decide (ceilDiv len 16 ≤ i))
    match past with
    | some i => s1.kvUndo s u Code.bounds i
    | none =>
      match s1.kvMapPages s u q pin step (kvRange tc nc) [] with
      | (.inr o, _) => o
      | (.inl ps, s2) => .fin (s2.kvPutList u dl ps) Code.done

/-- The pages of the list that a KVUNPIN names (11 R293). -/
def SettSt.kvListPages (t : SettSt) (dl : BitVec 14) : List (Nat × Nat) :=
  let a := dl.toNat * 64
  let n := t.word a
  (List.range n).map (fun j => (t.word (a + 16 + 16 * n + 8 * j), t.store.num (a + 20 + 16 * n + 8 * j) 2))

/-- The page work of a KVUNPIN (11 R294, R296): PAGEIDX is the place in the list. -/
def State.kvUnpinWork (s : State) (u : SettId) : List (Nat × Nat) → Nat → KvOut
  | [], _ => .fin s Code.done
  | (p, g) :: l, j =>
    let h := s.kvHdr p
    if p < s.kvPages && h.alloc && h.gen == g && decide (1 ≤ h.pin) then
      State.kvUnpinWork (s.kvPutCounts p { h with pin := h.pin - 1 }) u l (j + 1)
    else s.kvStop u Code.kvRef j

/-- Cold pages found from the eviction cursor and set moving (11 R300): at most `fuel` headers, until `need` frames are
coming free or the spill frames run out. -/
def State.kvEvictScan (s : State) (u : SettId) (step : Nat) : Nat → Nat → State
  | 0, _ => s
  | _ + 1, 0 => s
  | f + 1, need + 1 =>
    match freeBits s.hbm (s.kvMap 2) s.kvBf 0 1 with
    | [] => s
    | bf :: _ =>
      let p := s.kvEvict
      let h := s.kvHdr p
      let s1 := { s with kvEvict := if p + 1 < s.kvPages then p + 1 else 0 }
      let age := (step + 2 ^ 32 - h.last) % 2 ^ 32
      if h.alloc && h.tier == 0 && !h.moving && h.pin == 0 && decide (s.fld .kvpool 0x24 31 16 ≤ age) then
        let s2 := ((s1.kvTake 2 [bf]).putHdr p { h with moving := true })
        State.kvEvictScan { s2 with moves := s2.moves ++ [⟨p, h.frame, bf, u⟩] } u step f need
      else State.kvEvictScan s1 u step f (need + 1)

/-- What an allocation answers. -/
inductive KvAlloc where
  | got (s : State) (l : List (Nat × Nat))
  | wait (s : State)
  | fail (s : State) (c : Status)

/-- The page numbers of an allocation, next-fit from the cursor (11 R289). -/
def State.kvNextFit (s : State) (n : Nat) : List Nat :=
  let a := s.kvMap 0
  let l := freeBits s.hbm a (s.kvPages - s.kvCursor) s.kvCursor n
  l ++ freeBits s.hbm a s.kvCursor 0 (n - l.length)

/-- Take `n` page numbers and HBM frames; each new page is written with its counts (11 R289). -/
def State.kvGrab (s : State) (n pin step : Nat) : State × List (Nat × Nat) :=
  let ps := s.kvNextFit n
  let fs := freeBits s.hbm (s.kvMap 1) s.kvHf 0 n
  let s1 := (s.kvTake 0 ps).kvTake 1 fs
  let s2 := (ps.zip fs).foldl (fun s pf =>
    s.putHdr pf.1 { s.kvHdr pf.1 with ref := 1, pin := pin, tier := 0, moving := false, alloc := true, frame := pf.2, last := step }) s1
  ({ s2 with kvCursor := match ps.getLast? with
      | some p => if p + 1 < s.kvPages then p + 1 else 0
      | none => s.kvCursor }, ps.zip fs)

/-- KV_EXHAUSTED (11 R300 step 2). -/
def State.kvExhausted (s : State) : KvAlloc := .fail ({ s with kvReq := none }.bump .kvpool 0x38 1) Code.kvExhausted

/-- An allocation of `n` pages for the command of walker u issued in a cycle (11 R289, R300): requests are served one at a time;
frames that are short are won by eviction. -/
def State.kvAllocate (s : State) (u : SettId) (issue n pin step : Nat) : KvAlloc :=
  let mine := s.kvReq.filter (fun r => r.u == u && r.issue == issue)
  let other := match s.kvReq with
    | some r => mine.isNone && (!s.moves.isEmpty || ((s.sett r.u).engine 8).run.any (fun x => x.q.issue == r.issue))
    | none => false
  let fault := (mine.map (·.fault)).getD 0
  let free := (s.reg .kvpool 0x2C).toNat
  if n = 0 then .got s []
  else if other || (mine.isSome && !s.moves.isEmpty) then .wait s
  else if fault ≠ 0 then .fail { s with kvReq := none } fault
  else if n ≤ free then
    if n ≤ (s.reg .kvpool 0x28).toNat then
      match s.kvGrab n pin step with
      | (s1, l) => .got { s1 with kvReq := none } l
    else s.kvExhausted
  else if mine.isNone && Word.bit (s.reg .kvpool 0x00) 30 then
    let s1 := s.kvEvictScan u step (s.fld .kvpool 0x24 15 0 * (n - free)) (n - free)
    if s1.moves.isEmpty then s1.kvExhausted else .wait { s1 with kvReq := some ⟨u, issue, 0⟩ }
  else s.kvExhausted

/-- The Holt COPY that copies a frame of HBM (08 R222, 11 R298): nothing of it is kept where a sub-command fails. -/
def State.kvHoltCopy (s : State) (src dst n : Nat) : Status × State :=
  match s.holtTally [(src, n)] with
  | (c, s1) => (c, if c = Code.done then s1.putHbm dst (s1.hbm.load src n) else s1)

/-- Copy a whole frame (11 R298): a Holt COPY where the old frame is in HBM, else the allocator's move path. -/
def State.kvCopyFrame (s : State) (u : SettId) (h : PHdr) (f : Nat) : Status × State :=
  if h.tier = 0 then s.kvHoltCopy (s.kvFrameAddr 0 h.frame) (s.kvFrameAddr 0 f) s.kvFrame
  else
    match s.readMod (some (dieIx u)) (s.kvFrameAddr h.tier h.frame) s.kvFrame with
    | (some bs, s1) => (Code.done, (s1.writeMod (some (dieIx u)) (s.kvFrameAddr 0 f) bs).2)
    | (none, s1) => (Code.done, s1)

/-- Write a page-list entry (11 Table 11-2). -/
def State.kvPutEntry (s : State) (u : SettId) (q i page gen : Nat) : State :=
  (s.writeMod (some (dieIx u)) (kvEntAddr q i) (leBytes 4 page ++ leBytes 2 gen ++ leBytes 2 0)).2.kvStale q i

/-- Write LEN of a sequence. -/
def State.kvPutLen (s : State) (u : SettId) (q n : Nat) : State := (s.writeMod (some (dieIx u)) (kvSeq q) (leBytes 4 n)).2

/-- LEN and POS0 of a sequence, and whether its range may be written; none for BOUNDS. -/
def State.kvSeqInfo (s : State) (u : SettId) (q : Nat) : Option (Nat × Nat) × State :=
  match s.kvNum u (kvSeq q) 9 with
  | (none, s1) => (none, s1)
  | (some w, s1) =>
    match s1.locate (some (dieIx u)) (kvSeq q) true with
    | (none, s2) => (none, s2)
    | (some _, s2) => (some (bitsOf w 31 0, bitsOf w 55 32), s2)

/-- The new pages of a KVAPPEND, with the headers they were given. -/
def State.kvNewPages (s : State) (l : List (Nat × Nat)) : List KvPage :=
  l.map (fun pf => ⟨pf.1, (s.kvHdr pf.1).gen, s.kvHdr pf.1⟩)

/-- The page work of a KVAPPEND once its last page is known: `last` is an existing last page that is only part full (11 R297). -/
def State.kvAppendWith (s : State) (u : SettId) (q len nc : Nat) (dl : BitVec 14) (issue step : Nat) (last : Option KvPage) : KvOut :=
  let i0 := ceilDiv len 16
  let fresh := ceilDiv (len + nc) 16 - i0
  let copies := match last with
    | some p => if 1 < p.hdr.ref then 1 else 0
    | none => 0
  match s.kvAllocate u issue (fresh + copies) 1 step with
  | .wait s1 => .wait s1
  | .fail s1 c => .fin (s1.kvAt u (len / 16)) c
  | .got s1 l =>
    let news := s1.kvNewPages l
    let (c, head, s2) : Status × List KvPage × State := match last with
      | none => (Code.done, [], s1)
      | some p =>
        if copies = 1 then
          match news.head? with
          | none => (Code.done, [], s1)
          | some c =>
            match s1.kvCopyFrame u p.hdr c.hdr.frame with
            | (st, s2) =>
              let s3 := s2.kvPutEntry u q (len / 16) c.page c.gen
              (st, [c], s3.kvPutCounts p.page { s3.kvHdr p.page with ref := (s3.kvHdr p.page).ref - 1 })
        else (Code.done, [p], s1.putHdr p.page (p.hdr.pinned step))
    let rest := news.drop copies
    let s3 := (rest.zip (List.range rest.length)).foldl (fun s pj => s.kvPutEntry u q (i0 + pj.2) pj.1.page pj.1.gen) s2
    if c ≠ Code.done then s2.kvUndo s u c (len / 16) else .fin ((s3.kvPutList u dl (head ++ rest)).kvPutLen u q (len + nc)) Code.done

/-- The page work of a KVAPPEND (11 R294, R297). -/
def State.kvAppendWork (s : State) (u : SettId) (q tc nc : Nat) (dl : BitVec 14) (issue step : Nat) : KvOut :=
  match s.kvSeqInfo u q with
  | (none, s1) => .fin s1 (s.denied (some (dieIx u)) transBase)
  | (some (len, pos0), s1) =>
    if tc ≠ len || 1048576 < len + nc || 2 ^ 24 < pos0 + len + nc then .fin s1 Code.bounds
    else if len % 16 = 0 then s1.kvAppendWith u q len nc dl issue step none
    else
      match s1.kvPage u q (len / 16) true 17 with
      | (c, p, s2) =>
        if c ≠ Code.done then s2.kvUndo s u c (len / 16)
        else if p.hdr.moving then .wait s
        else if p.hdr.ref = 1 && decide (65535 ≤ p.hdr.pin) then s2.kvUndo s u Code.kvRef (len / 16)
        else s2.kvAppendWith u q len nc dl issue step (some p)

/-- The page work of a KVCOW (11 R294, R298). -/
def State.kvCowWork (s : State) (u : SettId) (q tc issue step : Nat) : KvOut :=
  let i := tc / 16
  match s.kvSeqInfo u q with
  | (none, s1) => .fin s1 (s.denied (some (dieIx u)) transBase)
  | (some (len, _), s1) =>
    if ceilDiv len 16 ≤ i then s1.kvUndo s u Code.bounds i
    else
      match s1.kvPage u q i false 1 with
      | (c, p, s2) =>
        if c ≠ Code.done then s2.kvUndo s u c i
        else if p.hdr.ref ≤ 1 then .fin s2 Code.done
        else if p.hdr.moving then .wait s
        else
          match s2.kvAllocate u issue 1 0 step with
          | .wait s3 => .wait s3
          | .fail s3 c => .fin (s3.kvAt u i) c
          | .got s3 l =>
            match (s3.kvNewPages l).head? with
            | none => .fin s3 Code.done
            | some n =>
              match s3.kvCopyFrame u p.hdr n.hdr.frame with
              | (c, s4) =>
                let s5 := s4.kvPutEntry u q i n.page n.gen
                if c ≠ Code.done then s4.kvUndo s u c i
                else .fin (s5.kvPutCounts p.page { s5.kvHdr p.page with ref := (s5.kvHdr p.page).ref - 1 }) Code.done

/-- Free the pages of a range one by one (11 R294, R296, R299). -/
def State.kvFreePages (s : State) (u : SettId) (q lim : Nat) : List Nat → State ⊕ KvOut
  | [] => .inl s
  | i :: is =>
    if lim ≤ i then .inr (s.kvStop u Code.bounds i)
    else
      match s.kvPage u q i true 1 with
      | (c, p, s1) =>
        if c ≠ Code.done then .inr (s1.kvStop u c i)
        else State.kvFreePages ((s1.kvPutCounts p.page { p.hdr with ref := p.hdr.ref - 1 }).kvPutEntry u q i noPage 0) u q lim is

/-- The page work of a KVFREE (11 R299). -/
def State.kvFreeWork (s : State) (u : SettId) (q tc nc : Nat) : KvOut :=
  match s.kvSeqInfo u q with
  | (none, s1) => .fin s1 (s.denied (some (dieIx u)) transBase)
  | (some (len, _), s1) =>
    if tc % 16 ≠ 0 || ((tc + nc) % 16 ≠ 0 && tc + nc ≠ len) then .fin s1 Code.bounds
    else
      match s1.kvFreePages u q (ceilDiv len 16) (kvRange tc nc) with
      | .inr o => o
      | .inl s2 => .fin (if tc + nc = len then s2.kvPutLen u q tc else s2) Code.done

/-- Add a reference to each of a list of pages of SSC, and copy its entry; an entry that is none is copied as it is (11 R299). -/
def State.kvSharePages (s s0 : State) (u : SettId) (q ss : Nat) : List Nat → State ⊕ KvOut
  | [] => .inl s
  | i :: is =>
    match s.kvPage u ss i false 1 with
    | (c, p, s1) =>
      if c = Code.bounds && p.page = noPage then State.kvSharePages (s1.kvPutEntry u q i noPage p.gen) s0 u q ss is
      else if c ≠ Code.done then .inr (s1.kvUndo s0 u c i)
      else if 65535 ≤ p.hdr.ref then .inr (s1.kvUndo s0 u Code.kvRef i)
      else State.kvSharePages (((s1.putHdr p.page { p.hdr with ref := p.hdr.ref + 1 })).kvPutEntry u q i p.page p.gen) s0 u q ss is

/-- The page work of a KVSHARE (11 R299). -/
def State.kvShareWork (s : State) (u : SettId) (q nc ss : Nat) : KvOut :=
  match s.kvSeqInfo u q with
  | (none, s1) => .fin s1 (s.denied (some (dieIx u)) transBase)
  | (some (len, _), s1) =>
    match s1.kvNum u (kvSeq ss) 4 with
    | (none, s2) => .fin s2 (s.denied (some (dieIx u)) transBase)
    | (some slen, s2) =>
      if len ≠ 0 || q = ss || slen < nc then .fin s2 Code.bounds
      else
        match s2.kvSharePages s u q ss (List.range (ceilDiv nc 16)) with
        | .inr o => o
        | .inl s3 => .fin (s3.kvPutLen u q nc) Code.done

/-- The sequences a queued KV command names (11 R292). -/
def QCmd.kvSeqs (q : QCmd) : List Nat :=
  match q.cmd with
  | .kvmap _ _ a _ _ _ _ => [q.ctr a]
  | .kvappend _ _ a _ _ _ => [q.ctr a]
  | .kvcow _ _ a _ => [q.ctr a]
  | .kvfree _ _ a _ _ => [q.ctr a]
  | .kvshare _ _ a _ b => [q.ctr a, q.ctr b]
  | _ => []

/-- The token range of a queued KV command, where it has one. -/
def QCmd.kvTok (q : QCmd) : Nat × Nat :=
  match q.cmd with
  | .kvmap _ _ _ t n _ _ => (q.ctr t, q.ctr n)
  | .kvappend _ _ _ t n _ => (q.ctr t, q.ctr n)
  | .kvfree _ _ _ t n => (q.ctr t, q.ctr n)
  | .kvcow _ _ _ t => (q.ctr t, 1)
  | .kvshare _ _ _ n _ => (0, q.ctr n)
  | _ => (0, 1)

/-- Bytes of the KV list a command writes or reads; none where it has none. -/
def QCmd.kvList (q : QCmd) (t : SettSt) : Option (Nat × Nat) :=
  let (tc, nc) := q.kvTok
  match q.cmd with
  | .kvmap _ _ _ _ _ dl _ => some (dl.toNat * 64, 16 + 24 * (kvRange tc nc).length)
  | .kvappend _ _ _ _ _ dl => some (dl.toNat * 64, 16 + 24 * (kvRange tc nc).length)
  | .kvunpin _ _ dl => some (dl.toNat * 64, 16 + 24 * t.word (dl.toNat * 64))
  | _ => none

/-- Does a sequence exist (11 R284)? -/
def State.kvValid (s : State) (u : SettId) (q : Nat) : Bool × State :=
  match s.kvNum u (kvSeq q + 8) 1 with
  | (some b, s1) => (bitOf b 0, s1)
  | (none, s1) => (false, s1)

/-- The checks of a KV command before it starts (05 R157; 11 R284, R293, Table 11-8). -/
def State.kvCheck (s : State) (u : SettId) (q : QCmd) : Status × State :=
  let (tc, nc) := q.kvTok
  if s.cfgBad .kvpool then (Code.cfgParity, s)
  else if !Word.bit (s.reg .kvpool 0x00) 31 then (Code.bounds, s)
  else if nc = 0 then (Code.zeroExtent, s)
  else if q.kvSeqs.any (fun x => decide (65536 ≤ x)) || 2 ^ 24 ≤ tc || 1048576 < nc then (Code.bounds, s)
  else if (match q.kvList (s.sett u) with
      | some (a, n) => decide (storeSize < a + n)
      | none => false) then (Code.bounds, s)
  else
    q.kvSeqs.foldl (fun (cs : Status × State) x =>
      if cs.1 ≠ Code.done then cs else
        match cs.2.kvValid u x with
        | (true, s1) => (Code.done, s1)
        | (false, s1) => (s.denied (some (dieIx u)) transBase, s1)) (Code.done, s)

/-- The page work of a queued KV command. -/
def State.kvWork (s : State) (u : SettId) (q : QCmd) : KvOut :=
  let (tc, nc) := q.kvTok
  let step := q.step.toNat
  match q.cmd with
  | .kvmap _ _ a _ _ dl pin => s.kvMapWork u (q.ctr a) tc nc dl pin step
  | .kvappend _ _ a _ _ dl => s.kvAppendWork u (q.ctr a) tc nc dl q.issue step
  | .kvunpin _ _ dl => s.kvUnpinWork u ((s.sett u).kvListPages dl) 0
  | .kvcow _ _ a _ => s.kvCowWork u (q.ctr a) tc q.issue step
  | .kvfree _ _ a _ _ => s.kvFreeWork u (q.ctr a) tc nc
  | .kvshare _ _ a _ b => s.kvShareWork u (q.ctr a) nc (q.ctr b)
  | _ => .fin s Code.done

/-- The start of a KV command (11 R292): it waits for an earlier command of the walker on its sequence; an eviction that its
allocation needs begins at once. -/
def startKv (u : SettId) (s : State) (q : QCmd) : Start :=
  let t := s.sett u
  if (t.engine 8).run.any (fun r => r.q.kvSeqs.any (fun x => q.kvSeqs.contains x)) then .wait
  else
    match s.kvCheck u q with
    | (c, s1) =>
      if c = Code.zeroExtent then .zero s1
      else if c ≠ Code.done then .fault s1 c
      else
        let reads : List Reads := match q.cmd, q.kvList t with
          | .kvunpin _ _ _, some (a, n) => [.store a n]
          | _, _ => []
        match s1.consume u 8 reads with
        | (true, s2) => .freeze s2
        | (false, s2) =>
          match s2.kvWork u q with
          | .wait s3 => .go (s3.kvRewind s2 u) Code.done 1 0 none true
          | .fin _ _ => .go s2 Code.done 1 0 none true

/-- A started command of an engine completes (05 R140). -/
def State.finishAt (s : State) (u : SettId) (e : BitVec 4) (k n : Nat) : State :=
  match ((s.sett u).engine e).run[k]? with
  | none => s
  | some r =>
    let c := r.doneAt.getD (r.start + n)
    (s.modSett u (fun t => SettSt.modEng { t with cyc := max t.cyc (c + 1) } e (fun g => { g with run := g.run.eraseIdx k }))).completeCmd
      u e r.q r.status r.inj

/-- The first started KV command whose work can be done completes (11 R292, R296). -/
def State.kvComplete (s : State) (u : SettId) (n : Nat) : Nat → List RCmd → State
  | _, [] => s
  | k, r :: rs =>
    if !r.work then s.finishAt u 8 k n
    else
      match s.kvWork u r.q with
      | .wait s1 => State.kvComplete (s1.kvRewind s u) u n (k + 1) rs
      | .fin s1 c =>
        ((s1.kvReqEnd u r.q.issue).modSett u (fun t => t.modEng 8 (fun g =>
          { g with run := g.run.modify k (fun r => { r with status := c, work := false }) }))).finishAt u 8 k n

/-- The oldest started KV command ends with a fault of its memory work, `k` pages into its list (11 R296): KVFREE and KVUNPIN have done
the pages before it. -/
def State.kvFail (s : State) (u : SettId) (r : RCmd) (k : Nat) (status : Status) : KvOut :=
  let (tc, nc) := r.q.kvTok
  let ix := (kvRange tc nc).getD k (tc / 16)
  match r.q.cmd with
  | .kvunpin _ _ dl =>
    (match s.kvUnpinWork u (((s.sett u).kvListPages dl).take k) 0 with
      | .fin s1 c => if c = Code.done then s1.kvStop u status k else .fin s1 c
      | .wait s1 => .wait s1)
  | .kvfree _ _ a _ _ =>
    (match s.kvSeqInfo u (r.q.ctr a) with
      | (some (len, _), s1) =>
        (match s1.kvFreePages u (r.q.ctr a) (ceilDiv len 16) ((kvRange tc nc).take k) with
          | .inl s2 => s2.kvStop u status ix
          | .inr o => o)
      | (none, s1) => s1.kvStop u status ix)
  | _ => s.kvStop u status ix

/-- That command of sett u takes its status; it completes in its turn (05 R140). -/
def State.kvFailRun (s : State) (u : SettId) (k : Nat) (status : Status) (inj : Bool) : State :=
  match ((s.sett u).engine 8).run with
  | [] => s
  | r :: rest =>
    if !r.work then s
    else
      match s.kvFail u r k status with
      | .wait s1 => s1
      | .fin s1 c => (s1.kvReqEnd u r.q.issue).modSett u (fun t => t.modEng 8 (fun g =>
          { g with run := { r with status := c, work := false, inj := inj && c == status } :: rest }))

/-- KVMAP (11 R293). -/
def execKvmap (u : Sett) (h : Hdr) (sqc tc nc : BitVec 4) (dl : BitVec 14) (pin : Bool) (s : State) : Result :=
  .next (s.issueCmd u 8 h (.kvmap u h sqc tc nc dl pin) [] true (startKv u))

/-- KVAPPEND (11 R297). -/
def execKvappend (u : Sett) (h : Hdr) (sqc tc nc : BitVec 4) (dl : BitVec 14) (s : State) : Result :=
  .next (s.issueCmd u 8 h (.kvappend u h sqc tc nc dl) [] true (startKv u))

/-- KVUNPIN (11 R294). -/
def execKvunpin (u : Sett) (h : Hdr) (dl : BitVec 14) (s : State) : Result :=
  .next (s.issueCmd u 8 h (.kvunpin u h dl) [] true (startKv u))

/-- KVCOW (11 R298). -/
def execKvcow (u : Sett) (h : Hdr) (sqc tc : BitVec 4) (s : State) : Result :=
  .next (s.issueCmd u 8 h (.kvcow u h sqc tc) [] true (startKv u))

/-- KVFREE (11 R299). -/
def execKvfree (u : Sett) (h : Hdr) (sqc tc nc : BitVec 4) (s : State) : Result :=
  .next (s.issueCmd u 8 h (.kvfree u h sqc tc nc) [] true (startKv u))

/-- KVSHARE (11 R299). -/
def execKvshare (u : Sett) (h : Hdr) (sqc nc ssc : BitVec 4) (s : State) : Result :=
  .next (s.issueCmd u 8 h (.kvshare u h sqc nc ssc) [] true (startKv u))

/-- The end of a page's move to the Burrow (11 R288, R300). -/
def State.kvMoveDone (s : State) (m : Move) (flt : Option Status) : State :=
  let s1 := { s with moves := s.moves.filter (fun x => x.page != m.page) }
  let h := s1.kvHdr m.page
  match flt with
  | none =>
    let s2 := match s1.readMod none (s1.kvFrameAddr 0 m.hf) s1.kvFrame with
      | (some bs, s2) => (s2.writeMod none (s1.kvFrameAddr 1 m.bf) bs).2
      | (none, s2) => s2
    let s3 := (s2.putHdr m.page { h with tier := 1, frame := m.bf, moving := false }).bump .kvpool 0x34 1
    let s4 := s3.kvGive 1 m.hf
    if h.alloc then s4 else (s4.kvGive 0 m.page).kvGive 2 m.bf
  | some c =>
    let s2 := (s1.putHdr m.page { h with moving := false }).kvGive 2 m.bf
    let s3 := if h.alloc then s2 else (s2.kvGive 0 m.page).kvGive 1 m.hf
    { s3 with kvReq := s3.kvReq.map (fun r => if r.u = m.u then { r with fault := c } else r) }

/-- KV_PAGE_MOVE_DONE (11 R300): HBM_UNCORR and BUS_ERR are the faults a move ends in. -/
def execKvPageMoveDone (page : BitVec 28) (flt : Option (BitVec 8)) (s : State) : Result :=
  .next (match s.moves.find? (fun m => m.page == page.toNat) with
    | some m => s.kvMoveDone m (match flt with
        | some c => if c = 0x22 || c = 0x23 then some c.toNat else none
        | none => none)
    | none => s)

/-- A bitmap of `n` ones in HBM, the rest of its 4 KiB lines zero. -/
def onesMap (n : Nat) : List Byte := List.replicate (n / 8) 0xFF ++ (if n % 8 = 0 then [] else [BitVec.ofNat 8 (2 ^ (n % 8) - 1)])

/-- Do the headers and HBM frames lie in HBM, the bitmaps too, and the spill frames in the Burrow (11 R286)? -/
def State.kvInTier (s : State) : Bool :=
  let bf := s.fld .kvpool 0x18 28 0 * 4096
  decide (s.kvHdrAddr s.kvPages ≤ hbmSize) && decide (s.kvFrameAddr 0 s.kvHf ≤ hbmSize) &&
  decide (s.kvMap 2 + ceilDiv s.kvBf 8 ≤ hbmSize) &&
  (s.kvBf == 0 || (decide (burrowBase ≤ bf) && decide (s.kvFrameAddr 1 s.kvBf ≤ 0x20000000000)))

/-- A write of 1 to KV_CTL.INIT (11 R286, R290). -/
def State.kvInit (s : State) : State :=
  if s.kvInTier then
    let s1 := { s with hbm := s.hbm.zero (s.kvHdrAddr 0) (16 * s.kvPages) }
    let s2 := ((s1.putHbm (s.kvMap 0) (onesMap s.kvPages)).putHbm (s.kvMap 1) (onesMap s.kvHf)).putHbm (s.kvMap 2) (onesMap s.kvBf)
    let s3 := ((s2.setReg .kvpool 0x28 (BitVec.ofNat 32 s.kvPages)).setReg .kvpool 0x2C (BitVec.ofNat 32 s.kvHf)).setReg
      .kvpool 0x30 (BitVec.ofNat 32 s.kvBf)
    ({ s3 with kvCursor := 0, kvEvict := 0 }.putBit .kvpool 0 2 false).putBit .kvpool 0 1 true
  else (s.putBit .kvpool 0 2 true).putBit .kvpool 0 31 false

/-- KV_INIT (11 R290). -/
def execKvInit (s : State) : Result := .next s.kvInit

/-- KV_INIT_DONE (11 R290): INIT_BUSY clears. -/
def execKvInitDone (s : State) : Result := .next (s.putBit .kvpool 0 1 false)

/-- A write of 1 to KV_WCTL.LABINV (11 R291). -/
def State.labInv (s : State) (u : SettId) : State := s.modSett u (fun t => { t with lab := [] })

/-- LABINV (11 R291). -/
def execLabinv (u : Sett) (s : State) : Result := .next (s.sqAct u (fun s => s.labInv u))

end Sys2Proof.Machine
end

