-- ==== Sys2Proof/Machine/Recipe.lean ====
section
/-!
DEFINITION. Scale recipes: the amax history record and the loss scale (10 R261 to R270).
-/
namespace Sys2Proof.Machine

/-- An amax history record (10 Table 10-3), without its check value. -/
structure Hist where
  cur : Nat
  pre : Nat
  len : Nat
  fill : Nat
  head : Nat
  margin : Nat
  cold : Nat
  kind : Nat
  tensor : Nat
  lastc : Nat
  mid : List Byte
  amax : List Nat
  deriving DecidableEq, Repr

/-- −1.0, an empty amax word. -/
def emptyAmax : Nat := 0xBF800000

def Hist.parse (bs : List Byte) : Hist :=
  let n (o k : Nat) : Nat := leNat ((bs.drop o).take k)
  { cur := n 0 4, pre := n 4 4, len := n 8 1, fill := n 9 1, head := n 10 1, margin := n 11 1, cold := n 12 1, kind := n 13 1,
    tensor := n 14 2, lastc := n 16 4, mid := (bs.drop 20).take 40,
    amax := (List.range 64).map (fun i => n (64 + 4 * i) 4) }

/-- The 320 bytes of a record, its CHK recomputed. -/
def Hist.bytes (h : Hist) : List Byte :=
  let a := leBytes 4 h.cur ++ leBytes 4 h.pre ++ leBytes 1 h.len ++ leBytes 1 h.fill ++ leBytes 1 h.head ++ leBytes 1 h.margin ++
    leBytes 1 h.cold ++ leBytes 1 h.kind ++ leBytes 2 h.tensor ++ leBytes 4 h.lastc ++ h.mid
  let b := h.amax.flatMap (leBytes 4)
  a ++ leBytes 4 (crc32 (a ++ [0, 0, 0, 0] ++ b)) ++ b

/-- A stored CHK that holds; 0 never does (10 R262). -/
def chkHolds (bs : List Byte) : Bool :=
  let c := leNat ((bs.drop 60).take 4)
  c != 0 && c == crcZeroed bs 60

/-- A record verifies (10 R262). -/
def Hist.verifies (bs : List Byte) : Bool :=
  let h := Hist.parse bs
  chkHolds bs && decide (1 ≤ h.len) && decide (h.len ≤ 64) && decide (h.fill ≤ h.len) && decide (h.head < h.len) &&
  decide (h.margin ≤ 15) && decide (h.cold ≤ 16) && decide (h.kind ≤ 2)

/-- An empty amax word: −1.0 or any other negative value but −0.0 (10 R262). -/
def amaxEmpty (w : Nat) : Bool := bitOf w 31 && w != 0x80000000 && !(f32Num w).isNan

/-- A word that may give H. -/
def amaxUsable (w : Nat) : Bool := !amaxEmpty w && f32Finite w

/-- NaN or infinity, not empty: sets RCPNAN (10 R264). -/
def amaxBad (w : Nat) : Bool := !amaxEmpty w && !f32Finite w

/-- A record as CHECK resets it (10 R266). -/
def Hist.reset (h : Hist) : Hist :=
  let kind := if h.kind ≤ 2 then h.kind else 0
  { cur := emptyAmax, pre := emptyAmax, fill := 0, head := 0, cold := 16, kind := kind, tensor := h.tensor,
    len := if 1 ≤ h.len ∧ h.len ≤ 64 then h.len else if kind = 0 then 16 else if kind = 1 then 8 else 1,
    margin := if h.margin ≤ 15 then h.margin else if kind = 0 then 1 else if kind = 1 then 2 else 0,
    lastc := 0, mid := List.replicate 40 0, amax := List.replicate 64 emptyAmax }

/-- The FILL most recent slots (10 R264). -/
def Hist.window (h : Hist) : List Nat :=
  (List.range h.fill).map (fun i => h.amax.getD ((h.head + 2 * h.len - 1 - i) % h.len) 0)

/-- The exponent of step 3 of 10 R264. -/
def recipeExp (h : Option Nat) (margin : Nat) : Int :=
  match h with
  | none => 0
  | some w =>
    let x := f32Num w
    if x.isZero then 0 else clampInt (-126) 127 (x.ceilLog2 + margin)

/-- What a recipe does: the new record, the value of DD, and its VE_FLAGS bits. -/
structure RecipeRes where
  hist : Hist
  dd : Nat
  rcpnan : Bool
  invalid : Bool
  /-- An amax word it read is subnormal. -/
  denorm : Bool
  deriving DecidableEq, Repr

/-- DELAYED on a verified or reset record (10 R264). -/
def Hist.delayed (h : Hist) : RecipeRes :=
  let commit := amaxUsable h.cur
  let h1 := if commit then
      { h with amax := h.amax.set h.head h.cur, head := (h.head + 1) % h.len, fill := min (h.fill + 1) h.len }
    else h
  let win := h1.window
  let hv : Option Nat :=
    if 0 < h.cold then (if amaxUsable h.pre then some h.pre else none)
    else (win.filter amaxUsable).foldl (fun m w => match m with
      | none => some w
      | some x => if (f32Num x).le (f32Num w) then some w else some x) none
  let dd := f32Pow2 (recipeExp hv h.margin)
  { hist := { h1 with cur := emptyAmax, pre := emptyAmax, cold := h.cold - 1, lastc := dd }, dd := dd,
    rcpnan := amaxBad h.cur || (decide (0 < h.cold) && amaxBad h.pre),
    invalid := (f32Num h.cur).isNan || (f32Num h.pre).isNan || win.any (fun w => (f32Num w).isNan),
    denorm := f32Sub h.cur || f32Sub h.pre || win.any f32Sub }

/-- CURRENT (10 R265). -/
def Hist.current (h : Hist) : RecipeRes :=
  let hv := if amaxUsable h.pre then some h.pre else none
  let dd := f32Pow2 (recipeExp hv h.margin)
  { hist := { h with pre := emptyAmax, lastc := dd }, dd := dd, rcpnan := amaxBad h.pre, invalid := (f32Num h.pre).isNan,
    denorm := f32Sub h.pre }

/-- The descriptor rules of a VRECIPE (10 R263, 05 R150): `bound` is 80, or 16 for LOSS, and DD, of extents `ext`, names one element. -/
def recipeDescs (d d1 : Desc) (bound : Nat) (ext : List Nat) : Bool :=
  d1.space == 0 && d1.fmtc == 6 && d1.ndim == 1 && (d1.dim 0).stride == 1 && d1.bound 0 == bound && d1.base % 64 == 0 && !d1.pl &&
  d.fmtc == 6 && (ext.take 5).all (· == 1)

/-- One vector event record of a recipe (10 R266, R268). -/
def State.recipeEvent (s : State) (u : SettId) (layer : Nat) : State := s.postSett u 2 Code.done layer false []

/-- The common frame of the recipes: checks, the record, the result. -/
def startRecipe (u : SettId) (dd ds1 : BitVec 14) (bound : Nat) (f : State → SettSt → View → Nat → State) (s : State) (q : QCmd) : Start :=
  let t := s.sett u
  let d := t.desc dd
  let d1 := t.desc ds1
  match vecOpen t [(d, q.extOf 0), (d1, q.extOf 1)] (recipeDescs d d1 bound (q.extOf 0)) with
  | some c => .ended s c
  | none =>
    match s.consume u 2 [.store d1.base (4 * bound)] with
    | (true, s1) => .freeze s1
    | (false, s1) => .go (f s1 t (d.view t (q.extOf 0)) d1.base) Code.done 64 0 (some 80) false

/-- The reset of a record that does not verify: one event, and VE_FLAGS.COLD (10 R266, R267). -/
def State.coldStart (s : State) (u : SettId) (h : Hist) : State :=
  (s.recipeEvent u h.tensor).orReg (.ve u) 0x04 4

/-- Write a record and DD, and set the flags of a recipe: fast mode notes a subnormal amax word as DENORM and lets it give the same
scale as strict mode (10 R250, R251, R264; log entry 50). -/
def State.recipeWrite (s : State) (u : SettId) (strict : Bool) (v : View) (base : Nat) (r : RecipeRes) : State :=
  let s1 := s.modSett u (fun t => v.set (t.putStore base r.hist.bytes) [0, 0, 0, 0, 0] 0 r.dd)
  s1.orReg (.ve u) 0x04 (BitVec.ofNat 32 (flagBit r.rcpnan 3 +
    (if strict then flagBit r.invalid 4 else flagBit r.denorm 9)))

/-- The start of DELAYED (10 R264, R267). -/
def startDelayed (u : SettId) (strict : Bool) (dd ds1 : BitVec 14) (s : State) (q : QCmd) : Start :=
  startRecipe u dd ds1 80 (fun s t v base =>
    let bs := t.store.load base 320
    let h := Hist.parse bs
    if Hist.verifies bs then s.recipeWrite u strict v base h.delayed
    else (s.coldStart u h).recipeWrite u strict v base h.reset.delayed) s q

/-- The start of CURRENT (10 R265, R267). -/
def startCurrent (u : SettId) (strict : Bool) (dd ds1 : BitVec 14) (s : State) (q : QCmd) : Start :=
  startRecipe u dd ds1 80 (fun s t v base =>
    let bs := t.store.load base 320
    let h := Hist.parse bs
    if Hist.verifies bs then s.recipeWrite u strict v base h.current
    else (s.coldStart u h).recipeWrite u strict v base { h.reset with cold := 15 }.current) s q

/-- An unsigned integer as an FP32 pattern. -/
def f32OfNat (n : Nat) : Nat := f32Bits (.fin false n 0)

/-- The start of CHECK (10 R266): DD receives COLD. -/
def startCheck (u : SettId) (dd ds1 : BitVec 14) (s : State) (q : QCmd) : Start :=
  startRecipe u dd ds1 80 (fun s t v base =>
    let bs := t.store.load base 320
    let h := Hist.parse bs
    if Hist.verifies bs then s.modSett u (fun t => v.set t [0, 0, 0, 0, 0] 0 (f32OfNat h.cold))
    else
      (s.coldStart u h).modSett u (fun t => v.set (t.putStore base h.reset.bytes) [0, 0, 0, 0, 0] 0 (f32OfNat 16))) s q

/-- The loss-scale record after LOSS (10 R268, Table 10-5): new EXP, PERIOD, CLEAN. -/
def lossStep (ovf : Nat) (exp : Int) (period clean : Nat) : Int × Nat :=
  if (f32Num ovf).isZero then
    let c := (clean + 1) % 65536
    if c = period then (Min.min (exp + 1) 24, 0) else (exp, c)
  else (Max.max (exp - 1) (-24), 0)

/-- The 64 bytes of a loss-scale record with its CHK. -/
def lossBytes (old : List Byte) (exp : Int) (period clean : Nat) : List Byte :=
  let a := leBytes 4 0 ++ leBytes 1 (twosOf 8 exp) ++ (old.drop 5).take 1 ++ leBytes 2 period ++ leBytes 2 clean ++
    (old.drop 10).take 6 ++ leBytes 4 (f32Pow2 exp) ++ (old.drop 20).take 40
  a ++ leBytes 4 (crc32 (a ++ [0, 0, 0, 0]))

/-- The start of LOSS (10 R268). -/
def startLoss (u : SettId) (dd ds1 : BitVec 14) (s : State) (q : QCmd) : Start :=
  startRecipe u dd ds1 16 (fun s t v base =>
    let bs := t.store.load base 64
    let n (o k : Nat) : Nat := leNat ((bs.drop o).take k)
    let ok := chkHolds bs
    let (exp, clean) := if ok then lossStep (n 0 4) (signedOf 8 (n 4 1)) (n 6 2) (n 8 2) else lossStep 0 0 1000 0
    let s1 := if ok then s else s.recipeEvent u 0
    s1.modSett u (fun t =>
      v.set (t.putStore base (lossBytes bs exp (if ok then n 6 2 else 1000) clean)) [0, 0, 0, 0, 0] 0 (f32Pow2 exp))) s q

/-- VRECIPE_DELAYED (10 R264). -/
def execVrecipeDelayed (u : Sett) (h : Hdr) (strict : Bool) (dd ds1 : BitVec 14) (given : Bool) (s : State) : Result :=
  .next (s.issueCmd u 2 h (.vrecipeDelayed u h strict dd ds1 given) [dd, ds1] true (startDelayed u strict dd ds1))

/-- VRECIPE_CURRENT (10 R265). -/
def execVrecipeCurrent (u : Sett) (h : Hdr) (strict : Bool) (dd ds1 : BitVec 14) (given : Bool) (s : State) : Result :=
  .next (s.issueCmd u 2 h (.vrecipeCurrent u h strict dd ds1 given) [dd, ds1] true (startCurrent u strict dd ds1))

/-- VRECIPE_CHECK (10 R266). -/
def execVrecipeCheck (u : Sett) (h : Hdr) (strict : Bool) (dd ds1 : BitVec 14) (given : Bool) (s : State) : Result :=
  .next (s.issueCmd u 2 h (.vrecipeCheck u h strict dd ds1 given) [dd, ds1] true (startCheck u dd ds1))

/-- VRECIPE_LOSS (10 R268). -/
def execVrecipeLoss (u : Sett) (h : Hdr) (strict : Bool) (dd ds1 : BitVec 14) (given : Bool) (s : State) : Result :=
  .next (s.issueCmd u 2 h (.vrecipeLoss u h strict dd ds1 given) [dd, ds1] true (startLoss u dd ds1))

end Sys2Proof.Machine
end

