-- ==== Sys2Proof/Machine/Runtime.lean ====
section
/-!
DEFINITION. Starts and completions of queued commands, signal packets, parity replay, links, and the ends of HBM and Burrow
accesses (04 R112; 05 R140, R155; 07 R183 to R199; 03 R97).
-/
namespace Sys2Proof.Machine

/-- Targets of a TSIG (05 R155). -/
def State.tsigTargets (s : State) (u : SettId) (die : Bool) (sett : BitVec 7) (mg : BitVec 6) : List SettId :=
  if mg = 0 then [settOf (if die then 1 else 0) sett.toNat] else s.members (dieIx u) mg.toNat

/-- The start of a TSIG: its packets set out (05 R155). -/
def startTsig (u : SettId) (die : Bool) (sett : BitVec 7) (mg : BitVec 6) (tsg : BitVec 5) (inc : BitVec 16)
    (s : State) (_q : QCmd) : Start :=
  if mg ≠ 0 && s.cfgBad (.tr (dieIx u)) then .fault s Code.cfgParity
  else
    .go { s with pkts := s.pkts ++ (s.tsigTargets u die sett mg).map (fun v => ⟨u, v, tsg, inc, s.trOrd⟩), trOrd := s.trOrd + 1 }
      Code.done 1 0 none true

/-- TSIG (05 R155): INC 0, or DIE and SETT beside a group, are out of range. -/
def execTsig (u : Sett) (h : Hdr) (die : Bool) (sett : BitVec 7) (mg : BitVec 6) (tsg : BitVec 5) (inc : BitVec 16)
    (s : State) : Result :=
  .next (if inc = 0 ∨ (mg ≠ 0 ∧ (die = true ∨ sett ≠ 0)) then s.badWord u 9
  else s.issueCmd u 9 h (.tsig u h die sett mg tsg inc) [] true (startTsig u die sett mg tsg inc))

/-- TRESTLE_SIGNAL_PACKET (04 R112, R113; 01 R20, R26): the oldest packet on its way to the sett with this counter and increment that
nothing its sender sent before it to the sett precedes. -/
def execTrestleSignalPacket (u : Sett) (sg : BitVec 5) (inc : BitVec 16) (s : State) : Result :=
  .next (match s.pkts.find? (fun p => p.dst == u && p.sg == sg && p.inc == inc && s.trFirst p.src u p.ord) with
    | some p => { s with pkts := s.pkts.erase p }.sig u sg inc.toNat (some p.src)
    | none => s)

/-- The start of a queued command by its meaning. -/
def startOf : Instr → State → QCmd → Start
  | .mma u _ da db tile str res kc => startMma u da db tile str res kc
  | .cvt u _ dd mode given tile => startCvt u dd mode given tile
  | .rload u _ db kc => startRload u db kc
  | .rdrop u _ => startRdrop u
  | .vadd u _ st dd a b g => startVadd u st dd a b g
  | .vsub u _ st dd a b g => startVsub u st dd a b g
  | .vmul u _ st dd a b g => startVmul u st dd a b g
  | .vfma u _ st dd a b g => startVfma u st dd a b g
  | .vmax u _ st dd a b g => startVmax u st dd a b g
  | .vmin u _ st dd a b g => startVmin u st dd a b g
  | .vdiv u _ st dd a b g => startVdiv u st dd a b g
  | .vabs u _ st dd a g => startVabs u st dd a g
  | .vneg u _ st dd a g => startVneg u st dd a g
  | .vcpy u _ st dd a g => startVcpy u st dd a g
  | .vsqrt u _ st dd a g => startVsqrt u st dd a g
  | .vfn u _ st dd a t g => startVfn u st dd a t g
  | .vdfn u _ st dd a t g => startVdfn u st dd a t g
  | .vrsum u _ st dd a g => startVrsum u st dd a g
  | .vrmax u _ st dd a g => startVrmax u st dd a g
  | .vrssq u _ st dd a g => startVrssq u st dd a g
  | .vamax u _ st dd a g => startVamax u st dd a g
  | .vrecipeDelayed u _ st dd a _ => startDelayed u st dd a
  | .vrecipeCurrent u _ st dd a _ => startCurrent u st dd a
  | .vrecipeCheck u _ _ dd a _ => startCheck u dd a
  | .vrecipeLoss u _ _ dd a _ => startLoss u dd a
  | .stash u _ ds e c => startStash u ds e c
  | .unstash u _ dd e => startUnstash u dd e
  | .sfree u _ e => startSfree u e
  | .dstart u c _ prog pe pc => startDstart u c prog pe pc
  | .kvmap u _ _ _ _ _ _ => startKv u
  | .kvappend u _ _ _ _ _ => startKv u
  | .kvunpin u _ _ => startKv u
  | .kvcow u _ _ _ => startKv u
  | .kvfree u _ _ _ _ => startKv u
  | .kvshare u _ _ _ _ => startKv u
  | .tsig u _ die sett mg tsg inc => startTsig u die sett mg tsg inc
  | .hcmd u _ dh => startHcmd u dh
  | _ => fun s _ => .fault s Code.planMismatch

/-- The head of an engine's queue. -/
def State.headOf (s : State) (u : SettId) (e : BitVec 4) : Option QCmd := ((s.sett u).engine e).queue.head?

/-- May another command of the engine start (03 R97; 11 R292; 13 R317)? -/
def SettSt.slotFree (t : SettSt) (e : BitVec 4) : Bool :=
  let n := (t.engine e).run.length
  if e.toNat ≤ 2 then true else if e.toNat = 3 then decide (n < 16) else if e.toNat = 8 then decide (n < 4) else n == 0

/-- COMMAND_START (03 R97, 04 R103, 05 R138). -/
def execCommandStart (u : Sett) (eng : BitVec 4) (s : State) : Result :=
  .next (if engOk eng && (s.sett u).slotFree eng then
    match s.headOf u eng with
    | some q => s.begin u eng (startOf q.cmd)
    | none => s
  else s)

/-- Is an increment of a TSIG of sett u on its way, or waiting at a frozen target (04 R110, 05 R155)? -/
def State.tsigOpen (s : State) (u : SettId) : Bool :=
  s.pkts.any (fun p => p.src == u) || s.setts.toList.any (fun t => t.lateSig.any (fun p => p.2.2 == some u))

/-- The completion of the oldest TSIG, every target having applied it (05 R155). -/
def State.tsigComplete (s : State) (u : SettId) (n : Nat) : State :=
  match ((s.sett u).engine 9).run with
  | r :: _ =>
    (match r.q.cmd with
      | .tsig _ _ _ _ _ _ _ => if s.tsigOpen u then s else s.finishHead u 9 n
      | _ => s)
  | [] => s

/-- The oldest packet of a TSIG from u to v is lost on a link (07 R198): its increment is never made, and the TSIG ends with the status. -/
def State.tsigLost (s : State) (u v : SettId) (status : Status) (inj : Bool) : State :=
  match s.pkts.find? (fun p => p.src == u && p.dst == v) with
  | none => s
  | some p =>
    { s with pkts := s.pkts.erase p }.modSett u (fun t => t.modEng 9 (fun g => { g with run := g.run.map (fun (r : RCmd) => match r.q.cmd with
      | .tsig _ _ _ _ _ _ _ => { r with status := status, inj := inj }
      | _ => r) }))

/-- COMMAND_COMPLETION (05 R140). A DSTART ends with its program, an HCMD with its completion step. -/
def execCommandCompletion (u : Sett) (eng : BitVec 4) (n : BitVec 32) (s : State) : Result :=
  .next (if (s.sett u).freeze.isSome then s
  else if eng = 2 then s.finishFirst u eng
  else if eng = 1 then s.finishHead u eng n.toNat
  else if eng = 3 then s.stashComplete u n.toNat
  else if eng = 8 then s.kvComplete u n.toNat 0 ((s.sett u).engine 8).run
  else if eng = 9 then s.tsigComplete u n.toNat
  else s)

/-- A mismatch of a frozen sett is resolved (04 R110, R111): the next one found goes on; after the last the freeze ends, and increments
that arrived are applied in the cycle after it. -/
def SettSt.thaw (t : SettSt) : SettSt :=
  match t.frzMore with
  | f :: fs => { t with freeze := some f, frzMore := fs }
  | [] => t.lateSig.foldl (fun t p => t.sigAdd p.1 p.2.1) { t with freeze := none, lateSig := [] }

/-- Accesses of the endpoints, and ends of work-queue entries, that waited at the crossing of a sett go on once its freeze has ended (04 R110, 17 R401). -/
def State.resettle (s : State) (u : SettId) : State := if (s.sett u).freeze.isSome then s else s.memRetry.endRetry

/-- A mismatch of a frozen sett is resolved. -/
def State.thaw (s : State) (u : SettId) : State := (s.modSett u SettSt.thaw).resettle u

/-- Frozen cycles (04 R109). -/
def SettSt.frozenFor (t : SettSt) (n : Nat) : SettSt := { t with frzCnt := satAdd t.frzCnt n }

/-- Module address of a word of a sett, where it has one. -/
def Bad.modAddr (u : SettId) : Bad → Nat
  | .store a => windowOf u + a
  | .wab a => windowOf u + 0x400000 + a
  | _ => 0

/-- The channel whose transfer read the lost word stops at it (13 R328). -/
def State.chanLost (s : State) (u : SettId) (f : Freeze) (c : Chan) (status : Status) : State :=
  let h := s.chan c
  if h.still then s
  else if h.st = .aborting then s.modChan c (fun h => h.alsoFails (f.bad.modAddr u))
  else (s.modChan c (fun h => { h with checked := 0 })).dmaFault c status (f.bad.modAddr u)

/-- An unrecovered word halts the sett (04 R128, 07 R194): the command whose read found it completes with the status. -/
def State.parityHalt (s : State) (u : SettId) (f : Freeze) (status : Status) : State :=
  let s1 := s.modSett u SettSt.thaw
  let t := s1.sett u
  let own (e : BitVec 4) : State :=
    match (t.engine e).queue with
    | [] => s1.haltSett u status e.toNat 2 t.pc f.injected
    | q :: rest =>
      (s1.modSett u (fun t => t.modEng e (fun g => { g with queue := rest, checked := 0, named := false }))).completeCmd u e q status f.injected
  let s2 := match f.who with
    | some c => s1.chanLost u f c status
    | none => s1
  let done :=
    if f.eng = 0 then (s1.modSett u (fun t => { t with fetched := 0 })).haltSett u status 0 2 t.pc f.injected
    else if 4 ≤ f.eng ∧ f.eng ≤ 7 then
      let k : Fin 4 := ⟨(f.eng - 4) % 4, Nat.mod_lt _ (by decide)⟩
      let ix := match (t.engine (chanEng k)).run with
        | r :: _ => r.q.index
        | [] => t.pc
      s2.haltSett u status f.eng 2 ix f.injected
    else if f.eng = 9 then
      let mine := match (t.engine 9).queue, f.bad with
        | q :: _, .store a => (match q.cmd with
            | .hcmd _ _ dh => decide (dh.toNat * 64 ≤ a) && decide (a < dh.toNat * 64 + 64)
            | _ => false)
        | _, _ => false
      if mine && f.who.isNone then own 9
      else s2.haltSett u status 9 2 t.pc f.injected
    else own (BitVec.ofNat 4 f.eng)
  done.resettle u

/-- The sett-store line of a word that is clean, if it is one (07 R195). -/
def SettSt.cleanLine (t : SettSt) (b : Bad) : Option (Nat × Nat) :=
  match b with
  | .store a => (Tbl.find t.clean (a / 4096)).map (fun line => (a / 4096, line))
  | _ => none

/-- Counter of attempts: local re-reads or re-sends (07 Table 07-11). -/
def Bad.counter : Bad → Nat
  | .flit => 0x104
  | _ => 0x100

/-- Cycles of one attempt: 5 for a local word (07 Table 07-7). -/
def Bad.attempt (b : Bad) (n : Nat) : Nat :=
  match b with
  | .flit => n
  | _ => 5

/-- PARITY_REREAD_DONE (07 R194): one attempt ends. `ok` says whether a re-sent flit was good, `n` the frozen cycles it took. -/
def execParityRereadDone (u : Sett) (ok : Bool) (n : BitVec 32) (s : State) : Result :=
  .next (match (s.sett u).freeze with
    | none => s
    | some f =>
      if f.refetch = 1 then s
      else if f.refetch = 2 then
        let s1 := s.modSett u (fun t => t.frozenFor 5)
        match s1.injStep (.injS u) f.bad.point (wordSel f.bad.point f.eng) 1 with
        | (some _, s2) => s2.parityHalt u { f with injected := true } Code.parityHard
        | (none, s2) => if (s2.sett u).bad.contains f.bad then s2.parityHalt u f Code.parityHard else s2.thaw u
      else
        let s1 := (s.modSett u (fun t => t.frozenFor (f.bad.attempt n.toNat))).bump (.ftS u) f.bad.counter 1
        let still := (f.injected && f.persist) || (s1.sett u).bad.contains f.bad || (f.bad == .flit && !ok)
        if !still then s1.thaw u
        else if f.attempts + 1 < 3 then s1.modSett u (fun t => { t with freeze := some { f with attempts := f.attempts + 1 } })
        else
          match (s1.sett u).cleanLine f.bad with
          | some _ =>
            (s1.modSett u (fun t => { t with freeze := some { f with attempts := 3, refetch := 1 } })).bump (.ftS u) 0x108 1
          | none => s1.parityHalt u f Code.parityHard)

/-- CLEAN_LINE_REFETCH_DONE (07 R194): the whole line is copied again from its backing HBM line, or the read is lost. -/
def execCleanLineRefetchDone (u : Sett) (ok : Bool) (n : BitVec 32) (s : State) : Result :=
  .next (match (s.sett u).freeze with
    | none => s
    | some f =>
      if f.refetch ≠ 1 then s
      else
        let s1 := s.modSett u (fun t => t.frozenFor n.toNat)
        if !ok then s1.parityHalt u f Code.hbmUncorr
        else
          match (s1.sett u).cleanLine f.bad with
          | none => s1.parityHalt u f Code.parityHard
          | some (line, b) =>
            s1.modSett u (fun t =>
              let t1 := t.putStore (line * 4096) (s1.hbm.load (b * 4096) 4096)
              { t1 with clean := Tbl.put t1.clean line b, freeze := some { f with refetch := 2 } }))

/-- REFETCH_TIMEOUT (07 R194): 2^20 cycles after the request. -/
def execRefetchTimeout (u : Sett) (s : State) : Result :=
  .next (match (s.sett u).freeze with
    | none => s
    | some f => if f.refetch = 1 then (s.modSett u (fun t => t.frozenFor (2 ^ 20))).parityHalt u f Code.parityHard else s)

/-- What an UNSTASH that failed leaves in its destination (09 R236): codes, block scales and coarse scale that nothing constrains. -/
def SettSt.unstashFree (t : SettSt) (d : Desc) (ext : List Nat) (ctr : Nat) : SettSt :=
  let w (i : Nat) : Nat := Config.freeValue (ctr + i)
  let t0 := if d.csp then t.putStore d.cscale (leBytes 4 (w 0 % 2 ^ 32)) else t
  let v := d.view t0 ext
  let ixs := v.indices
  let bxs := blockIxs v.ext v.d.sbdim
  let t1 := (List.range v.d.fmt.planes).foldl (fun t p => (ixs.zip (List.range ixs.length)).foldl (fun t ik =>
    v.set t ik.1 p (w (1 + ik.2 * 3 + p) % 2 ^ v.d.fmt.bits)) t) t0
  let t2 := if v.d.isLn then (List.range v.d.fmt.planes).foldl (fun t p => (bxs.zip (List.range bxs.length)).foldl (fun t ik =>
      v.setBs t ik.1 p (signedOf 8 (w (1 + 3 * ixs.length + ik.2 * 3 + p) % 256))) t) t1
    else t1
  t2.wrote v.d.space v.spans

/-- The oldest started command of an engine ends with a fault of its memory work, a KV command `k` pages into its list (09 R245, 11
R296). -/
def State.failRun (s : State) (u : SettId) (e : BitVec 4) (k : Nat) (status : Status) (inj : Bool) : State :=
  if e = 8 then s.kvFailRun u k status inj
  else
    match ((s.sett u).engine e).run with
    | [] => s
    | r :: rest =>
      let stop (s : State) : State :=
        s.modSett u (fun t => t.modEng e (fun g => { g with run := { r with status := status, work := false, inj := inj } :: rest }))
      match r.q.cmd with
      | .stash _ _ _ _ _ =>
        if r.work then
          (s.modSett u (fun t => t.modEng e (fun g => { g with run := { r with inj := inj } :: rest }))).stashPlacement u (some status)
        else s
      | .unstash _ _ dd _ =>
        let d := (s.sett u).desc dd
        let ext := r.q.extOf 0
        { stop (s.modSett u (fun t => t.unstashFree d ext s.freeCtr)) with
          freeCtr := s.freeCtr + 1 + 6 * (d.view (s.sett u) ext).indices.length }
      | _ => if 0x10 ≤ r.status then s else stop s

/-- A running sub-command of a Holt meets a failure at an address of its line (08 R226). -/
def State.holtMeets (s : State) (h a : Nat) (status : Status) (counted inj : Bool) : State :=
  if (s.hq.toList.getD h []).isEmpty then s else { s with hflt := s.hflt ++ [⟨h, a, status, counted, inj⟩] }

/-- The requester of an access completes with a status (07 R186, R198, R199): a BUS_ERR of a burst is the channel's to retry. -/
def State.victim (s : State) (v : Victim) (status : Status) (inj : Bool) : State :=
  match v with
  | .none => s
  | .chan c i rd => s.burstEnd c i.toNat rd status inj
  | .engine u e k => if e = 3 || e = 8 then s.failRun u e k.toNat status inj else s
  | .tsig u v => if status = Code.parityHard then s.tsigLost u v status inj else s
  | .holt h a => s.holtMeets h.val a.toNat status true inj
  | .loader => { s with load := s.load.map (fun l => { l with flt := l.flt.orElse (fun _ => some status) }) }
  | .message => ((s.vd.arrived.filter (fun m => memFaultOk (eDst m.entry) status)).map (fun m =>
      s.setMsg m { m with flt := m.flt.orElse (fun _ => some status) })).getD s

/-- One access as an opportunity of an injection point: how many of its tries the fire spoils, of at most `most`. -/
def State.injFails (s : State) (b : Blk) (p sel most : Nat) : Nat × State :=
  match s.injStep b p (fun x => x == sel) 1 with
  | (some (_, persist), s1) => (if persist then most else 1, s1)
  | (none, s1) => (0, s1)

/-- A record of a detector outside the setts, with a physical address. -/
def State.postAt (s : State) (src status addr : Nat) (inj : Bool) : State :=
  s.post { status := status, inj := inj, src := src, step := 0xFFFFFFFF, layer := 0, cycle := s.cycle, addr := addr, detail := [] }

/-- Stack and channel of an HBM address (07 R181). -/
def hbmStack (a : Nat) : Nat := bitsOf a 14 12
def hbmChan (a : Nat) : Nat := bitsOf a 18 15

/-- Where an access begins or ends, as the links see it: the die, with the columns and rows of the routers it may enter the mesh at; no die
for Xalor and what lies behind it (01 R22, R25). A pier port of row 0 serves controllers 0 and 1, one of row 7 controllers 2 and 3; which
column, the spec leaves open. -/
structure MeshEnd where
  die : Option Nat
  cols : List Nat
  rows : List Nat
  sett : Bool

/-- A sett, at the router of TR_LMAP (01 R31, log entry 5). -/
def settEnd (u : SettId) : MeshEnd := ⟨some (dieOf u), [min (numOf u % 17) 15], [numOf u / 17], true⟩

/-- A place of memory. -/
def Loc.meshEnd : Loc → MeshEnd
  | .hbm a => ⟨some (hbmStack a / 4), List.range 16, [if hbmStack a % 4 < 2 then 0 else 7], false⟩
  | .store u _ => settEnd u
  | .wab u _ => settEnd u
  | _ => ⟨none, [], [], false⟩

/-- Does x lie between a and b? -/
def between (a b x : Nat) : Bool := decide (min a b ≤ x) && decide (x ≤ max a b)

/-- Is the router at (col, row) of die d on the route of a packet between two spots: along its column first, then along its row (01 R20;
log entry 55)? Towards another die the pier port may be of either row. -/
def onRoute (d col row : Nat) (a b : MeshEnd) : Bool :=
  let mesh (p : MeshEnd) : MeshEnd := if p.die = some d then p else ⟨some d, List.range 16, [0, 7], false⟩
  let one (a b : MeshEnd) : Bool :=
    a.rows.any (fun r1 => b.rows.any (fun r2 =>
      (a.cols.contains col && between r1 r2 row) || (row == r2 && a.cols.any (fun c1 => b.cols.any (fun c2 => between c1 c2 col)))))
  ((a.die == some d && a.sett) || (b.die == some d && b.sett)) && (one (mesh a) (mesh b) || one (mesh b) (mesh a))

/-- Does traffic between two spots cross the receiver of a link (01 R20, R22, R25)? Span BB joins the dies, a Span BX its own die and Xalor. -/
def linkCarries (l : LinkAt) (a b : MeshEnd) : Bool :=
  match l with
  | .sett _ => false
  | .router d col row => onRoute d.val col.toNat row.toNat a b
  | .spanBB _ => a.die.isSome && b.die.isSome && a.die != b.die
  | .spanBX d => (a.die.isNone && b.die == some d.val) || (b.die.isNone && a.die == some d.val)

/-- Can a flit of the victim's access pass the receiver? -/
def State.linkMay (s : State) (l : LinkAt) (v : Victim) : Bool :=
  match v with
  | .none => true
  | .chan c i rd =>
    let me : MeshEnd := match c with
      | .sett u _ => settEnd u
      | .sys _ => ⟨none, [], [], false⟩
    ((((s.chan c).xfer).bind (fun x => x.bursts[i.toNat]?)).bind (fun b =>
      (s.locate (chanDie c) (if rd then b.src else b.dst) (!rd)).1.map (fun p => linkCarries l me p.meshEnd))).getD false
  | .engine u _ _ =>
    [MeshEnd.mk (some 0) (List.range 16) [0, 7] false, ⟨some 1, List.range 16, [0, 7], false⟩, ⟨none, [], [], false⟩].any
      (fun p => linkCarries l (settEnd u) p)
  | .tsig u v => linkCarries l (settEnd u) (settEnd v)
  | .holt h _ =>
    [MeshEnd.mk (some (1 - h.val / 64)) (List.range 16) [0, 7] false, ⟨none, [], [], false⟩].any
      (fun p => linkCarries l ⟨some (h.val / 64), List.range 16, [0, 7], false⟩ p)
  | .loader =>
    ([MeshEnd.mk (some 0) (List.range 16) [0, 7] false, ⟨some 1, List.range 16, [0, 7], false⟩] ++ (List.finRange 256).map settEnd).any
      (fun p => linkCarries l ⟨none, [], [], false⟩ p)
  | .message => ((s.vd.arrived.bind (fun m => s.place (eDst m.entry) true)).map (fun p => linkCarries l ⟨none, [], [], false⟩ p.meshEnd)).getD
      false

/-- A flit at a link's receiver whose first `n` tries fail (07 R198): re-sends counted, discarded after three. -/
def State.linkFlit (s : State) (b : Blk) (src n : Nat) (inj : Bool) (v : Victim) : State :=
  let s1 := s.bump b 0x100 (min n 3)
  if n < 4 then s1 else ((s1.bump b 0x104 1).postAt src Code.parityHard 0 inj).victim v Code.parityHard inj

/-- LINK_FLIT_RECEIVED (07 R194, R198; 01 R20, R22): a flit whose first `fails` tries fail parity. At a sett's own input a failure freezes
the sett, or extends its freeze; elsewhere it is re-sent, and after three re-sends discarded. -/
def execLinkFlitReceived (l : LinkAt) (fails : Fin 5) (v : Victim) (s : State) : Result :=
  .next (match l with
    | .sett u =>
      (match s.injStep (.injS u) 3 (fun x => x == 0) 1 with
        | (some (_, per), s1) => s1.modSett u (fun t => t.freezeOn .flit 9 true per)
        | (none, s1) => if fails = 0 then s1 else s1.modSett u (fun t => t.freezeOn .flit 9 false false))
    | .router d col row =>
      if !s.linkMay l v then s else
      let (k, s1) := s.injFails (.injD d) 0 (col.toNat * 16 + row.toNat) 4
      s1.linkFlit (.ftD d) (srcCode 1 d.val 0 9) (max fails.val k) (decide (k = 4)) v
    | .spanBB d =>
      if !s.linkMay l v then s else
      let (k, s1) := s.injFails (.injD d) 1 0 4
      s1.linkFlit .ftX (srcCode 1 d.val 0 10) (max fails.val k) (decide (k = 4)) v
    | .spanBX d =>
      if !s.linkMay l v then s else
      let (k, s1) := s.injFails .injX 0 d.val 4
      s1.linkFlit .ftX (srcCode 1 d.val 0 10) (max fails.val k) (decide (k = 4)) v)

/-- Holt of an HBM address (07 R181). -/
def hbmHolt (a : Nat) : Nat := 16 * hbmStack a + hbmChan a

/-- HBM_ACCESS_COMPLETE (07 R184, R199, Table 07-7): an access to physical address `a` whose tries ended as `h` says. A failed one
completes with HBM_UNCORR, a record and a count; parity failures of the PHY path are retried three times, an ECC failure once. On the
Holt's own path no data crosses the PHY, and the failure is its running sub-command's to report (08 R226). -/
def execHbmAccessComplete (a : BitVec 48) (wr holt : Bool) (h : HbmEnd) (v : Victim) (s : State) : Result :=
  .next (if hbmSize ≤ a.toNat then s else
    let die : Fin 2 := ⟨hbmStack a.toNat / 4 % 2, Nat.mod_lt _ (by decide)⟩
    let sel := hbmStack a.toNat % 4 * 16 + hbmChan a.toNat
    let b := Blk.injD die
    let (data, s1) := if holt then (0, s) else s.injFails b (if wr then 3 else 2) sel 4
    let (ca, s2) := s1.injFails b 4 sel 4
    let (ce, s3) := if wr then (0, s2) else s2.injFails b 5 sel 1
    let (ue, s4) := if wr then (0, s3) else s3.injFails b 6 (sel + if holt then 256 else 0) 2
    let par := max (max data ca) (match h with
      | .parity n => if holt then 0 else n.val
      | _ => 0)
    let ecc := max ue (match h with
      | .ecc n => if wr then 0 else n.val
      | _ => 0)
    let inj := data = 4 || ca = 4 || ue = 2
    let s5 := s4.bump (.ftD die) 0x10C (min par 3)
    if par = 4 || ecc = 2 then
      if holt && !(s.hq.toList.getD (hbmHolt a.toNat) []).isEmpty then s5.holtMeets (hbmHolt a.toNat) a.toNat Code.hbmUncorr false inj
      else
        ((s5.bump (.ftD die) 0x110 1).postAt (srcCode 1 die.val (hbmStack a.toNat % 4) 14) Code.hbmUncorr a.toNat inj).victim
          v Code.hbmUncorr inj
    else if !wr && (ce = 1 || h == .corrected) then s5.bump (.ftD die) 0x108 1 else s5)

/-- BURROW_ACCESS_COMPLETE (07 R185, R186): an access whose first `fails` tries failed on the link or in the controller's
buffer; `ce` says the link ECC corrected a read. After three retries it completes with BUS_ERR. -/
def execBurrowAccessComplete (a : BitVec 48) (wr ce : Bool) (fails : Fin 5) (v : Victim) (s : State) : Result :=
  .next (if a.toNat < burrowBase || 0x20000000000 ≤ a.toNat then s else
    let pkg := bitsOf (a.toNat - burrowBase) 15 12
    let (c, s1) := if wr then (0, s) else s.injFails .injX 1 pkg 1
    let (e, s2) := if wr then (0, s1) else s1.injFails .injX 2 pkg 4
    let (p, s3) := s2.injFails .injX 3 pkg 4
    let n := max fails.val (max e p)
    let s4 := s3.bump .ftX 0x10C (min n 3)
    if n = 4 then (s4.bump .ftX 0x110 1).victim v Code.busErr (e = 4 || p = 4)
    else if !wr && (ce || c = 1) then s4.bump .ftX 0x108 1 else s4)

/-- HBM_REFRESH (07 R183): it delays accesses and changes nothing else. -/
def execHbmRefresh (_die : Fin 2) (_ctl : BitVec 2) (s : State) : Result := .next s

/-- Is a transfer of the channel not complete at its targets? -/
def State.xferPending (s : State) (c : Chan) : Bool :=
  (((s.chan c).xfer).map (fun x => !x.dead.isEmpty)).getD false || s.chanPending c

/-- The channels whose traffic the pier of a die translates. -/
def dieChans (d : Fin 2) : List Chan :=
  (List.finRange 256).flatMap (fun u => if dieIx u = d then (List.finRange 4).map (fun k => Chan.sett u k) else [])

/-- A write to TR_GT_INV (07 R192): transfers that used a dropped entry are marked. -/
def State.gtInv (s : State) (d : Fin 2) (all : Bool) (g : Nat) : State :=
  let mark (h : DmaCh) : DmaCh :=
    { h with xfer := h.xfer.map (fun x => { x with stale := x.stale || (if all then !x.grans.isEmpty else x.grans.contains g) }) }
  let s1 : State := { s with gtc := s.gtc.set d.val (if all then [] else (s.gtc[d.val]).filter (fun e => e.gran != g)) }
  ((dieChans d).foldl (fun s c => if (s.chan c).xfer.isSome then s.modChan c mark else s) s1).putBit (.tr d) 0x104 30 true

/-- TR_GT_INV (07 R192). -/
def execTrGtInv (d : Fin 2) (all : Bool) (g : BitVec 21) (s : State) : Result := .next (s.gtInv d all g.toNat)

/-- GT_INV_DRAINED (07 R192): every access that used a dropped entry has completed at its target. -/
def execGtInvDrained (d : Fin 2) (s : State) : Result :=
  .next (if (dieChans d).any (fun c => (((s.chan c).xfer).map Xfer.stale).getD false && s.xferPending c) then s
  else s.putBit (.tr d) 0x104 30 false)

end Sys2Proof.Machine
end

