-- ==== Sys2Proof/Machine/RegCmds.lean ====
section
/-!
DEFINITION. Register accesses: reads and writes at their target, aliases, staged registers and strobes, the arming of injection
points (17 R397 to R399, R403 to R405, R412, R413).
-/
namespace Sys2Proof.Machine

/-- The endpoint of a requester, as the owner of a system channel it starts (15 Table 15-4). -/
def ownerOf : Requester → Owner
  | .endA => .reg 0
  | .endB => .reg 1
  | .mgmt => .none

/-- Good parity in the copy that a write reaches (17 R442). -/
def State.goodParity (s : State) (b : Blk) (o : Nat) (pend : Bool) : State :=
  { s with regs := if pend then { s.regs with badP := Tbl.drop s.regs.badP (b.key o) }
                   else { s.regs with badA := Tbl.drop s.regs.badA (b.key o) } }

/-- A write as the access codes give it (00 R15, 17 R404): RW bits of a staged register to the pending copy. -/
def State.plainWrite (s : State) (b : Blk) (o : Nat) (v : Word) : State :=
  match findRow o b.rows with
  | none => s
  | some r =>
    let rw : Word := BitVec.ofNat 32 r.rw
    let w1c : Word := BitVec.ofNat 32 r.w1c
    let mix (old : Word) : Word := (old &&& ~~~rw) ||| (v &&& rw)
    if b.staged o then
      let s1 := { s with regs := s.regs.setPending b o (mix (s.regs.pending b o)) }
      (s1.setReg b o (s1.reg b o &&& ~~~(v &&& w1c))).goodParity b o true
    else (s.setReg b o (mix (s.reg b o) &&& ~~~(v &&& w1c))).goodParity b o false

/-- Do something where a written bit is 1. -/
def State.onBit (s : State) (v : Word) (i : Nat) (f : State → State) : State := if Word.bit v i then f s else s

/-- A write to SQ_CTL: its bits in rising order (04 Table 04-6). -/
def State.sqCtl (s : State) (u : SettId) (v : Word) : State :=
  ((((s.onBit v 0 (·.go u)).onBit v 1 (·.brk u)).onBit v 2 (·.resume u)).onBit v 3 (·.stepOne u)).onBit v 4 (·.abortSett u)

/-- A write to a sequencer register (04 Tables 04-5 to 04-13). -/
def State.sqWrite (s : State) (u : SettId) (o : Nat) (v : Word) : State :=
  let s0 := s.goodParity (.sq u) o false
  if o = 0x00 then s.sqCtl u v
  else if o = 0x04 then s.modSett u (fun t => { t with sticky := t.sticky &&& ~~~(v &&& 0x7800) })
  else if o = 0x0C then
    s0.modSett u (fun t =>
      if t.st = .idle ∨ t.st = .done ∨ t.st = .halted ∨ t.st = .brk then { t with pc := fieldOf v 14 0, fetched := 0 } else t)
  else if o = 0x18 then s0.modSett u (fun t => { t with step := v })
  else if o = 0x24 then (s.plainWrite (.sq u) o v).modSett u (fun t => { t with brkSeen := false })
  else if 0x100 ≤ o && o < 0x140 then
    let n : BitVec 4 := BitVec.ofNat 4 ((o - 0x100) / 4)
    let (c, s1) := s0.fresh
    s1.modSett u (fun t =>
      if t.st = .idle ∨ t.st = .done ∨ t.st = .halted then { t with ct := t.ct.set ((o - 0x100) / 4 % 16) v (Nat.mod_lt _ (by decide)) }
      else { t.putCt n v with hostWr := some (n, t.cyc, t.getCt n, c % 2 == 1) })
  else if 0x180 ≤ o && o < 0x1A0 then
    s0.modSett u (fun t => { t with cmp := t.cmp.set ((o - 0x180) / 4 % 8) (v &&& 0xFFFFFF0F) (Nat.mod_lt _ (by decide)) })
  else if 0x200 ≤ o && o < 0x280 then
    s0.modSett u (fun t => { t with sig := t.sig.set ((o - 0x200) / 4 % 32) v (Nat.mod_lt _ (by decide)), absSig := none })
  else s.plainWrite (.sq u) o v

/-- A write to a register of a DMA channel (13 R330, Table 13-3): `b` its block, `o` its unit offset. DM_CH_CFG, DM_CH_AOR and
DM_CH_PROG take a write only while the channel is idle or halted. -/
def State.chWrite (s : State) (b : Blk) (c : Chan) (o : Nat) (v : Word) (r : Requester) : State :=
  match o % 0x40 with
  | 0x00 =>
    let s1 := match c with
      | .sys k => s.onBit v 0 (·.sysStart k (ownerOf r))
      | .sett _ _ => s
    s1.onBit v 1 (·.chanAbort c)
  | 0x04 =>
    if Word.bit v 8 then { s.modChan c (fun h => { h with irq := false }) with irqs := s.irqs.filter (fun q => q != .chan c) } else s
  | 0x08 => if (s.chan c).still then (s.modChan c (fun h => { h with retryMax := fieldOf v 3 0 })).goodParity b o false else s
  | _ => if (s.chan c).still then s.plainWrite b o v else s

/-- A write to INJ_CTL of a point (17 R413): with EN = 1 it arms the point or re-arms it, with EN = 0 it disarms it. -/
def State.injCtl (s : State) (b : Blk) (o : Nat) (v : Word) : State :=
  let s1 := s.plainWrite b o v
  if Word.bit v 31 then
    { s1.putBit b o 28 true with inj := Tbl.put s1.inj (b.key o) (s1.reg b (o + 4)).toNat }
  else { s1.putBit b o 28 false with inj := Tbl.drop s1.inj (b.key o) }

/-- Is p a point of an injection block (17 Table 17-10, 18 Table 18-8)? Points not listed are reserved and have no registers. -/
def Blk.hasPoint (b : Blk) (p : Nat) : Bool :=
  match b with
  | .injS _ => p < 6
  | .injD _ => p < 8
  | .injX => p < 11 || (16 ≤ p && p < 22)
  | _ => false

/-- A write to an injection block (17 Table 17-11). -/
def State.injWrite (s : State) (b : Blk) (o : Nat) (v : Word) : State :=
  if b = .injX && o = 0 then (s.goodParity b o false).injAllow (Word.bit v 0)
  else if 0x100 ≤ o && b.hasPoint ((o - 0x100) / 16) && o % 16 = 0 then s.injCtl b o v
  else s.plainWrite b o v

/-- A write to a register of Intake (14 R350). -/
def State.inWrite (s : State) (o : Nat) (v : Word) : State :=
  if o = 0x00 then
    let s1 := (s.goodParity .intake o false).onBit v 1 (·.inFlush)
    if Word.bit v 0 = Word.bit (s1.reg .intake 0) 0 then s1 else s1.intakeEn (Word.bit v 0)
  else if o = 0x1C then (s.goodParity .intake o false).inTail v.toNat
  else if o = 0x04 || o = 0x58 then s.plainWrite .intake o v
  else if Word.bit (s.reg .intake 0) 0 || s.intake.busy then s
  else s.plainWrite .intake o v

/-- A write to a register of the security block (18 Table 18-11). -/
def State.scWrite (s : State) (o : Nat) (v : Word) (r : Requester) : State :=
  if o = 0x04 then (s.onBit v 0 (·.scBoot)).onBit v 1 (·.scUnlock)
  else if o = 0x10 then s.rbBump r ⟨fieldOf v 1 0 % 4, Nat.mod_lt _ (by decide)⟩ (fieldOf v 31 16)
  else if o = 0x18 then s.extCtl r (fieldOf v 15 0)
  else s.plainWrite .sc o v

/-- The staged blocks of a strobe group (17 R405): PM_STB_MAP is indexed as Table 17-3 says. -/
def State.group (s : State) (g : Nat) : List Blk :=
  allBlks.filter (fun b => match b.stage with
    | none => false
    | some i => fieldOf (s.reg .pmX (0xA00 + 4 * i)) 5 0 == g)

/-- Unit offset of a key that lies in a block. -/
def Blk.offOf (b : Blk) (k : Nat) : Option Nat :=
  if b.base ≤ k && k < b.base + b.slots * 0x4000 then some ((k - b.base) / 0x4000 * 0x1000 + (k - b.base) % 0x4000) else none

/-- A block copies every pending value to active (17 R405). -/
def State.strobeBlk (s : State) (b : Blk) : State :=
  let ks := (s.regs.act.map (·.1) ++ s.regs.pend.map (·.1)).eraseDups
  let s1 := ks.foldl (fun s k =>
    match b.offOf k with
    | none => s
    | some o =>
      if !b.staged o then s
      else
        match findRow o b.rows with
        | none => s
        | some r =>
          let rw : Word := BitVec.ofNat 32 r.rw
          s.setReg b o ((s.reg b o &&& ~~~rw) ||| (s.regs.pending b o &&& rw))) s
  let keep (e : Nat × Bool) : Bool := match b.offOf e.1 with
    | some o => !b.staged o
    | none => true
  { s1 with regs := { s1.regs with badA := s1.regs.badA.filter keep } }

/-- What new active values do at once: a port that is no longer enabled, a Viaduct port that no longer runs (15 Table 15-7, 16
R379). -/
def State.strobeEffect (s : State) (b : Blk) : State :=
  match b with
  | .enHost => if Word.bit (s.reg b 0) 0 then s else s.putBit b 4 0 false
  | .enMgmt => if Word.bit (s.reg b 0) 0 then s else s.putBit b 4 0 false
  | .vd => (List.finRange 8).foldl (fun s p =>
      let t := s.vd.ports[p.val]
      if (t.up || t.training) && !Word.bit (s.reg .vd (0x100 + 0x20 * p.val)) 31 then s.portDown p else s) s
  | _ => s

/-- A strobe group is carried out: BUSY is set, and every block of the group copies (17 R405); setts whose step falls take it. -/
def State.strobe (s : State) (g : Nat) : State :=
  let bs := s.group g
  let s1 := { s with stbBusy := s.stbBusy ||| 2 ^ g }
  let s2 := bs.foldl (fun s b => (s.strobeBlk b).strobeEffect b) s1
  if bs.any (fun b => match b with
    | .pmS _ => true
    | _ => false) then s2.lowerSteps else s2

/-- A fire of one group: held where the group is busy (17 R405). -/
def State.fire (s : State) (g : Nat) : State :=
  if bitOf s.stbBusy g then { s with stbHeld := s.stbHeld ||| 2 ^ g } else s.strobe g

/-- A write to PM_STB_FIRE, bit g of 64 firing group g. -/
def State.stbFire (s : State) (m : Nat) : State := (List.range 64).foldl (fun s g => if bitOf m g then s.fire g else s) s

/-- PM_STB_FIRE (17 R405). -/
def execPmStbFire (m : BitVec 64) (s : State) : Result := .next (s.stbFire m.toNat)

/-- HELD_STROBE_FIRE (17 R405): every block of the group has copied, BUSY clears; a held fire is then carried out. -/
def execHeldStrobeFire (g : Fin 64) (s : State) : Result :=
  .next (if !bitOf s.stbBusy g.val then s
  else
    let s1 := { s with stbBusy := s.stbBusy ^^^ 2 ^ g.val }
    if bitOf s1.stbHeld g.val then { s1 with stbHeld := s1.stbHeld ^^^ 2 ^ g.val }.strobe g.val else s1)

/-- A write to a register of the Xalor power block (18 Table 18-10, 17 Table 17-4). -/
def State.pmWrite (s : State) (o : Nat) (v : Word) : State :=
  if o = 0x14 then s.rstCtl (fieldOf v 15 0)
  else if o = 0x800 then s.stbFire v.toNat
  else if o = 0x804 then s.stbFire (v.toNat * 2 ^ 32)
  else s.plainWrite .pmX o v

/-- A write to a register, unaliased, as its target takes it (17 R403, R404). -/
def State.regWrite (s : State) (r : Requester) (b : Blk) (o : Nat) (v : Word) : State :=
  match b with
  | .sq u => s.sqWrite u o v
  | .te u => if o = 0 then s.onBit v 0 (·.teDiscard u) else s.plainWrite b o v
  | .kvw u => if o = 4 then s.onBit v 0 (·.labInv u) else s
  | .dm u =>
    if o < 0x100 then s.chWrite b (.sett u ⟨o / 0x40 % 4, Nat.mod_lt _ (by decide)⟩) o v r
    else if 0x400 ≤ o && o < 0x1000 && Word.bit v 31 then
      (s.modSett u (fun t => { t with clean := Tbl.drop t.clean ((o - 0x400) / 4) })).goodParity b o false
    else s
  | .dmX =>
    if o < 0x1000 then s.chWrite b (.sys ⟨o / 0x40 % 64, Nat.mod_lt _ (by decide)⟩) o v r
    else if o < 0x1100 then
      { s with xsig := s.xsig.set ((o - 0x1000) / 4 % 64) v (Nat.mod_lt _ (by decide)) }.goodParity b o false
    else s
  | .tr d => if o = 0x104 then s.gtInv d (Word.bit v 31) (fieldOf v 20 0) else s.plainWrite b o v
  | .spool d =>
    if 0x100 ≤ o && o < 0x160 && o % 0x20 = 0x18 then
      let p := (o - 0x100) / 0x20
      ((s.plainWrite b o v).onBit v 0 (·.poolInit d p)).onBit v 2 (·.poolMinClr d p)
    else s.plainWrite b o v
  | .kvpool => if o = 0 then (s.plainWrite b o v).onBit v 0 (·.kvInit) else s.plainWrite b o v
  | .ftS u => if o = 0 then s.onBit v 30 (·.cfgpClr (.ftS u)) else s.plainWrite b o v
  | .ftX =>
    if o = 0x20 then (s.goodParity b o false).logTail v
    else if o = 0x24 then (s.plainWrite b o v).logCtl
    else s.plainWrite b o v
  | .injS _ => s.injWrite b o v
  | .injD _ => s.injWrite b o v
  | .injX => s.injWrite b o v
  | .sm =>
    if o < 0x80 then s.semWrite ⟨o / 4 % 32, Nat.mod_lt _ (by decide)⟩ r v
    else if o = 0x80 then s.semForce ⟨fieldOf v 4 0 % 32, Nat.mod_lt _ (by decide)⟩
    else s.plainWrite b o v
  | .vd =>
    if 0x400 ≤ o && o < 0x800 && o % 0x20 = 0x18 then
      let s1 := s.plainWrite b o v
      if Word.bit v 31 then s1 else s1.setReg b o (s1.reg b o &&& 0x9FFFFFFF)
    else s.plainWrite b o v
  | .intake => s.inWrite o v
  | .pmX => s.pmWrite o v
  | .sc => s.scWrite o v r
  | .tm => if o = 0 && !s.debugOk then s.plainWrite b o (v &&& 0x7FFFFFFF) else s.plainWrite b o v
  | _ => s.plainWrite b o v

/-- An alias write (17 R398): 1 sets, 2 clears, 3 toggles RW bits; on a staged register the pending value. -/
def State.aliasWrite (s : State) (r : Requester) (b : Blk) (o k : Nat) (v : Word) : State :=
  match findRow o b.rows with
  | none => s
  | some row =>
    if row.rw = 0 then s
    else
      let old := if b.staged o then s.regs.pending b o else s.view b o
      let new := match k with
        | 1 => old ||| v
        | 2 => old &&& ~~~v
        | _ => old ^^^ v
      s.regWrite r b o (new &&& BitVec.ofNat 32 row.rw)

/-- The _HI register that a read of an RO _LO register latches (17 R399). -/
def Blk.hiOf (b : Blk) (o : Nat) : Option Nat :=
  match b with
  | .sq _ => if o = 0x40 then some 0x44 else none
  | .dm _ => if o < 0x100 && o % 0x40 = 0x28 then some (o + 4) else none
  | .dmX => if o < 0x1000 && o % 0x40 = 0x28 then some (o + 4) else none
  | .ftX => if 0x50 ≤ o && o < 0x68 && o % 8 = 0 then some (o + 4) else none
  | .pmX => if o = 0x808 then some 0x80C else none
  | _ => none

/-- A read in a port's block: EN_EP_HIGH is undefined while the window is empty (15 Table 15-7). -/
def State.portRead (s : State) (ep : Fin 2) (b : Blk) (o : Nat) : Word × State :=
  if o = 0x34 && (s.eps[ep.val]).high.isNone then
    let (n, s1) := s.fresh
    (BitVec.ofNat 32 n, s1)
  else (s.view b o, s)

/-- The value a read returns at its target, with its side effects: an acquisition, a free value (17 R397 to R399, 15 R365);
a reserved word reads 0 (00 R17). -/
def State.regValue (s : State) (r : Requester) (b : Blk) (o : Nat) : Word × State :=
  if (findRow o b.rows).isNone then (0, s) else
  match b with
  | .sm => if o < 0x80 then s.semRead ⟨o / 4 % 32, Nat.mod_lt _ (by decide)⟩ r else (s.view b o, s)
  | .enHost => s.portRead 0 b o
  | .enMgmt => s.portRead 1 b o
  | _ => (s.view b o, s)
/-- A read of one register by a requester: value, status, next state (17 R397, R399, R407; 15 R365). -/
def State.regRead (s : State) (r : Requester) (b : Blk) (o : Nat) : Word × Status × State :=
  let k := reqIx r
  let held := s.latch[k.val]
  let (bad, s1) := s.cfgCheck b o false
  let (v, s2) := s1.regValue r b o
  let v1 := match held with
    | some (key, w) => if key = b.key o then w else v
    | none => v
  let s3 := { s2 with latch := s2.latch.set k.val ((b.hiOf o).map (fun h => (b.key h, s2.view b h))) }
  (v1, if bad then Code.cfgParity else if b = .sm && o < 0x80 && v1 ≠ 0 then Code.semDenied else Code.done, s3)

/-- One word of a register access at its target: value and status. -/
def State.regAct (s : State) (r : Requester) (a : Nat) (wr : Option Word) : Word × Status × State :=
  match regTarget a with
  | none => (0, Code.bounds, { s with latch := s.latch.set (reqIx r).val none })
  | some (b, o, k) =>
    match wr with
    | none => s.regRead r b o
    | some v =>
      let s1 := { s with latch := s.latch.set (reqIx r).val none }
      (0, Code.done, if k = 0 then s1.regWrite r b o v else s1.aliasWrite r b o k v)

end Sys2Proof.Machine
end

