-- ==== Sys2Proof/Machine/Access.lean ====
section
/-!
DEFINITION. Register accesses of the three requesters across clock islands: issue order, waiting at a frozen sett, acceptance,
timeout (17 R400 to R402, R443), and the rows that write one register.
-/
namespace Sys2Proof.Machine

/-- A requester's accesses, the outstanding one first. -/
def State.accOf (s : State) (r : Requester) : List RegReq := s.acc[(reqIx r).val]

/-- Replace a requester's accesses. -/
def State.setAcc (s : State) (r : Requester) (l : List RegReq) : State := { s with acc := s.acc.set (reqIx r).val l }

/-- The sett whose island the next word of an access must enter; none where nothing holds it: another island, or a read of
SQ_STATUS (17 R401). -/
def RegReq.island (q : RegReq) : Option SettId :=
  match regTarget q.addr with
  | none => none
  | some (b, o, _) =>
    match b with
    | .sq u => if o = 4 && !q.write then none else some u
    | _ => b.sett?

/-- Does the next word of a requester's access wait: its island is frozen, or an access that arrived before it waits there (17
R401)? -/
def State.waits (s : State) (r : Requester) (q : RegReq) : Bool :=
  match q.island with
  | none => false
  | some u =>
    (s.sett u).freeze.isSome ||
    [Requester.endA, .endB, .mgmt].any (fun x => x != r && (match s.accOf x with
      | [] => false
      | p :: _ => p.issued && p.island == some u && (!q.issued || p.ord < q.ord)))

/-- A requester's access ends: the answer to the management core, the response of an endpoint, or a deferred result (15 R360,
R361). -/
def State.accDone (s : State) (r : Requester) (q : RegReq) (v : Word) (status : Status) (data : List Byte) (addr : Option Nat) :
    State :=
  match q.link with
  | none => s.answer r v status
  | some (ep, op, no, arg, peer) =>
    if q.conv then s.deferDone ep no status data
    else if q.mute then s
    else s.respond ep op (no % 2 ^ 32) arg peer status data 0 addr

/-- The outstanding access of a requester is withdrawn (17 R402): BUS_ERR, one event record, nothing more of it attempted. -/
def State.withdraw (s : State) (r : Requester) (q : RegReq) (rest : List RegReq) (inj : Bool) : State :=
  let s1 := (s.setAcc r rest).post
    { status := Code.busErr, inj := inj, src := srcCode 3 0 (reqIx r).val 6, step := 0xFFFFFFFF, layer := 0, cycle := s.cycle,
      addr := q.addr, detail := [] }
  s1.accDone r q 0 Code.busErr [] (some q.addr)

/-- The next word of an access takes effect at its target. -/
def State.accWord (s : State) (r : Requester) (q : RegReq) (rest : List RegReq) : State :=
  let (v, st, s1) := s.regAct r q.addr (if q.write then some (q.vals.headD 0) else none)
  let status := if q.status = Code.done then st else q.status
  let out := if q.write then [] else q.out ++ leBytes 4 v.toNat
  if q.left ≤ 1 then (s1.setAcc r rest).accDone r q v status out none
  else
    s1.setAcc r ({ q with addr := q.addr + 4, vals := q.vals.drop 1, left := q.left - 1, out := out, status := status,
                          issued := false } :: rest)

/-- Issue and carry out a requester's accesses, word by word, until one waits or none is left. -/
def State.runAcc (r : Requester) : Nat → State → State
  | 0, s => s
  | n + 1, s =>
    match s.accOf r with
    | [] => s
    | q :: rest =>
      match s.injStep .injX 10 (fun x => x == (reqIx r).val) 1 with
      | (some _, s1) => State.runAcc r n (s1.withdraw r q rest true)
      | (none, s1) =>
        if s1.waits r q then
          { s1.setAcc r ({ q with issued := true, ord := s1.accOrd } :: rest) with accOrd := s1.accOrd + 1 }
        else State.runAcc r n (s1.accWord r q rest)

/-- Words that a requester has still to access. -/
def State.accLeft (s : State) (r : Requester) : Nat := (s.accOf r).foldl (fun n q => n + q.left + 1) 1

/-- A requester makes an access: behind its outstanding one, or at once (17 R400). -/
def State.access (s : State) (r : Requester) (q : RegReq) : State :=
  let l := s.accOf r
  let s1 := s.setAcc r (l ++ [q])
  if l.isEmpty then s1.runAcc r (s1.accLeft r) else s1

/-- A write of one word that no endpoint command makes. -/
def oneWrite (a : Nat) (v : Word) : RegReq :=
  { addr := a, write := true, vals := [v], left := 1, out := [], status := Code.done, issued := false, ord := 0, link := none,
    conv := false, mute := false }

/-- REGISTER_WRITE (17 R403, R404). -/
def execRegisterWrite (r : Requester) (a : BitVec 48) (v : BitVec 32) (s : State) : Result := .next (s.access r (oneWrite a.toNat v))

/-- ALIAS_SET (17 R398). -/
def execAliasSet (r : Requester) (a : BitVec 48) (v : BitVec 32) (s : State) : Result :=
  .next (s.access r (oneWrite (a.toNat + 0x1000) v))

/-- ALIAS_CLEAR (17 R398). -/
def execAliasClear (r : Requester) (a : BitVec 48) (v : BitVec 32) (s : State) : Result :=
  .next (s.access r (oneWrite (a.toNat + 0x2000) v))

/-- ALIAS_TOGGLE (17 R398). -/
def execAliasToggle (r : Requester) (a : BitVec 48) (v : BitVec 32) (s : State) : Result :=
  .next (s.access r (oneWrite (a.toNat + 0x3000) v))

/-- REGISTER_ACCESS_ACCEPTED (17 R401): the target takes the word that waits, and the rest follows. -/
def execRegisterAccessAccepted (r : Requester) (s : State) : Result :=
  .next (match s.accOf r with
    | [] => s
    | q :: rest =>
      if !q.issued || s.waits r q then s
      else
        let s1 := s.accWord r q rest
        s1.runAcc r (s1.accLeft r))

/-- REGISTER_ACCESS_TIMEOUT (17 R402): FT_RTO.LIMIT has passed since the word that waits was issued. -/
def execRegisterAccessTimeout (r : Requester) (s : State) : Result :=
  .next (match s.accOf r with
    | [] => s
    | q :: rest =>
      if !q.issued then s
      else
        let s1 := s.withdraw r q rest false
        s1.runAcc r (s1.accLeft r))

/-- INJ_CTL (17 R413): a write to INJ_CTL of point p of the injection block at a register address. -/
def execInjCtl (a : BitVec 48) (p : Fin 32) (v : BitVec 32) (s : State) : Result :=
  .next (match regTarget a.toNat with
    | none => s
    | some (b, _, _) =>
      if b.hasPoint p.val && ((b.sett?.map (fun u => (s.sett u).freeze)).getD none).isNone then
        s.injCtl b (0x100 + 16 * p.val) v
      else s)

end Sys2Proof.Machine
end

