-- ==== Sys2Proof/Machine/Endpoint.lean ====
section
/-!
DEFINITION. The opcodes of the control endpoints (15 R356 to R368, Table 15-3; 18 R429).
-/
namespace Sys2Proof.Machine

/-- The requester that an endpoint is (17 R400). -/
def epReq (ep : Fin 2) : Requester := if ep = 0 then .endA else .endB

/-- CT_NOP (15 R357). -/
def execCtNop (ep : Fin 2) (q : Req) (s : State) : Result :=
  .next (s.windowed ep 1 q true (fun s => s.respond ep 1 q.seq.toNat q.arg.toNat (reqPeer q) Code.done))

/-- A register access of an endpoint command. -/
def State.epAccess (s : State) (ep : Fin 2) (op : Nat) (q : Req) (wr : Bool) (vals : List Word) (n : Nat) : State :=
  s.access (epReq ep)
    { addr := q.addr.toNat, write := wr, vals := vals, left := n, out := [], status := Code.done, issued := false, ord := 0,
      link := some (ep, op, s.cmdNo ep q.seq.toNat, q.arg.toNat, reqPeer q), conv := false, mute := false }

/-- REG_READ (15 R357, 17 R400): ARG bytes, 4 to 256, a multiple of 4. -/
def execRegRead (ep : Fin 2) (q : Req) (s : State) : Result :=
  let n := q.arg.toNat
  .next (s.windowed ep 2 q (q.addr.toNat % 4 = 0 && 4 ≤ n && n ≤ 256 && n % 4 = 0) (fun s =>
    s.epAccess ep 2 q false [] (n / 4)))

/-- REG_WRITE (15 R357, 17 R400). -/
def execRegWrite (ep : Fin 2) (q : Req) (s : State) : Result :=
  let n := q.data.length
  .next (s.windowed ep 3 q (q.addr.toNat % 4 = 0 && 4 ≤ n && n ≤ 256 && n % 4 = 0) (fun s =>
    s.epAccess ep 3 q true ((chunks 4 q.data).map (fun bs => BitVec.ofNat 32 (leNat bs))) (n / 4)))

/-- A memory access of an endpoint command is accepted and goes to its target. -/
def State.epMem (s : State) (ep : Fin 2) (q : Req) (write : Bool) (n : Nat) (flt : Option (BitVec 8)) : State :=
  let m : MemAcc :=
    { ep := ep, no := s.cmdNo ep q.seq.toNat, arg := q.arg.toNat, addr := q.addr.toNat, n := n, write := write, data := q.data,
      peer := reqPeer q, checked := 0, flt := flt.map (·.toNat), begun := false, out := 0, status := Code.done, conv := false, mute := false }
  { s with mems := s.mems ++ [m] }.memTry m

/-- MEM_READ (15 R357): the ranges a system DMA channel reaches; a range in a frozen sett is read after the freeze. -/
def execMemRead (ep : Fin 2) (q : MemReq) (s : State) : Result :=
  let n := q.req.arg.toNat
  .next (s.windowed ep 4 q.req (1 ≤ n && n ≤ 4096) (fun s => s.epMem ep { q.req with data := [] } false n q.flt))

/-- MEM_WRITE (15 R357). -/
def execMemWrite (ep : Fin 2) (q : MemReq) (s : State) : Result :=
  let n := q.req.data.length
  .next (s.windowed ep 5 q.req (1 ≤ n && n ≤ 4096) (fun s => s.epMem ep q.req true n q.flt))

/-- A request that is answered NOT_READY before RUN (18 R425): nothing is recorded. -/
def State.untilRun (s : State) (ep : Fin 2) (op : Nat) (q : Req) (f : State → State) : State :=
  if s.sc.stage = .run || !s.ctOn ep || s.stranger ep q.src.toNat || s.cfgBad (portBlk ep) || q.epoch.toNat ≠ (s.eps[ep.val]).epoch then f s
  else s.answerOnce ep op q Code.notReady

/-- Does a range lie wholly in HBM or in the Burrow? -/
def inTier (a n : Nat) : Bool := inHbm a n || (decide (burrowBase ≤ a) && decide (a + n ≤ 0x20000000000))

/-- LOAD_PLAN (15 R357, R367; 06 R171, R175). -/
def execLoadPlan (ep : Fin 2) (q : Req) (s : State) : Result :=
  let report := leNat q.data
  .next (s.untilRun ep 0x10 q (fun s => s.windowed ep 0x10 q (q.data.length = 8) (fun s =>
    let no (c : Status) : State := s.respond ep 0x10 q.seq.toNat q.arg.toNat (reqPeer q) c
    if (s.reg .sm 0).toNat ≠ ep.val + 1 then no Code.semDenied
    else if !inTier report 320 then no Code.bounds
    else if s.load.isSome then no Code.planMismatch
    else { s.defer ep 0x10 q with load := some ⟨ep, s.cmdNo ep q.seq.toNat, q.addr.toNat, report, none⟩ })))

/-- HOLT of an endpoint (08 R206, R209; 15 R357): the block lies in HBM. -/
def State.epHolt (s : State) (ep : Fin 2) (q : Req) : State :=
  let a := q.addr.toNat
  s.untilRun ep 0x11 q (fun s => s.windowed ep 0x11 q true (fun s =>
    if !inHbm a 64 then s.respond ep 0x11 q.seq.toNat q.arg.toNat (reqPeer q) Code.bounds
    else (s.defer ep 0x11 q).holtArrive (.ep ep (s.cmdNo ep q.seq.toNat)) (s.hbm.load a 64)))

/-- HOLT (08 R206, R209; 15 R357): of a control endpoint, or of the management core, whose own command is no datagram (log entry 56). -/
def execHolt (r : Requester) (q : Req) (s : State) : Result :=
  let a := q.addr.toNat
  .next (match r with
    | .endA => s.epHolt 0 q
    | .endB => s.epHolt 1 q
    | .mgmt =>
      if s.sc.stage ≠ .run then s
      else if !inHbm a 64 then s.tellMgmt Code.bounds
      else s.holtArrive .mgmt (s.hbm.load a 64))

/-- DMA_START (15 R357, 13 R317): programs DM_CH_PROG and DM_CH_AOR of an idle or halted channel, then starts it. -/
def execDmaStart (ep : Fin 2) (q : Req) (s : State) : Result :=
  let prog := leNat (q.data.take 8)
  let aor := leNat (q.data.drop 8)
  let c : Fin 64 := ⟨q.arg.toNat % 64, Nat.mod_lt _ (by decide)⟩
  let o := 0x40 * c.val
  .next (s.windowed ep 0x12 q (q.arg.toNat ≤ 55 && q.data.length = 16 && prog < 2 ^ 48 && aor < 2 ^ 48) (fun s =>
    if !(s.chan (.sys c)).still then s.respond ep 0x12 q.seq.toNat q.arg.toNat (reqPeer q) Code.bounds
    else
      let s1 := (((s.regWrite (epReq ep) .dmX (o + 0x20) (BitVec.ofNat 32 prog)).regWrite (epReq ep) .dmX (o + 0x24)
        (BitVec.ofNat 32 (prog / 2 ^ 32))).regWrite (epReq ep) .dmX (o + 0x18) (BitVec.ofNat 32 aor)).regWrite (epReq ep) .dmX
        (o + 0x1C) (BitVec.ofNat 32 (aor / 2 ^ 32))
      (s1.defer ep 0x12 q).sysStart c (.cmd ep (s.cmdNo ep q.seq.toNat))))

/-- FLAGS of an attestation report (18 Table 18-5). -/
def State.attestFlags (s : State) : Nat :=
  let c := s.sc
  flagBit c.unlocked 0 + flagBit c.injEver 1 + flagBit c.logFull 2 + flagBit c.recovery 3 + flagBit c.slotB 4

/-- ATTEST (18 R429, R431): the snapshot is made at acceptance. -/
def execAttest (ep : Fin 2) (q : Req) (s : State) : Result :=
  let a := q.addr.toNat
  .next (s.windowed ep 0x13 q (a % 4096 = 0 && inHbm a 32768 && q.data.length = 32) (fun s =>
    let no := s.cmdNo ep q.seq.toNat
    let rst := s.reg .pmX 0x10
    let s1 := s.defer ep 0x13 q
    if s.sc.locked then s1.deferDone ep no Code.cfgParity []
    else
      s1.modSc (fun c => { c with attest := c.attest ++
        [{ ep := ep, seq := no, addr := a, nonce := q.data, cycle := s.cycle, flags := s.attestFlags,
           rst := fieldOf rst 3 0 + flagBit (Word.bit rst 8) 7, m := c.m, log := c.log, ctrs := c.ctrs.toList }] })))

/-- Entry i of the measurement log (18 Table 18-6). -/
def MeasEnt.bytes (e : MeasEnt) (i : Nat) : List Byte :=
  leBytes 2 e.type ++ leBytes 2 i ++ leBytes 4 e.svn ++ leBytes 8 e.cycle ++ (e.digest ++ List.replicate 64 0).take 64

/-- The report but for its signature (18 Table 18-5). -/
def Attest.body (t : Attest) : List Byte :=
  leBytes 4 0x4B415452 ++ leBytes 2 1 ++ leBytes 2 t.flags ++ leBytes 4 (6989 + 80 * t.log.length) ++ leBytes 2 t.log.length ++
  leBytes 1 fuseLifecycle ++ leBytes 1 t.rst ++ t.nonce ++ leBytes 8 t.cycle ++ leBytes 8 0 ++ t.m ++ idPublic ++ fuseMap ++
  fuseSum t.ctrs ++ ((t.log.zip (List.range t.log.length)).flatMap (fun p => p.1.bytes p.2))

/-- ATTEST_REPORT_DONE (18 R429): the signature is a free value (log entry 12); a block locked meanwhile signs nothing. -/
def execAttestReportDone (s : State) : Result :=
  .next (match s.sc.attest with
    | [] => s
    | t :: rest =>
      let s1 := s.modSc (fun c => { c with attest := rest })
      if s.sc.locked then s1.deferDone t.ep t.seq Code.cfgParity []
      else
        let r := t.body ++ Config.freeBytes s.freeCtr 3309
        ({ s1 with freeCtr := s.freeCtr + 1 }.putHbm t.addr r).deferDone t.ep t.seq Code.done (r.take 4096))

/-- QP_MODIFY (15 R370). -/
def execQpModify (ep : Fin 2) (q : Req) (s : State) : Result :=
  .next (s.windowed ep 0x20 q (q.arg.toNat < 1024 && q.data.length = 64) (fun s =>
    match s.qpModify q.arg.toNat q.data with
    | some s1 => s1.respond ep 0x20 q.seq.toNat q.arg.toNat (reqPeer q) Code.done
    | none => s.respond ep 0x20 q.seq.toNat q.arg.toNat (reqPeer q) Code.bounds))

/-- QP_QUERY (15 R357, Table 15-5). -/
def execQpQuery (ep : Fin 2) (q : Req) (s : State) : Result :=
  .next (s.windowed ep 0x21 q (q.arg.toNat < 1024) (fun s =>
    s.respond ep 0x21 q.seq.toNat q.arg.toNat (reqPeer q) Code.done (s.qp q.arg.toNat).bytes))

/-- NOTIFY_SET (15 R368). -/
def execNotifySet (ep : Fin 2) (q : Req) (s : State) : Result :=
  .next (s.windowed ep 0x30 q (q.data.length = 24 && leNat ((q.data.drop 18).take 2) = 0) (fun s =>
    (s.modEp ep (fun e => { e with naddr := q.data.take 18, mask := leNat (q.data.drop 20) })).respond ep 0x30 q.seq.toNat q.arg.toNat (reqPeer q)
      Code.done))

/-- A deferred command of the present epoch that is still held (15 R362, R363). -/
def State.heldOf (s : State) (ep : Fin 2) (seq : Nat) : Option Held :=
  (s.eps[ep.val]).held.find? (fun h => h.seq == s.cmdNo ep seq)

/-- RESULT_READ (15 R362). -/
def execResultRead (ep : Fin 2) (q : Req) (s : State) : Result :=
  .next (s.unwindowed ep 0x40 q (fun s =>
    match s.heldOf ep q.arg.toNat with
    | none => s.answerOnce ep 0x40 q Code.bounds
    | some h =>
      match h.ready with
      | none => s.answerOnce ep 0x40 q Code.notReady
      | some (st, data) =>
        (s.modEp ep (fun e => { e with held := e.held.map (fun x => if x = h then { x with read := true } else x) })).answerOnce
          ep 0x40 q st data (flagBit h.read 1)))

/-- RETIRE (15 R363). -/
def execRetire (ep : Fin 2) (q : Req) (s : State) : Result :=
  .next (s.unwindowed ep 0x41 q (fun s =>
    let e := s.eps[ep.val]
    match s.heldOf ep q.arg.toNat with
    | some h =>
      if h.ready.isNone then s.answerOnce ep 0x41 q Code.notReady
      else
        (s.modEp ep (fun e => { e with held := e.held.filter (fun x => x != h), retired := e.retired ++ [q.arg.toNat] })).answerOnce
          ep 0x41 q Code.done
    | none =>
      if e.retired.contains q.arg.toNat && (e.high.map (inWindow · q.arg.toNat)).getD false then
        s.answerOnce ep 0x41 q Code.doneRepeat
      else s.answerOnce ep 0x41 q Code.bounds))

/-- Release every semaphore of an owner (15 R359). -/
def State.semRelease (s : State) (r : Requester) : State :=
  (List.finRange 32).foldl (fun s n => if (s.reg .sm (4 * n.val)).toNat = ownerCode r then s.semFree n else s) s

/-- RESYNC (15 R359). -/
def execResync (ep : Fin 2) (q : Req) (s : State) : Result :=
  let new := q.arg.toNat % 2 ^ 16
  .next (s.unwindowed ep 0x42 q (fun s =>
    if new = (s.eps[ep.val]).epoch then s.answerOnce ep 0x42 q Code.doneRepeat
    else
      let s1 := s.modEp ep (fun e =>
        { e with epoch := new, gen := e.gen + 1, high := none, win := [], retired := [],
                 held := (e.held.filter (fun h => h.ready.isNone)).map (fun h => { h with marked := true }) })
      let s2 := s1.setAcc (epReq ep) ((s1.accOf (epReq ep)).map (fun a => if a.link.isSome then { a with mute := true } else a))
      let s3 : State := { s2 with mems := s2.mems.map (fun m => if m.ep = ep then { m with mute := true } else m) }
      (s3.semRelease (epReq ep)).answerOnce ep 0x42 q Code.done))

/-- An immediate command is answered as a deferred one (15 R361). -/
def State.convert (s : State) (ep : Fin 2) (op no arg : Nat) (to_ : Nat × Nat) : State :=
  (s.modEp ep (fun e => { e with held := e.held ++ [⟨no, none, false, false⟩] })).respond ep op (no % 2 ^ 32) arg to_ Code.done [] 1

/-- IMMEDIATE_DEFERRAL (15 R355, R361): 8 µs after acceptance the register or memory command of a sequence number still waits. -/
def execImmediateDeferral (ep : Fin 2) (seq : BitVec 32) (s : State) : Result :=
  let no := s.cmdNo ep seq.toNat
  let mine (a : RegReq) : Bool := !a.conv && !a.mute && (a.link.map (fun l => l.2.2.1 == no)).getD false
  .next (match (s.accOf (epReq ep)).find? mine with
    | some a =>
      let s1 := s.setAcc (epReq ep) ((s.accOf (epReq ep)).map (fun x => if mine x then { x with conv := true } else x))
      match a.link with
      | none => s1
      | some l => s1.convert ep l.2.1 no l.2.2.2.1 l.2.2.2.2
    | none =>
      match s.mems.find? (fun m => m.ep == ep && m.no == no && !m.conv && !m.mute) with
      | some m => (s.modMem ep no (fun m => { m with conv := true })).convert ep (if m.write then 5 else 4) no m.arg m.peer
      | none => s)

end Sys2Proof.Machine
end

