-- ==== Sys2Proof/Machine/PlanImage.lean ====
section
/-!
DEFINITION. Plan images as the loader reads them: header, sections, the setts of the plan, their words, descriptors and DMA
programs, and footprints (06 R159 to R165, R174; 13 R319).
-/
namespace Sys2Proof.Machine

/-- A section of an image with its table entry (06 Table 06-2). -/
structure PlanSec where
  ix : Nat
  type : Nat
  die : Nat
  sett : Nat
  /-- Reserved bytes of the entry. -/
  resv : Nat
  len : Nat
  dest : Nat
  src : Nat
  data : List Byte
  deriving Repr

/-- A failure of a check (06 Table 06-8). -/
structure PlanFail where
  code : Nat
  sec : Nat
  idx : Nat
  detail : Nat
  die : Nat
  sett : Nat
  deriving Repr

/-- A word of a CODE section: instruction index, the word, its section, what it decodes to. -/
structure PlanWord where
  ix : Nat
  w : BitVec 64
  sec : Nat
  ins : Option Instr
  deriving Repr

/-- A sett of the plan (06 R160): its START words and section, its sections of types 1 to 4, its store as they leave it, its words. -/
structure PlanSett where
  u : SettId
  die : Nat
  sett : Nat
  sec0 : Nat
  start : List Nat
  secs : List PlanSec
  image : Mem
  words : List PlanWord

/-- A little-endian field of a list of bytes. -/
def fieldAt (bs : List Byte) (o n : Nat) : Nat := leNat ((bs.drop o).take n)

/-- Entry k of the section table with its contents. -/
def PlanSec.parse (img : List Byte) (k : Nat) : PlanSec :=
  let e := (img.drop (64 + 32 * k)).take 32
  let len := fieldAt e 4 4
  let src := fieldAt e 16 8
  { ix := k, type := fieldAt e 0 1, die := fieldAt e 1 1, sett := fieldAt e 2 1,
    resv := fieldAt e 3 1 + 256 * fieldAt e 24 8, len := len, dest := fieldAt e 8 8, src := src, data := (img.drop src).take len }

/-- A word of the START block (06 Table 06-4). -/
def PlanSett.word (p : PlanSett) (k : Nat) : Nat := p.start.getD k 0

/-- The instruction region: first byte and instruction words (04 Table 04-9). -/
def PlanSett.ibase (p : PlanSett) : Nat := bitsOf (p.word 0) 25 16 * 4096
def PlanSett.size (p : PlanSett) : Nat := bitsOf (p.word 0) 6 0
def PlanSett.nwords (p : PlanSett) : Nat := p.size * 512

/-- The region table (04 R121). -/
def PlanSett.rbase (p : PlanSett) : Nat := bitsOf (p.word 1) 9 0 * 4096

/-- The spill area of the WAB (03 R88): first byte and slots. -/
def PlanSett.spillBase (p : PlanSett) : Nat := bitsOf (p.word 6) 7 0 * 4096
def PlanSett.spillTiles (p : PlanSett) : Nat := bitsOf (p.word 7) 5 0
def PlanSett.spillEnd (p : PlanSett) : Nat := p.spillBase + p.spillTiles * 0x6000

/-- Is the byte range covered by some pieces (offset, length)? -/
def covered : Nat → Nat → Nat → List (Nat × Nat) → Bool
  | 0, _, _, _ => false
  | f + 1, lo, hi, ps =>
    if hi ≤ lo then true
    else match ps.find? (fun p => decide (p.1 ≤ lo) && decide (lo < p.1 + p.2)) with
      | some p => covered f (p.1 + p.2) hi ps
      | none => false

/-- Does the image hold `n` bytes of the sett's store at an offset (06 R172)? -/
def PlanSett.holds (p : PlanSett) (o n : Nat) : Bool :=
  let ps := (p.secs.filter (fun x => x.type ≤ 3)).map (fun x => (x.dest, x.data.length))
  covered (ps.length + 1) o (o + n) ps

/-- The section that holds the byte at a store offset. -/
def PlanSett.secAt (p : PlanSett) (o : Nat) : Nat :=
  ((p.secs.find? (fun x => x.type ≤ 3 && x.dest ≤ o && o < x.dest + x.data.length)).map (·.ix)).getD p.sec0

/-- The descriptor that an instruction field names, where the image holds it. -/
def PlanSett.desc? (p : PlanSett) (f : Nat) : Option Desc :=
  if p.holds (64 * f) 64 then some (Desc.parse (p.image.load (64 * f) 64)) else none

/-- The instruction at an index of the region; none where the image holds no word there or the word does not decode. -/
def PlanSett.instrs (p : PlanSett) : Array (Option Instr) :=
  (p.words.foldl (fun a w => if w.ix = a.size then a.push w.ins else a) #[])

/-- Setts with a START section (06 R160), in rising die and sett order. -/
def planSetts (secs : List PlanSec) : List PlanSett :=
  (List.finRange 256).filterMap (fun u =>
    let mine := secs.filter (fun x => x.die == dieOf u && x.sett == numOf u)
    match mine.find? (fun x => x.type == 5) with
    | none => none
    | some st =>
      let body := mine.filter (fun x => x.type ≤ 4)
      let codes := body.filter (fun x => x.type == 1)
      some
        { u := u, die := dieOf u, sett := numOf u, sec0 := st.ix, start := (chunks 4 (st.data.take 256)).map leNat, secs := body,
          image := (body.filter (fun x => x.type ≤ 3)).foldl (fun m x => m.store x.dest x.data) [],
          words := codes.flatMap (fun x =>
            ((chunks 8 x.data).zip (List.range x.data.length)).map (fun c =>
              let w := BitVec.ofNat 64 (leNat c.1)
              ⟨c.2, w, x.ix, decodeWord u w⟩)) })

/-- A descriptor field of an instruction, and whether the command reads and writes the tensor (05 R136, 06 R174; 10 R263). -/
def namedDescs : Instr → List (Nat × Bool × Bool)
  | .mma _ _ da db _ _ _ _ => [(da.toNat, true, false), (db.toNat, true, false)]
  | .cvt _ _ dd mode _ _ => [(dd.toNat, mode == 2, true)]
  | .rload _ _ db _ => [(db.toNat, true, false)]
  | .vadd _ _ _ dd a b _ => [(dd.toNat, false, true), (a.toNat, true, false), (b.toNat, true, false)]
  | .vsub _ _ _ dd a b _ => [(dd.toNat, false, true), (a.toNat, true, false), (b.toNat, true, false)]
  | .vmul _ _ _ dd a b _ => [(dd.toNat, false, true), (a.toNat, true, false), (b.toNat, true, false)]
  | .vfma _ _ _ dd a b _ => [(dd.toNat, true, true), (a.toNat, true, false), (b.toNat, true, false)]
  | .vmax _ _ _ dd a b _ => [(dd.toNat, false, true), (a.toNat, true, false), (b.toNat, true, false)]
  | .vmin _ _ _ dd a b _ => [(dd.toNat, false, true), (a.toNat, true, false), (b.toNat, true, false)]
  | .vdiv _ _ _ dd a b _ => [(dd.toNat, false, true), (a.toNat, true, false), (b.toNat, true, false)]
  | .vabs _ _ _ dd a _ => [(dd.toNat, false, true), (a.toNat, true, false)]
  | .vneg _ _ _ dd a _ => [(dd.toNat, false, true), (a.toNat, true, false)]
  | .vcpy _ _ _ dd a _ => [(dd.toNat, false, true), (a.toNat, true, false)]
  | .vsqrt _ _ _ dd a _ => [(dd.toNat, false, true), (a.toNat, true, false)]
  | .vfn _ _ _ dd a _ _ => [(dd.toNat, false, true), (a.toNat, true, false)]
  | .vdfn _ _ _ dd a _ _ => [(dd.toNat, false, true), (a.toNat, true, false)]
  | .vrsum _ _ _ dd a _ => [(dd.toNat, false, true), (a.toNat, true, false)]
  | .vrmax _ _ _ dd a _ => [(dd.toNat, false, true), (a.toNat, true, false)]
  | .vrssq _ _ _ dd a _ => [(dd.toNat, false, true), (a.toNat, true, false)]
  | .vamax _ _ _ dd a _ => [(dd.toNat, false, true), (a.toNat, true, false)]
  | .vrecipeDelayed _ _ _ dd a _ => [(dd.toNat, false, true), (a.toNat, true, true)]
  | .vrecipeCurrent _ _ _ dd a _ => [(dd.toNat, false, true), (a.toNat, true, true)]
  | .vrecipeCheck _ _ _ dd a _ => [(dd.toNat, false, true), (a.toNat, true, true)]
  | .vrecipeLoss _ _ _ dd a _ => [(dd.toNat, false, true), (a.toNat, true, true)]
  | .stash _ _ ds _ _ => [(ds.toNat, true, false)]
  | .unstash _ _ dd _ => [(dd.toNat, false, true)]
  | _ => []

/-- Where a footprint lies: a sett's store or WAB, other module addresses, a stash entry, or anywhere (06 R174). -/
inductive Spot where
  | store (u : SettId)
  | wab (u : SettId)
  | mod
  | entry (u : SettId) (e : Nat)
  | all
  deriving DecidableEq, Repr

/-- An inclusive byte range of a place. -/
structure Foot where
  at_ : Spot
  lo : Int
  hi : Int
  deriving DecidableEq, Repr

/-- Do two footprints overlap? -/
def Foot.meets (a b : Foot) : Bool :=
  a.at_ == .all || b.at_ == .all || (a.at_ == b.at_ && decide (a.lo ≤ b.hi) && decide (b.lo ≤ a.hi))

/-- The part of a range that lies in a memory of `size` bytes at `base`. -/
def footPart (lo hi base : Int) (size : Nat) (at_ : Spot) : List Foot :=
  let a := max lo base
  let z := min hi (base + size - 1)
  if a ≤ z then [⟨at_, a - base, z - base⟩] else []

/-- A range of module addresses: as such, and, as far as it lies in sett windows, as bytes of the setts' own memories (07 R180). -/
def modFeet (lo hi : Int) : List Foot :=
  ⟨.mod, lo, hi⟩ ::
  (if hi < settBase || 0xF0100000000 ≤ lo then []
  else
    let k0 := (max lo settBase - settBase).toNat / 0x1000000
    let k1 := min 255 ((hi - settBase).toNat / 0x1000000)
    (List.range (k1 + 1 - k0)).flatMap (fun i =>
      let k := k0 + i
      let b : Int := (settBase + k * 0x1000000 : Nat)
      footPart lo hi b storeSize (.store (settOf (k / 128) k)) ++ footPart lo hi (b + 0x400000) wabSize (.wab (settOf (k / 128) k))))

/-- Pointer-list entries that the image holds (06 R170): none where it does not hold the whole list. -/
def PlanSett.entries (p : PlanSett) (d : Desc) : Option (List (Nat × Nat)) :=
  if d.pl then
    let o := d.listOff
    let n := p.image.num o 4
    if p.holds o 16 && p.holds (o + 16) (16 * n) then
      some ((List.range n).map (fun j => (p.image.num (o + 16 + 16 * j) 6, p.image.num (o + 24 + 16 * j) 5 * 256)))
    else none
  else some [(d.base, d.bsptr * 256)]

/-- Byte ranges of a descriptor's elements, planes and block scales for given entries (06 R164, R165, 02 R51). -/
def Desc.footprints (d : Desc) (ents : List (Nat × Nat)) : List (Int × Int) :=
  let (lo, hi) := d.byteRange d.bounds
  let more : Nat := (d.fmt.planes - 1) * d.planeSize
  ents.flatMap (fun e =>
    ((e.1 : Int) + lo, (e.1 : Int) + hi + more) ::
    (if d.isLn then [((e.2 : Int), (e.2 : Int) + (d.bsCount + (d.fmt.planes - 1) * roundUp d.bsCount 4096 : Nat) - 1)] else []))

/-- A range of a descriptor's space. -/
def PlanSett.inSpace (p : PlanSett) (space : Nat) (r : Int × Int) : List Foot :=
  match space with
  | 0 => [⟨.store p.u, r.1, r.2⟩]
  | 1 => [⟨.wab p.u, r.1, r.2⟩]
  | _ => modFeet r.1 r.2

/-- Footprint of a named descriptor. With `whole`, what the image does not hold counts as all it could be (06 R174). -/
def PlanSett.foot (p : PlanSett) (f : Nat) (whole : Bool) : List Foot :=
  match p.desc? f with
  | none => if whole then [⟨.store p.u, 0, storeSize - 1⟩, ⟨.wab p.u, 0, wabSize - 1⟩] else []
  | some d =>
    match p.entries d with
    | some es => (d.footprints es).flatMap (p.inSpace d.space)
    | none =>
      if !whole then []
      else match d.space with
        | 0 => [⟨.store p.u, 0, storeSize - 1⟩]
        | 1 => [⟨.wab p.u, 0, wabSize - 1⟩]
        | _ => [⟨.all, 0, 0⟩]

/-- A DMA program as the image supplies it (13 R319): its instructions in order. -/
inductive PlanProg where
  | absent
  | bad
  | ok (is : List (List (BitVec 64)))

/-- Are the fields of an instruction of a sett channel in range, `depth` loops being open (13 R319)? -/
def dmaFieldsOk (u : SettId) (depth : Nat) (ws : List (BitVec 64)) : Bool :=
  let w := ws.getD 0 0
  let v := w.toNat
  match dmaOp w with
  | 1 => moveOk w (ws.getD 1 0) (ws.getD 2 0) (ws.getD 3 0)
  | 2 => bitsOf v 59 16 == 0 && decide (depth < 2)
  | 3 => bitsOf v 59 32 == 0 && decide (0 < depth)
  | 4 => bitsOf v 59 41 == 0 && bitsOf v 39 38 == 0 && bitsOf v 31 16 == 0 && bitsOf v 15 0 != 0 && decide (bitsOf v 37 32 < 32)
  | 5 => signalOk (.sett u 0) w
  | 6 => bitsOf v 59 0 == 0
  | 7 => lmoveOk w (ws.getD 1 0) (ws.getD 2 0)
  | _ => false

/-- Follow a program through one STORE section, straight through its loops. -/
def readProg (u : SettId) : Nat → List Byte → Nat → List (List (BitVec 64)) → PlanProg
  | 0, _, _, _ => .absent
  | f + 1, bs, depth, acc =>
    if bs.length < 8 then .absent
    else
      let w := BitVec.ofNat 64 (leNat (bs.take 8))
      let n := dmaLen (dmaOp w)
      if bs.length < n then .absent
      else
        let ws := (chunks 8 (bs.take n)).map (fun c => BitVec.ofNat 64 (leNat c))
        if !dmaFieldsOk u depth ws then .bad
        else if dmaOp w = 6 then .ok (acc ++ [ws])
        else
          let d := if dmaOp w = 2 then depth + 1 else if dmaOp w = 3 then depth - 1 else depth
          readProg u f (bs.drop n) d (acc ++ [ws])

/-- The program at a store offset, where one STORE section holds it (13 R319). -/
def PlanSett.prog (p : PlanSett) (o : Nat) : PlanProg :=
  match p.secs.find? (fun x => x.type == 3 && x.dest ≤ o && o < x.dest + x.data.length) with
  | none => .absent
  | some x => readProg p.u (x.data.length + 1) (x.data.drop (o - x.dest)) 0 []

/-- Index after the ENDLOOP that ends the body starting at `k`. -/
def skipStatic : List (List (BitVec 64)) → Nat → Nat → Nat
  | [], k, _ => k
  | ws :: rest, k, depth =>
    match dmaOp (ws.getD 0 0), depth with
    | 2, d => skipStatic rest (k + 1) (d + 1)
    | 3, 0 => k + 1
    | 3, d + 1 => skipStatic rest (k + 1) d
    | _, d => skipStatic rest (k + 1) d

/-- The instructions a program with PE = 0 carries out, each with AOR (13 R324, 06 R174): `at_` the instruction, `loops` first
index and iterations to come. -/
def runStatic (prog : List (List (BitVec 64))) : Nat → Nat → Nat → List (Nat × Nat) → List (List (BitVec 64) × Nat)
  | 0, _, _, _ => []
  | f + 1, k, aor, loops =>
    match prog[k]? with
    | none => []
    | some ws =>
      let w := ws.getD 0 0
      match dmaOp w with
      | 2 =>
        let n := bitsOf w.toNat 15 0
        if n = 0 then runStatic prog f (skipStatic (prog.drop (k + 1)) (k + 1) 0) aor loops
        else runStatic prog f (k + 1) aor ((k + 1, n - 1) :: loops)
      | 3 =>
        let a := add48 aor (signedOf 32 (bitsOf w.toNat 31 0))
        match loops with
        | (b, r + 1) :: l => runStatic prog f b a ((b, r) :: l)
        | (_, 0) :: l => runStatic prog f (k + 1) a l
        | [] => runStatic prog f (k + 1) a []
      | 6 => []
      | _ => (ws, aor) :: runStatic prog f (k + 1) aor loops

/-- The bytes of `n` from an address, row after row `stride` bytes on, rows that touch joined (06 R174, 13 R320). -/
def rowFeet (a : Nat) (stride : Int) (rows n : Nat) : List Foot :=
  let l := (List.range rows).map (fun (r : Nat) => (add48 a ((r : Int) * stride), n))
  (sortRuns (if stride < 0 then l.reverse else l)).flatMap (fun r => modFeet r.1 ((r.1 + r.2 : Nat) - 1))

/-- What a program forms (06 R174): reads and writes, each address it forms; `pe`: its AOR depends on a counter. `mem` are a group's
members. -/
def progFeet (mem : Nat → List SettId) (pe : Bool) (prog : List (List (BitVec 64))) : List Foot × List Foot :=
  let anywhere : List Foot := [⟨.all, 0, 0⟩]
  let steps := if pe then prog.map (fun ws => (ws, 0)) else runStatic prog (2 ^ 32 * (prog.length + 1)) 0 0 []
  let side (a : Nat) (offs : Bool) (aor : Nat) (stride : Int) (rows n : Nat) : List Foot :=
    if offs && pe then anywhere else rowFeet ((a + if offs then aor else 0) % 2 ^ 48) stride rows n
  let one (x : List (BitVec 64) × Nat) : List Foot × List Foot :=
    let w (k : Nat) : Nat := (x.1.getD k 0).toNat
    let n := bitsOf (w 0) 23 0
    match bitsOf (w 0) 63 60 with
    | 1 =>
      let rows := if bitOf (w 0) 59 then bitsOf (w 1) 63 48 else 1
      let g := bitsOf (w 0) 56 51
      let d := side (bitsOf (w 2) 47 0) (bitOf (w 0) 57) x.2 (signedOf 32 (bitsOf (w 3) 31 0)) rows n
      (side (bitsOf (w 1) 47 0) (bitOf (w 0) 58) x.2 (signedOf 32 (bitsOf (w 3) 63 32)) rows n,
       d ++ (if g = 0 then [] else d.flatMap (fun f => match f.at_ with
        | .store _ => (mem g).map (fun m => ⟨.store m, f.lo, f.hi⟩)
        | _ => [])))
    | 7 =>
      let o := side (bitsOf (w 2) 47 0) true x.2 (signedOf 32 (bitsOf (w 3) 63 32)) (bitsOf (w 1) 63 48) n
      if bitOf (w 0) 59 then (o, anywhere) else (anywhere, o)
    | _ => ([], [])
  steps.foldl (fun acc x => (acc.1 ++ (one x).1, acc.2 ++ (one x).2)) ([], [])

/-- Reads and writes of a DSTART's program; everything where the image does not supply it (13 R319). -/
def PlanSett.dmaFeet (p : PlanSett) (mem : Nat → List SettId) (prog : Nat) (pe : Bool) : List Foot × List Foot :=
  match p.prog (8 * prog) with
  | .ok is => progFeet mem pe is
  | _ => ([⟨.all, 0, 0⟩], [⟨.all, 0, 0⟩])

end Sys2Proof.Machine
end

