-- ==== Sys2Proof/Machine/PlanFlow.lean ====
section
/-!
DEFINITION. Control flow of a plan's code as the loader follows it: loops, branches, region structure and the tiles that may be
open (06 R173, Table 06-7 checks 0x06 and 0x0C; 04 R119, R121 to R126; 05 R144, R145).
-/
namespace Sys2Proof.Machine

/-- The instruction at an index. -/
def insAt (a : Array (Option Instr)) (i : Nat) : Option Instr := a.getD i none

/-- The loops of the code: index of the LOOP and of its last body instruction. -/
def loopsOf (a : Array (Option Instr)) : List (Nat × Nat) :=
  (List.range a.size).filterMap (fun i => match insAt a i with
    | some (.loop _ _ _ e _) => if i < e.toNat then some (i, e.toNat) else none
    | _ => none)

/-- A region named by a REGN (04 Table 04-4): its first REGN, its entry's words, its rungs as first and last index. -/
structure PlanRgn where
  id : Nat
  regn : Nat
  ok : Bool
  starts : List Nat
  cont : Nat
  mask : Nat
  rungs : List (Option (Nat × Nat))

/-- The run of a rung from index `i` (04 R126): up to the first REND of the id, none where a REGN or no REND is met. -/
def rungEnd (a : Array (Option Instr)) (id : Nat) : Nat → Nat → Option Nat
  | 0, _ => none
  | f + 1, i =>
    match insAt a i with
    | some (.rend _ k) => if k.toNat = id then some i else rungEnd a id f (i + 1)
    | some (.regn _ _) => none
    | _ => rungEnd a id f (i + 1)

/-- The region of an id. -/
def PlanSett.rgn (p : PlanSett) (a : Array (Option Instr)) (id regn : Nat) : PlanRgn :=
  let e := p.rbase + 16 * id
  let b := p.image.num (e + 10) 1
  let n := bitsOf b 4 2
  let ok := p.holds e 16 && decide (1 ≤ n) && decide (n ≤ 4)
  let starts := if ok then (List.range n).map (fun k => p.image.num (e + 2 * k) 2 % 2 ^ 15) else []
  { id := id, regn := regn, ok := ok, starts := starts, cont := p.image.num (e + 8) 2 % 2 ^ 15, mask := p.image.num (e + 12) 4,
    rungs := starts.map (fun r => (rungEnd a id (a.size - r) r).map (fun j => (r, j))) }

/-- The regions that the code names, by their first REGN. -/
def PlanSett.rgns (p : PlanSett) (a : Array (Option Instr)) : List PlanRgn :=
  ((List.range a.size).foldl (fun (acc : List PlanRgn) i => match insAt a i with
    | some (.regn _ id) => if acc.any (fun g => g.id == id.toNat) then acc else acc ++ [p.rgn a id.toNat i]
    | _ => acc) [])

/-- The rungs of a region that have their REND. -/
def PlanRgn.runs (g : PlanRgn) : List (Nat × Nat) := g.rungs.filterMap (fun x => x)

/-- Does an index lie in one of the region's rungs? -/
def PlanRgn.has (g : PlanRgn) (i : Nat) : Bool := g.runs.any (fun r => decide (r.1 ≤ i) && decide (i ≤ r.2))

/-- A branch from `i` to `t` enters or leaves a rung (04 R126). -/
def crossesRung (gs : List PlanRgn) (i t : Nat) : Bool :=
  gs.any (fun g => g.runs.any (fun r => (decide (r.1 ≤ i) && decide (i ≤ r.2)) != (decide (r.1 ≤ t) && decide (t ≤ r.2))))

/-- First indices of the rungs of a region that no run can be formed for, or that overlap a run starting no later (04 R126); the
id of a region whose entry holds no rungs. -/
def PlanRgn.broken (g : PlanRgn) : List Nat :=
  if !g.ok then [g.id]
  else
    let rs := g.rungs.zip (List.range g.rungs.length)
    (g.starts.zip rs).filterMap (fun x => match x.2.1 with
      | none => some x.1
      | some r =>
        if rs.any (fun y => y.2 != x.2.2 && (y.1.map (fun q =>
            (decide (q.1 < r.1) || (q.1 == r.1 && decide (y.2 < x.2.2))) && decide (r.1 ≤ q.2))).getD false) then some x.1
        else none)

/-- A region against a loop (04 R126): it lies in one body of a loop around its REGN, and a loop opened in a rung closes in it. -/
def PlanRgn.loopOk (g : PlanRgn) (i : Nat) (l : Nat × Nat) : Bool :=
  g.runs.all (fun r =>
    if l.1 < i && i ≤ l.2 then decide (l.1 < r.1) && decide (r.2 ≤ l.2)
    else decide (l.2 < r.1) || decide (r.2 ≤ l.1) || (decide (r.1 ≤ l.1) && decide (l.2 ≤ r.2)))

/-- Failures of check 0x06: instruction and target. -/
def PlanSett.flow (p : PlanSett) (a : Array (Option Instr)) : List (Nat × Nat) :=
  let loops := loopsOf a
  let gs := p.rgns a
  (List.range a.size).flatMap (fun i => match insAt a i with
    | some (.br _ _ _ tgt) =>
      let t := tgt.toNat
      if p.nwords ≤ t || loops.any (fun l => l.1 < t && t ≤ l.2 && !(l.1 < i && i ≤ l.2)) || crossesRung gs i t then [(i, t)] else []
    | some (.regn _ id) =>
      match gs.find? (fun g => g.id == id.toNat) with
      | none => []
      | some g =>
        (((if g.regn = i then g.broken else []) ++ (loops.filter (fun l => !g.loopOk i l)).map (·.1)).eraseDups).map (fun v => (i, v))
    | some (.rend _ id) =>
      if gs.any (fun g => g.id == id.toNat && g.runs.any (fun r => r.2 == i)) then [] else [(i, id.toNat)]
    | _ => [])

/-- Where control may go from an instruction, every branch, predicate and loop count being possible (06 R173). -/
def succsOf (loops : List (Nat × Nat)) (gs : List PlanRgn) (i : Nat) (x : Instr) : List Nat :=
  let fall := (i + 1) :: (loops.filter (fun l => l.2 == i)).map (fun l => l.1 + 1)
  match x with
  | .halt _ => []
  | .br _ _ always t => if always then [t.toNat] else t.toNat :: fall
  | .loop _ _ _ e _ => if i < e.toNat then [i + 1, e.toNat + 1] else []
  | .regn _ id => ((gs.find? (fun g => g.id == id.toNat)).map (·.starts)).getD []
  | .rend _ id =>
    match gs.find? (fun g => g.id == id.toNat) with
    | some g =>
      g.cont :: ((g.starts.zip (List.range g.starts.length)).filterMap (fun s =>
        if s.2 = 0 then none
        else match g.rungs.getD (s.2 - 1) none with
          | some r => if r.2 = i then some s.1 else none
          | none => none))
    | none => []
  | _ => fall

/-- What the tiles may be on some path: open fast, open strict, shut. -/
structure OpenSet where
  fast : BitVec 64
  strict : BitVec 64
  shut : BitVec 64
  deriving DecidableEq, Repr

def OpenSet.join (a b : OpenSet) : OpenSet := ⟨a.fast ||| b.fast, a.strict ||| b.strict, a.shut ||| b.shut⟩

/-- The bit of a tile id. -/
def tileBit (id : BitVec 6) : BitVec 64 := BitVec.ofNat 64 (2 ^ id.toNat)

/-- What an instruction leaves open: the first MMA of a tile opens it, a CVT closes it; a predicate may keep it from either. -/
def OpenSet.after (o : OpenSet) : Instr → OpenSet
  | .mma _ h _ _ id str _ _ =>
    let b := tileBit id
    let n : OpenSet := if o.shut &&& b = 0 then o
      else if str then ⟨o.fast, o.strict ||| b, o.shut &&& ~~~b⟩ else ⟨o.fast ||| b, o.strict, o.shut &&& ~~~b⟩
    if h.pen then n.join o else n
  | .cvt _ h _ _ _ id =>
    let b := tileBit id
    let n : OpenSet := ⟨o.fast &&& ~~~b, o.strict &&& ~~~b, o.shut ||| b⟩
    if h.pen then n.join o else n
  | _ => o

/-- One pass over the code: what reaches an instruction flows to its successors. -/
def openPass (a : Array (Option Instr)) (loops : List (Nat × Nat)) (gs : List PlanRgn) (m : Array (Option OpenSet)) :
    Array (Option OpenSet) :=
  (List.range a.size).foldl (fun m i =>
    match m.getD i none, insAt a i with
    | some o, some x =>
      let n := o.after x
      (succsOf loops gs i x).foldl (fun m y =>
        if y < m.size then m.setIfInBounds y (some ((m.getD y none).map (·.join n) |>.getD n)) else m) m
    | _, _ => m) m

/-- Passes until nothing changes. -/
def openFix (a : Array (Option Instr)) (loops : List (Nat × Nat)) (gs : List PlanRgn) :
    Nat → Array (Option OpenSet) → Array (Option OpenSet)
  | 0, m => m
  | f + 1, m =>
    let n := openPass a loops gs m
    if n = m then m else openFix a loops gs f n

/-- The sets of tiles that may be open at each instruction, from SQ_PC. -/
def PlanSett.openAt (p : PlanSett) (a : Array (Option Instr)) : Array (Option OpenSet) :=
  let m0 : Array (Option OpenSet) := Array.replicate a.size none
  let pc := bitsOf (p.word 2) 14 0
  openFix a (loopsOf a) (p.rgns a) (194 * (a.size + 1)) (m0.setIfInBounds pc (some ⟨0, 0, ~~~0⟩))

/-- Tile id that an MMA or a CVT names. -/
def tileOf : Instr → Option (BitVec 6)
  | .mma _ _ _ _ id _ _ _ => some id
  | .cvt _ _ _ _ _ id => some id
  | _ => none

/-- Distinct tile ids in order of the instruction that first names them. -/
def tilesOf (a : Array (Option Instr)) : List (Nat × BitVec 6) :=
  (List.range a.size).foldl (fun (acc : List (Nat × BitVec 6)) i =>
    match (insAt a i).bind tileOf with
    | some id => if acc.any (fun x => x.2 == id) then acc else acc ++ [(i, id)]
    | none => acc) []

/-- Does an instruction break 03 R90 for some set of tiles that may be open? -/
def breaksStrict (o : OpenSet) (x : Instr) : Bool :=
  match tileOf x with
  | none => false
  | some id =>
    let b := tileBit id
    (o.strict &&& ~~~b != 0) ||
    (match x with
      | .mma _ _ _ _ _ str _ _ => if str then o.fast &&& b != 0 else o.strict &&& b != 0
      | _ => false)

/-- Failures of check 0x0C (06 R173): instruction, detail. -/
def PlanSett.budget (p : PlanSett) (a : Array (Option Instr)) : List (Nat × Nat) :=
  let ts := tilesOf a
  let spill : Foot := ⟨.wab p.u, p.spillBase, (p.spillEnd : Int) - 1⟩
  (match ts[9 + p.spillTiles]? with
    | some t => [(t.1, t.2.toNat)]
    | none => []) ++
  (if 9 < ts.length && 0 < p.spillTiles then
    match (List.range a.size).find? (fun i => ((insAt a i).map (fun x =>
        (namedDescs x).any (fun d => (p.foot d.1 false).any (fun f => f.meets spill)))).getD false) with
    | some i => [(i, (((insAt a i).bind tileOf).map (·.toNat)).getD 0)]
    | none => []
  else []) ++
  (let m := p.openAt a
   (List.range a.size).filterMap (fun i => match m.getD i none, insAt a i with
    | some o, some x => if breaksStrict o x then some (i, ((tileOf x).map (·.toNat)).getD 0) else none
    | _, _ => none))

end Sys2Proof.Machine
end

