-- ==== Sys2Proof/Machine/Loader.lean ====
section
/-!
DEFINITION. The plan loader: its checks, its report and the start of a plan's setts (06 R171 to R177, Table 06-7).
-/
namespace Sys2Proof.Machine

/-- Reserved header fields that are not 0, by value (06 Table 06-1). -/
def headerReserved (h : List Byte) : List Nat :=
  [fieldAt h 23 1, fieldAt h 28 36].filter (· != 0)

/-- Failures of check 0x01 in the header; `img` is the image where it can be read (06 R175). -/
def headerFails (h : List Byte) (img : Option (List Byte)) : List PlanFail :=
  let f (bad : Bool) (v : Nat) : List PlanFail := if bad then [⟨1, 0xFFFF, 0xFFFFFFFF, v % 2 ^ 32, 0xFF, 0xFF⟩] else []
  let ns := fieldAt h 6 2
  f (fieldAt h 0 4 != 0x4E414C50) (fieldAt h 0 4) ++ f (fieldAt h 4 2 != 0x0100) (fieldAt h 4 2) ++
  f (ns = 0 || 4096 < ns) ns ++ (headerReserved h).flatMap (fun v => f true v) ++
  (match img with
    | none => f true (fieldAt h 8 8)
    | some bs => f (crcZeroed bs 24 != fieldAt h 24 4) (fieldAt h 24 4))

/-- Failures of check 0x01 in the section table. -/
def sectionFails (ib : Nat) (x : PlanSec) : List PlanFail :=
  let f (bad : Bool) (v : Nat) : List PlanFail := if bad then [⟨1, x.ix, x.ix, v % 2 ^ 32, x.die, x.sett⟩] else []
  f (x.resv != 0) x.resv ++ f (x.type = 0 || 7 < x.type) x.type ++ f (decide (ib < x.src + x.len)) x.src

/-- The image at an address, where its header lies in a tier and gives a length that holds its section table and stays in the tier. -/
def State.planImage (s : State) (a : Nat) : List Byte × Option (List Byte) :=
  let h := if inTier a 64 then ((s.readMod none a 64).1).getD [] else List.replicate 64 0
  let n := fieldAt h 8 8
  if inTier a 64 && 64 + 32 * fieldAt h 6 2 ≤ n && inTier a n then (h, (s.readMod none a n).1) else (h, none)

/-- Failures of check 0x02; a section whose type gives DIE or SETT no meaning must hold 0xFF there (log entry 51). -/
def fuseFails (h : List Byte) (secs : List PlanSec) (ps : List PlanSett) : List PlanFail :=
  let m (bad : Bool) (v : Nat) : List PlanFail := if bad then [⟨2, 0xFFFF, 0xFFFFFFFF, v, 0xFF, 0xFF⟩] else []
  m (128 < fieldAt h 20 2) (fieldAt h 20 2) ++ m (96 < fieldAt h 22 1) (fieldAt h 22 1) ++
  secs.flatMap (fun x =>
    let okDie := if x.type = 7 then x.die == 0xFF else decide (x.die ≤ 1)
    let okSett := if x.type = 6 || x.type = 7 then x.sett == 0xFF else decide (x.sett ≤ 127)
    (if okDie then [] else [⟨2, x.ix, x.ix, x.die, x.die, x.sett⟩]) ++
    (if okSett then [] else [⟨2, x.ix, x.ix, x.sett, x.die, x.sett⟩])) ++
  ps.flatMap (fun p => p.words.flatMap (fun w =>
    let e := bitsOf w.w.toNat 63 60
    if 10 ≤ e then [⟨2, w.sec, w.ix, e, p.die, p.sett⟩] else []))

/-- The first MCAST section of a die. -/
def mcastOf (secs : List PlanSec) (d : Nat) : Option PlanSec := secs.find? (fun x => x.type == 6 && x.die == d)

/-- Does a sett let a load pass check 0x03 (06 R171)? A frozen one, whose STATE reads FROZEN, does not (04 R110). -/
def SettSt.loadable (t : SettSt) : Bool := t.freeze.isNone && (t.st == .idle || t.st == .done || t.st == .halted) && !t.engBusy

/-- Failures of check 0x03. -/
def State.busyFails (s : State) (secs : List PlanSec) (ps : List PlanSett) : List PlanFail :=
  (List.finRange 256).flatMap (fun u =>
    if (s.sett u).loadable then []
    else
      let f (sec : Nat) : List PlanFail := [⟨3, sec, numOf u, (s.view (.sq u) 4).toNat, dieOf u, numOf u⟩]
      match ps.find? (fun p => p.u == u) with
      | some p => f p.sec0
      | none =>
        match mcastOf secs (dieOf u) with
        | some x => f x.ix
        | none => [])

/-- Do two sections write overlapping bytes of one destination (06 R159)? -/
def PlanSec.clash (x y : PlanSec) : Bool :=
  let kind (t : Nat) : Nat := if t ≤ 3 then 1 else t
  kind x.type == kind y.type && (x.type == 7 || (x.die == y.die && (x.type == 6 || x.sett == y.sett))) &&
  (x.type == 5 || rangesMeet x.dest x.len y.dest y.len)

/-- Failures of check 0x04. -/
def layoutFails (secs : List PlanSec) (ps : List PlanSett) : List PlanFail :=
  secs.flatMap (fun x =>
    let f (bad : Bool) : List PlanFail := if bad then [⟨4, x.ix, x.ix, x.dest % 2 ^ 32, x.die, x.sett⟩] else []
    let p := ps.find? (fun p => p.die == x.die && p.sett == x.sett)
    let own (g : PlanSett → Bool) : Bool := (p.map g).getD true
    f (match x.type with
      | 1 => p.isNone || decide (storeSize < x.dest + x.len) ||
        !own (fun p => x.dest == p.ibase && x.len % 8 == 0 && decide (x.len ≤ p.size * 4096))
      | 2 => p.isNone || decide (storeSize < x.dest + x.len) ||
        !own (fun p => x.dest == p.rbase && x.len % 16 == 0 && decide (1 ≤ x.len) && decide (x.len ≤ 16384))
      | 3 => p.isNone || decide (storeSize < x.dest + x.len)
      | 4 => p.isNone || decide (wabSize < x.dest + x.len)
      | 5 => p.isNone || x.len != 256
      | 6 => x.len != 2016 || x.dest != 0
      | _ => !inTier x.dest x.len) ++
    f (secs.any (fun y => decide (y.ix < x.ix) && y.clash x))) ++
  ps.flatMap (fun p =>
    let f (bad : Bool) (v : Nat) : List PlanFail := if bad then [⟨4, p.sec0, p.sec0, v % 2 ^ 32, p.die, p.sett⟩] else []
    f (!p.secs.any (fun x => x.type == 1)) 0 ++
    f (p.size = 0 || 64 < p.size || decide (storeSize < p.ibase + p.size * 4096)) p.ibase ++
    f (42 < p.spillTiles || decide (wabSize < p.spillEnd)) p.spillBase)

/-- Check 0x05 on a decoded word: the LOOP of 05 R145, the program of a DSTART (13 R319). -/
def PlanSett.wordOk (p : PlanSett) (a : Array (Option Instr)) (w : PlanWord) : Bool :=
  match w.ins with
  | none => false
  | some (.loop _ _ _ e _) =>
    let n := e.toNat
    decide (w.ix < n) && !(loopsOf a).any (fun l => l.1 < w.ix && w.ix ≤ l.2 && l.2 ≤ n) &&
    (match insAt a n with
      | some (.br _ _ _ _) => false
      | some (.loop _ _ _ _ _) => false
      | some (.regn _ _) => false
      | some (.rend _ _) => false
      | some (.halt _) => false
      | _ => true)
  | some (.dstart _ _ _ prog _ _) =>
    (match p.prog (8 * prog.toNat) with
      | .bad => false
      | _ => true)
  | _ => true

/-- Descriptors that a sett's words name and the image holds, each once. -/
def PlanSett.descs (p : PlanSett) : List (Nat × Desc) :=
  ((p.words.flatMap (fun w => (w.ins.map namedDescs).getD [])).map (·.1)).eraseDups.filterMap (fun f => (p.desc? f).map (fun d => (f, d)))

/-- Region of the module's map that an address lies in (07 Table 07-2). -/
def mapRegion (a : Int) : Option Nat :=
  if a < 0 then none
  else if a < hbmSize then some 0
  else if burrowBase ≤ a && a < 0x20000000000 then some 1
  else if transBase ≤ a && a < remoteBase then some 2
  else if remoteBase ≤ a && a < settBase then some 3
  else if settBase ≤ a && a < 0xF0100000000 then some 4
  else none

/-- Is a range inside a space (06 R163)? -/
def rangeInside (space : Nat) (r : Int × Int) : Bool :=
  if space = 2 then (mapRegion r.1).isSome && mapRegion r.1 == mapRegion r.2
  else decide (0 ≤ r.1) && decide (r.2 < spaceSize space)

/-- Checks 0x07 to 0x09 of one descriptor (06 R172): where FMT, NDIM or SPACE is reserved the last two have nothing to go by. -/
def PlanSett.descFails (p : PlanSett) (f : Nat) (d : Desc) : List PlanFail :=
  let fail (c v : Nat) : List PlanFail := [⟨c, p.secAt (64 * f), f, v % 2 ^ 32, p.die, p.sett⟩]
  (if !d.fieldsOk || d.mcg != 0 || (d.isLn && !d.csp && !f32CoarseOk d.cscale) then
    fail 7 (p.image.num (64 * f + 6) 2 + 65536 * p.image.num (64 * f + 18) 1) else []) ++
  if 12 ≤ d.fmtc || d.ndim = 0 || 5 < d.ndim || 3 ≤ d.space then []
  else
    (if d.aligned [(d.base, 0)] then [] else fail 8 d.base) ++
    (match (if d.pl && d.pld < d.ndim && storeSize < d.listOff + 16 + 16 * p.image.num d.listOff 4 then
        some ((d.listOff + 15 + 16 * p.image.num d.listOff 4 : Nat) : Int)
      else (((p.entries d).map d.footprints).getD []).find? (fun r => !rangeInside d.space r) |>.map (·.2)) with
      | some top => fail 9 (twosOf 32 top)
      | none => [])

/-- Every extent is 1. -/
def Desc.single (d : Desc) : Bool := d.bounds.all (· == 1)

/-- Each bound of a source is the destination's or 1 (05 R150). -/
def Desc.fits (d dd : Desc) : Bool := (d.bounds.zip dd.bounds).all (fun b => b.1 == 1 || b.1 == b.2)

/-- Bounds of a row function (05 R150). -/
def Desc.rowOf (d dd : Desc) : Bool := dd.bound 0 == 1 && dd.bounds.drop 1 == d.bounds.drop 1

/-- Formats of a failing pair. -/
def fmtPair (a b : Desc) : Nat := a.fmtc + 256 * b.fmtc

/-- Check 0x0A: the formats of the operands where the instruction breaks a rule (02 R43, R53; 03 R83; 05 R149, R150; 06 R166). -/
def PlanSett.operandFail (p : PlanSett) (x : Instr) : Option Nat :=
  let one (a : BitVec 14) (ok : Desc → Bool) : Option Nat :=
    match p.desc? a.toNat with
    | some d => if ok d then none else some d.fmtc
    | none => none
  let two (a b : BitVec 14) (ok : Desc → Desc → Bool) : Option Nat :=
    match p.desc? a.toNat, p.desc? b.toNat with
    | some d, some e => if ok d e then none else some (fmtPair d e)
    | _, _ => none
  let bin (dd a b : BitVec 14) : Option Nat := (two a dd Desc.fits).orElse (fun _ => two b dd Desc.fits)
  match x with
  | .mma _ _ da db _ _ _ _ =>
    two da db (fun a b => (pairPeriod a.fmt b.fmt).isSome && a.blockedOnK false && b.blockedOnK true && a.flat && b.flat)
  | .cvt _ _ dd mode given _ =>
    one dd (fun d => (if mode = 0 then d.space == 0 else d.space == 1 && d.fmtc == 6 && !d.trn) &&
      (!given || (d.isLn && mode == 0)) && d.flat && (!d.isLn || decide (d.bdim < 2)))
  | .rload _ _ db _ => one db (fun d => decide (d.fmtc < 2) && d.blockedOnK true && d.flat)
  | .vadd _ _ _ dd a b _ => bin dd a b
  | .vsub _ _ _ dd a b _ => bin dd a b
  | .vmul _ _ _ dd a b _ => bin dd a b
  | .vfma _ _ _ dd a b _ => bin dd a b
  | .vmax _ _ _ dd a b _ => bin dd a b
  | .vmin _ _ _ dd a b _ => bin dd a b
  | .vdiv _ _ _ dd a b _ => bin dd a b
  | .vabs _ _ _ dd a _ => two a dd Desc.fits
  | .vneg _ _ _ dd a _ => two a dd Desc.fits
  | .vcpy _ _ _ dd a _ => two a dd Desc.fits
  | .vsqrt _ _ _ dd a _ => two a dd Desc.fits
  | .vfn _ _ _ dd a _ _ => two a dd Desc.fits
  | .vdfn _ _ _ dd a _ _ => two a dd Desc.fits
  | .vrsum _ _ _ dd a _ => two a dd Desc.rowOf
  | .vrmax _ _ _ dd a _ => two a dd Desc.rowOf
  | .vrssq _ _ _ dd a _ => two a dd Desc.rowOf
  | .vamax _ _ _ dd a _ => two a dd (fun _ d => d.single)
  | .vrecipeDelayed _ _ _ dd a _ => two a dd (fun _ d => d.single)
  | .vrecipeCurrent _ _ _ dd a _ => two a dd (fun _ d => d.single)
  | .vrecipeCheck _ _ _ dd a _ => two a dd (fun _ d => d.single)
  | .vrecipeLoss _ _ _ dd a _ => two a dd (fun _ d => d.single)
  | _ => none

/-- What no destination may cover (Table 06-7 check 0x0B): code, region table, named descriptors, their extent words and pointer
lists. -/
def PlanSett.guarded (p : PlanSett) (a : Array (Option Instr)) : List Foot :=
  let at_ (o n : Nat) : List Foot := if n = 0 then [] else [⟨.store p.u, o, (o + n : Nat) - 1⟩]
  let names := ((p.words.flatMap (fun w => (w.ins.map namedDescs).getD [])).map (·.1)).eraseDups
  let table : Nat := List.foldl max 0 ((p.rgns a).map (fun (g : PlanRgn) => 16 * (g.id + 1)) ++
    (p.secs.filter (fun (x : PlanSec) => x.type == 2)).map (fun (x : PlanSec) => x.len))
  at_ p.ibase (p.size * 4096) ++ at_ p.rbase table ++
  names.flatMap (fun f =>
    at_ (64 * f) 64 ++
    (match p.desc? f with
      | none => []
      | some d =>
        (d.dims.take d.ndim).flatMap (fun x => if x.xsrc = 2 then at_ (4 * x.xsel) 4 else []) ++
        (if d.pl then at_ d.listOff (16 + if p.holds d.listOff 16 then 16 * p.image.num d.listOff 4 else 0) else [])))

/-- The members of a group in the tables the plan will run with (03 R79; 06 R171). -/
def State.planMembers (s : State) (secs : List PlanSec) (d : Nat) (g : Nat) : List SettId :=
  match mcastOf secs d with
  | none => s.members ⟨d % 2, Nat.mod_lt _ (by decide)⟩ g
  | some x =>
    if g = 0 then []
    else (List.range 8).flatMap (fun w =>
      let v := fieldAt x.data (32 * (g - 1) + 4 * w) 4
      (List.range 32).filterMap (fun j => if bitOf v j then some (settOf (w / 4) (32 * (w % 4) + j)) else none))

/-- Word w of a group in the tables the plan will run with. -/
def State.planWord (s : State) (secs : List PlanSec) (d g w : Nat) : Nat :=
  match mcastOf secs d with
  | none => (s.reg (.tr ⟨d % 2, Nat.mod_lt _ (by decide)⟩) (0x800 + 32 * g + 4 * w)).toNat
  | some x => fieldAt x.data (32 * (g - 1) + 4 * w) 4

/-- Failures of check 0x0B of one word. -/
def PlanSett.coverFail (p : PlanSett) (mem : Nat → List SettId) (guards : List Foot) (x : Instr) : Option Nat :=
  let dst := ((namedDescs x).filter (·.2.2)).flatMap (fun d => p.foot d.1 false) ++
    (match x with
      | .dstart _ _ _ prog pe _ => (p.dmaFeet mem prog.toNat pe).2.filter (fun f => f.at_ != .all)
      | _ => [])
  (dst.flatMap (fun f => guards.filterMap (fun g => if f.meets g then some (max f.lo g.lo).toNat else none))).head?

/-- What no rung may hold (06 R174), given SIGMASK. -/
def banned (mask : Nat) : Instr → Bool
  | .stct _ _ _ _ _ => true
  | .sfree _ _ _ => true
  | .tsig _ _ _ _ _ _ _ => true
  | .hcmd _ _ _ => true
  | .kvappend _ _ _ _ _ _ => true
  | .kvcow _ _ _ _ => true
  | .kvfree _ _ _ _ _ => true
  | .kvshare _ _ _ _ _ => true
  | .kvunpin _ _ _ => true
  | .kvmap _ _ _ _ _ _ pin => pin
  | .waits _ sg _ _ _ _ => !bitOf mask sg.toNat
  | _ => false

/-- The read and write sets of an instruction in a rung (06 R174). -/
def PlanSett.rungFeet (p : PlanSett) (mem : Nat → List SettId) (x : Instr) : List Foot × List Foot :=
  let ds := namedDescs x
  let r := (ds.filter (·.2.1)).flatMap (fun d => p.foot d.1 true)
  let w := (ds.filter (·.2.2)).flatMap (fun d => p.foot d.1 true)
  match x with
  | .stash _ _ _ e _ => (r, ⟨.entry p.u e.toNat, 0, 0⟩ :: w)
  | .unstash _ _ _ e => (⟨.entry p.u e.toNat, 0, 0⟩ :: r, w)
  | .dstart _ _ _ prog pe _ => p.dmaFeet mem prog.toNat pe
  | _ => (r, w)

/-- SEN and SIGN of an engine command's word (05 Table 05-1). -/
def signals (w : BitVec 64) : Option Nat :=
  if 1 ≤ bitsOf w.toNat 63 60 && bitOf w.toNat 49 then some (bitsOf w.toNat 48 44) else none

/-- May a word of sett `q` increment a counter of `me` in the mask (04 R124, 06 R174)? `same`: it runs on `me` itself. -/
def PlanSett.mayRaise (q : PlanSett) (mem : Nat → List SettId) (me : SettId) (mask : Nat) (w : PlanWord) : Bool :=
  (q.u == me && ((signals w.w).map (bitOf mask)).getD false) ||
  (match w.ins with
    | some (.tsig _ _ die sett mg tsg _) =>
      bitOf mask tsg.toNat && (if mg = 0 then [settOf (if die then 1 else 0) sett.toNat] else mem mg.toNat).contains me
    | some (.dstart _ _ _ prog _ _) =>
      (match q.prog (8 * prog.toNat) with
        | .ok is => is.any (fun ws =>
            let v := (ws.getD 0 0).toNat
            match bitsOf v 63 60 with
            | 1 => bitsOf v 56 51 != 0 && bitOf mask (bitsOf v 50 46) && (mem (bitsOf v 56 51)).contains me
            | 5 => bitsOf v 15 0 != 0 && !bitOf v 47 && bitOf mask (bitsOf v 37 32) &&
              (if bitOf v 46 then q.u == me else settOf (bitsOf v 45 45) (bitsOf v 44 38) == me)
            | _ => false)
        | _ => true)
    | _ => false)

/-- Failures of check 0x0D: instruction, region (06 R174). -/
def PlanSett.replayFails (p : PlanSett) (ps : List PlanSett) (mem : Nat → Nat → List SettId) (a : Array (Option Instr)) :
    List (Nat × Nat) :=
  (p.rgns a).flatMap (fun g =>
    let inside := (List.range a.size).filter g.has
    let xs := inside.filterMap (fun i => insAt a i)
    match inside.find? (fun i => ((insAt a i).map (banned g.mask)).getD false) with
    | some i => [(i, g.id)]
    | none =>
      let feet := xs.map (p.rungFeet (mem p.die))
      let rd := feet.flatMap (·.1)
      let wr := feet.flatMap (·.2)
      let raised := g.mask != 0 && ps.any (fun q => q.words.any (fun w =>
        !(q.u == p.u && g.has w.ix) && q.mayRaise (mem q.die) p.u g.mask w))
      if raised || rd.any (fun r => wr.any (fun w => r.meets w)) then [(g.regn, g.id)] else [])

/-- Failures of check 0x0E (03 R79, R80). -/
def State.mcastFails (s : State) (need : Nat) (secs : List PlanSec) (ps : List PlanSett) : List PlanFail :=
  let sec := ((mcastOf secs 0).orElse (fun _ => mcastOf secs 1)).map (·.ix) |>.getD 0xFFFF
  let tw := s.planWord secs
  ((List.range 63).map (· + 1)).flatMap (fun g =>
    let f (o : Option Nat) : List PlanFail := match o with
      | some w => [⟨0x0E, sec, g, w, 0xFF, 0xFF⟩]
      | none => []
    f ((List.range 8).find? (fun w => tw 0 g w != tw 1 g w)) ++
    f ((List.range 8).find? (fun w => (List.range 32).any (fun j =>
      (bitOf (tw 0 g w) j || bitOf (tw 1 g w) j) && decide (need ≤ 32 * (w % 4) + j))))) ++
  ps.flatMap (fun p => p.words.flatMap (fun w =>
    match w.ins with
    | some (.dstart _ _ _ prog _ _) =>
      (match p.prog (8 * prog.toNat) with
        | .ok is => is.flatMap (fun ws =>
            let v := (ws.getD 0 0).toNat
            let g := bitsOf v 56 51
            if bitsOf v 63 60 = 1 && g != 0 && !(s.planMembers secs p.die g).contains p.u then
              [(⟨0x0E, w.sec, g, 4 * p.die + p.sett / 32, p.die, p.sett⟩ : PlanFail)]
            else [])
        | _ => [])
    | _ => []))

/-- Checks 0x05 to 0x0D of one sett. -/
def State.settFails (s : State) (secs : List PlanSec) (ps : List PlanSett) (guards : List Foot) (p : PlanSett) : List PlanFail :=
  let a := p.instrs
  let mem := s.planMembers secs
  let codeSec := ((p.words.head?).map (·.sec)).getD p.sec0
  let at_ (c : Nat) (x : Nat × Nat) : PlanFail := ⟨c, codeSec, x.1, x.2 % 2 ^ 32, p.die, p.sett⟩
  let each (c : Nat) (f : Instr → Option Nat) : List PlanFail :=
    p.words.filterMap (fun w => (w.ins.bind f).map (fun v => ⟨c, w.sec, w.ix, v % 2 ^ 32, p.die, p.sett⟩))
  p.words.filterMap (fun w =>
    if bitsOf w.w.toNat 63 60 < 10 && !p.wordOk a w then some ⟨5, w.sec, w.ix, bitsOf w.w.toNat 63 32, p.die, p.sett⟩ else none) ++
  (p.flow a).map (at_ 6) ++ p.descs.flatMap (fun x => p.descFails x.1 x.2) ++ each 0x0A p.operandFail ++
  each 0x0B (p.coverFail (mem p.die) guards) ++
  (if wabSize < p.spillEnd then [⟨0x0C, p.sec0, 0xFFFFFFFF, p.spillEnd, p.die, p.sett⟩] else []) ++ (p.budget a).map (at_ 0x0C) ++ (p.replayFails ps mem a).map (at_ 0x0D)

/-- The place of a failure in the order of 06 R172: code, section, index. -/
def PlanFail.key (x : PlanFail) : Nat := (x.code * 2 ^ 16 + x.sec) * 2 ^ 32 + x.idx

/-- Put a failure in its place, after those of the same key. -/
def PlanFail.insert (x : PlanFail) : List PlanFail → List PlanFail
  | [] => [x]
  | y :: ys => if x.key < y.key then x :: y :: ys else y :: PlanFail.insert x ys

/-- Failures in the order of their report. -/
def orderFails (l : List PlanFail) : List PlanFail := l.foldl (fun acc x => x.insert acc) []

/-- Every check on the image at an address (06 R172): the header, the sections and setts of the plan, the failures in order. -/
def State.planChecks (s : State) (image : Nat) : List Byte × List PlanSec × List PlanSett × List PlanFail :=
  let (h, img) := s.planImage image
  let ns := fieldAt h 6 2
  let secs := match img with
    | some bs => if ns ≤ 4096 then (List.range ns).map (PlanSec.parse bs) else []
    | none => []
  let f1 := headerFails h img ++ secs.flatMap (sectionFails (fieldAt h 8 8))
  if !f1.isEmpty then (h, secs, [], orderFails f1)
  else
    let ps := planSetts secs
    let guards := ps.flatMap (fun p => p.guarded p.instrs)
    (h, secs, ps, orderFails (fuseFails h secs ps ++ s.busyFails secs ps ++ layoutFails secs ps ++
      ps.flatMap (s.settFails secs ps guards) ++ s.mcastFails (fieldAt h 20 2) secs ps))

/-- An entry of the report (06 Table 06-8). -/
def PlanFail.bytes (x : PlanFail) : List Byte :=
  leBytes 1 x.code ++ leBytes 1 x.die ++ leBytes 1 x.sett ++ leBytes 1 0 ++ leBytes 2 x.sec ++ leBytes 2 0 ++ leBytes 4 x.idx ++
  leBytes 4 x.detail

/-- First 16 bytes of the report: they are the result of the load (06 R175, 15 Table 15-3). -/
def State.reportHead (s : State) (plan : Nat) (fs : List PlanFail) : List Byte :=
  leBytes 1 (if fs.isEmpty then Code.done else Code.planMismatch) ++ leBytes 1 ((fs.head?.map (·.code)).getD 0) ++
  leBytes 2 (min fs.length 0xFFFF) ++ leBytes 4 plan ++ leBytes 8 s.cycle

/-- The report is written, the event record made, the requester answered (06 R175). -/
def State.loadReport (s : State) (l : Load) (plan : Nat) (fs : List PlanFail) : State :=
  let head := s.reportHead plan fs
  let st := if fs.isEmpty then Code.done else Code.planMismatch
  let s1 := (s.writeMod none l.report (head ++ List.replicate 48 0 ++ (fs.take 16).flatMap PlanFail.bytes)).2
  let s2 := s1.post { status := st, inj := false, src := srcCode 4 0 0 23, step := 0xFFFFFFFF, layer := plan, cycle := s.cycle, addr := 0,
                      detail := leBytes 1 ((fs.head?.map (·.code)).getD 0) ++ leBytes 1 0 ++ leBytes 2 (min fs.length 0xFFFF) }
  s2.deferDone l.ep l.seq st head

/-- Strobe groups of the dies whose multicast tables an image rewrites (17 Table 17-3). -/
def State.mcastGroups (s : State) (secs : List PlanSec) : List Nat :=
  (([0, 1].filter (fun d => (mcastOf secs d).isSome)).map (fun d => fieldOf (s.reg .pmX (0xA00 + 4 * (256 + d))) 5 0)).eraseDups

/-- A register write of the loader. -/
def State.loadReg (s : State) (b : Blk) (o v : Nat) : State := s.regWrite .mgmt b o (BitVec.ofNat 32 v)

/-- The MCAST section of a die in the pending copies of TR_MCG[1] to TR_MCG[63]. -/
def State.loadMcast (s : State) (x : PlanSec) : State :=
  (List.range 504).foldl (fun s k =>
    s.loadReg (.tr ⟨x.die % 2, Nat.mod_lt _ (by decide)⟩) (0x820 + 4 * k) (fieldAt x.data (4 * k) 4)) s

/-- A section copied into a sett: lines it fills from aligned lines of an image in HBM become clean (07 R195). -/
def State.loadSection (s : State) (u : SettId) (image : Nat) (x : PlanSec) : State :=
  if x.type = 4 then s.modSett u (fun t => t.putWab x.dest x.data)
  else
    let s1 := s.modSett u (fun t => t.putStore x.dest x.data)
    if inHbm (image + x.src) x.len then
      s1.markClean (cleanLines ((rowBursts (image + x.src) x.dest x.len).map (fun b => ⟨0, u, b.dst, some b.src, b.n⟩)))
    else s1

/-- Steps 2 to 5 of 04 R130 for a sett, from its START block (06 R176 step 3). -/
def State.loadSett (s : State) (image : Nat) (p : PlanSett) : State :=
  let sq : Blk := .sq p.u
  let te : Blk := .te p.u
  let s1 := (s.loadReg sq 0x10 (p.word 0)).loadReg sq 0x14 (p.word 1)
  let s2 := p.secs.foldl (fun s x => s.loadSection p.u image x) s1
  let s3 := (((s2.loadReg sq 0x0C (p.word 2)).loadReg sq 0x18 (p.word 3)).loadReg sq 0x08 (p.word 4)).loadReg sq 0x2C (p.word 5)
  let s4 := (List.range 16).foldl (fun s n => s.loadReg sq (0x100 + 4 * n) (p.word (8 + n))) s3
  let s5 := (List.range 8).foldl (fun s n => s.loadReg sq (0x180 + 4 * n) (p.word (24 + n))) s4
  let s6 := (List.range 32).foldl (fun s n => s.loadReg sq (0x200 + 4 * n) (p.word (32 + n))) s5
  ((s6.loadReg te 0x20 (p.word 6)).loadReg te 0x24 (p.word 7)).loadReg te 0x00 1

/-- What the loader does once every check has passed, but for the report (06 R176). -/
def State.loadPlan (s : State) (image : Nat) (secs : List PlanSec) (ps : List PlanSett) : State :=
  let s1 := (secs.filter (fun x => x.type == 7)).foldl (fun s x => (s.writeMod none x.dest x.data).2) s
  let s2 := (secs.filter (fun x => x.type == 6)).foldl State.loadMcast s1
  let s3 := (s1.mcastGroups secs).foldl State.fire s2
  let s4 := ps.foldl (fun s p => s.loadSett image p) s3
  ps.foldl (fun s p => s.loadReg (.sq p.u) 0x00 1) s4

/-- A load whose own memory access fails (07 R186, R199) ends with that status: nothing is written, one record is made (log entry 57). -/
def State.loadLost (s : State) (l : Load) (status : Status) : State :=
  (s.post { status := status, inj := false, src := srcCode 4 0 0 23, step := 0xFFFFFFFF, layer := 0, cycle := s.cycle, addr := 0,
            detail := [] }).deferDone l.ep l.seq status []

/-- LOADER_RUN (06 R171 to R177): the load in progress is checked, carried out and reported. A load that must fire a strobe group
waits while the group is busy (17 R405). -/
def execLoaderRun (s : State) : Result :=
  .next (match s.load with
    | none => s
    | some l =>
      match l.flt with
      | some c => { s with load := none }.loadLost l c
      | none =>
      let (h, secs, ps, fs) := s.planChecks l.image
      let plan := fieldAt h 16 4
      let s0 := { s with load := none }
      if !fs.isEmpty then s0.loadReport l plan fs
      else if (s.mcastGroups secs).any (fun g => bitOf s.stbBusy g) then s
      else (s0.loadPlan l.image secs ps).loadReport l plan [])

end Sys2Proof.Machine
end

