-- ==== Sys2Proof/Machine/Dispatch.lean ====
section
/-!
DEFINITION. One arm per command of the block.
-/
namespace Sys2Proof.Machine

def exec (i : Instr) (s : State) : Host.Outcome State Fault Refusal :=
  match i with
  | .nop u => Sys2Proof.Machine.execNop u s
  | .halt u => Sys2Proof.Machine.execHalt u s
  | .li u d imm => Sys2Proof.Machine.execLi u d imm s
  | .alu u d a b fn => Sys2Proof.Machine.execAlu u d a b fn s
  | .alui u d a imm fn => Sys2Proof.Machine.execAlui u d a imm fn s
  | .ldct u d bc bz off => Sys2Proof.Machine.execLdct u d bc bz off s
  | .stct u src bc bz off => Sys2Proof.Machine.execStct u src bc bz off s
  | .setcmp u k img => Sys2Proof.Machine.execSetcmp u k img s
  | .br u k always tgt => Sys2Proof.Machine.execBr u k always tgt s
  | .loop u ci ctr endIx imm => Sys2Proof.Machine.execLoop u ci ctr endIx imm s
  | .waits u sg peek cs ctr amt => Sys2Proof.Machine.execWaits u sg peek cs ctr amt s
  | .waitsSatisfied u => Sys2Proof.Machine.execWaitsSatisfied u s
  | .tag u t => Sys2Proof.Machine.execTag u t s
  | .regn u id => Sys2Proof.Machine.execRegn u id s
  | .rend u id => Sys2Proof.Machine.execRend u id s
  | .rendDrainEnd u => Sys2Proof.Machine.execRendDrainEnd u s
  | .evlog u code lf layer => Sys2Proof.Machine.execEvlog u code lf layer s
  | .setstep u ctr => Sys2Proof.Machine.execSetstep u ctr s
  | .engineAbsent u eng op h low => Sys2Proof.Machine.execEngineAbsent u eng op h low s
  | .invalidWordDecode u w => Sys2Proof.Machine.execInvalidWordDecode u w s
  | .queueFullStall u eng n => Sys2Proof.Machine.execQueueFullStall u eng n s
  | .commandStart u eng => Sys2Proof.Machine.execCommandStart u eng s
  | .commandCompletion u eng n => Sys2Proof.Machine.execCommandCompletion u eng n s
  | .mma u h da db tile str res kc => Sys2Proof.Machine.execMma u h da db tile str res kc s
  | .cvt u h dd mode given tile => Sys2Proof.Machine.execCvt u h dd mode given tile s
  | .rload u h db kc => Sys2Proof.Machine.execRload u h db kc s
  | .rdrop u h => Sys2Proof.Machine.execRdrop u h s
  | .discard u => Sys2Proof.Machine.execDiscard u s
  | .vadd u h strict dd ds1 ds2 given => Sys2Proof.Machine.execVadd u h strict dd ds1 ds2 given s
  | .vsub u h strict dd ds1 ds2 given => Sys2Proof.Machine.execVsub u h strict dd ds1 ds2 given s
  | .vmul u h strict dd ds1 ds2 given => Sys2Proof.Machine.execVmul u h strict dd ds1 ds2 given s
  | .vfma u h strict dd ds1 ds2 given => Sys2Proof.Machine.execVfma u h strict dd ds1 ds2 given s
  | .vmax u h strict dd ds1 ds2 given => Sys2Proof.Machine.execVmax u h strict dd ds1 ds2 given s
  | .vmin u h strict dd ds1 ds2 given => Sys2Proof.Machine.execVmin u h strict dd ds1 ds2 given s
  | .vabs u h strict dd ds1 given => Sys2Proof.Machine.execVabs u h strict dd ds1 given s
  | .vneg u h strict dd ds1 given => Sys2Proof.Machine.execVneg u h strict dd ds1 given s
  | .vcpy u h strict dd ds1 given => Sys2Proof.Machine.execVcpy u h strict dd ds1 given s
  | .vfn u h strict dd ds1 tab given => Sys2Proof.Machine.execVfn u h strict dd ds1 tab given s
  | .vdfn u h strict dd ds1 tab given => Sys2Proof.Machine.execVdfn u h strict dd ds1 tab given s
  | .vrsum u h strict dd ds1 given => Sys2Proof.Machine.execVrsum u h strict dd ds1 given s
  | .vrmax u h strict dd ds1 given => Sys2Proof.Machine.execVrmax u h strict dd ds1 given s
  | .vrssq u h strict dd ds1 given => Sys2Proof.Machine.execVrssq u h strict dd ds1 given s
  | .vamax u h strict dd ds1 given => Sys2Proof.Machine.execVamax u h strict dd ds1 given s
  | .vdiv u h strict dd ds1 ds2 given => Sys2Proof.Machine.execVdiv u h strict dd ds1 ds2 given s
  | .vsqrt u h strict dd ds1 given => Sys2Proof.Machine.execVsqrt u h strict dd ds1 given s
  | .vrecipeDelayed u h strict dd ds1 given => Sys2Proof.Machine.execVrecipeDelayed u h strict dd ds1 given s
  | .vrecipeCurrent u h strict dd ds1 given => Sys2Proof.Machine.execVrecipeCurrent u h strict dd ds1 given s
  | .vrecipeCheck u h strict dd ds1 given => Sys2Proof.Machine.execVrecipeCheck u h strict dd ds1 given s
  | .vrecipeLoss u h strict dd ds1 given => Sys2Proof.Machine.execVrecipeLoss u h strict dd ds1 given s
  | .stash u h ds entry codec => Sys2Proof.Machine.execStash u h ds entry codec s
  | .stashPlacement u flt => Sys2Proof.Machine.execStashPlacement u flt s
  | .unstash u h dd entry => Sys2Proof.Machine.execUnstash u h dd entry s
  | .sfree u h entry => Sys2Proof.Machine.execSfree u h entry s
  | .dstart u c h prog pe pc => Sys2Proof.Machine.execDstart u c h prog pe pc s
  | .kvmap u h sqc tc nc dl pin => Sys2Proof.Machine.execKvmap u h sqc tc nc dl pin s
  | .kvappend u h sqc tc nc dl => Sys2Proof.Machine.execKvappend u h sqc tc nc dl s
  | .kvunpin u h dl => Sys2Proof.Machine.execKvunpin u h dl s
  | .kvcow u h sqc tc => Sys2Proof.Machine.execKvcow u h sqc tc s
  | .kvfree u h sqc tc nc => Sys2Proof.Machine.execKvfree u h sqc tc nc s
  | .kvshare u h sqc nc ssc => Sys2Proof.Machine.execKvshare u h sqc nc ssc s
  | .kvPageMoveDone page flt => Sys2Proof.Machine.execKvPageMoveDone page flt s
  | .tsig u h die sett mg tsg inc => Sys2Proof.Machine.execTsig u h die sett mg tsg inc s
  | .trestleSignalPacket u sg inc => Sys2Proof.Machine.execTrestleSignalPacket u sg inc s
  | .hcmd u h dh => Sys2Proof.Machine.execHcmd u h dh s
  | .norm => Sys2Proof.Machine.execNorm s
  | .update => Sys2Proof.Machine.execUpdate s
  | .gradsum => Sys2Proof.Machine.execGradsum s
  | .copy => Sys2Proof.Machine.execCopy s
  | .reduce => Sys2Proof.Machine.execReduce s
  | .fill => Sys2Proof.Machine.execFill s
  | .boxg => Sys2Proof.Machine.execBoxg s
  | .ckout => Sys2Proof.Machine.execCkout s
  | .ckin => Sys2Proof.Machine.execCkin s
  | .scomp => Sys2Proof.Machine.execScomp s
  | .holtCompletionStep => Sys2Proof.Machine.execHoltCompletionStep s
  | .multicastDelivery u c m fail => Sys2Proof.Machine.execMulticastDelivery u c m fail s
  | .parityRereadDone u ok n => Sys2Proof.Machine.execParityRereadDone u ok n s
  | .cleanLineRefetchDone u ok n => Sys2Proof.Machine.execCleanLineRefetchDone u ok n s
  | .refetchTimeout u => Sys2Proof.Machine.execRefetchTimeout u s
  | .linkFlitReceived l fails v => Sys2Proof.Machine.execLinkFlitReceived l fails v s
  | .hbmAccessComplete a wr holt h v => Sys2Proof.Machine.execHbmAccessComplete a wr holt h v s
  | .burrowAccessComplete a wr ce fails v => Sys2Proof.Machine.execBurrowAccessComplete a wr ce fails v s
  | .hbmRefresh die ctl => Sys2Proof.Machine.execHbmRefresh die ctl s
  | .watchdogExpiry u => Sys2Proof.Machine.execWatchdogExpiry u s
  | .countBreak u => Sys2Proof.Machine.execCountBreak u s
  | .go u => Sys2Proof.Machine.execGo u s
  | .break u => Sys2Proof.Machine.execBreak u s
  | .resume u => Sys2Proof.Machine.execResume u s
  | .step u => Sys2Proof.Machine.execStep u s
  | .abort u => Sys2Proof.Machine.execAbort u s
  | .move c w0 w1 w2 w3 => Sys2Proof.Machine.execMove c w0 w1 w2 w3 s
  | .lmove c w0 w1 w2 w3 => Sys2Proof.Machine.execLmove c w0 w1 w2 w3 s
  | .dmaLoop c w => Sys2Proof.Machine.execDmaLoop c w s
  | .endloop c w => Sys2Proof.Machine.execEndloop c w s
  | .dmaWait c w => Sys2Proof.Machine.execDmaWait c w s
  | .dmaWaitSatisfied c => Sys2Proof.Machine.execDmaWaitSatisfied c s
  | .signal c w => Sys2Proof.Machine.execSignal c w s
  | .dmaHalt c w => Sys2Proof.Machine.execDmaHalt c w s
  | .dmaFenceDone c => Sys2Proof.Machine.execDmaFenceDone c s
  | .burstBusErr c i1 readSide => Sys2Proof.Machine.execBurstBusErr c i1 readSide s
  | .dmaChannelStart c r => Sys2Proof.Machine.execDmaChannelStart c r s
  | .dmaChannelAbort c => Sys2Proof.Machine.execDmaChannelAbort c s
  | .dmaAbortDrained c kept => Sys2Proof.Machine.execDmaAbortDrained c kept s
  | .trGtInv d all g => Sys2Proof.Machine.execTrGtInv d all g s
  | .gtInvDrained d => Sys2Proof.Machine.execGtInvDrained d s
  | .sePoolInit d p => Sys2Proof.Machine.execSePoolInit d p s
  | .minclr d p => Sys2Proof.Machine.execMinclr d p s
  | .kvInit => Sys2Proof.Machine.execKvInit s
  | .labinv u => Sys2Proof.Machine.execLabinv u s
  | .rxFrame p f => Sys2Proof.Machine.execRxFrame p f s
  | .pfcFrameReceived en q => Sys2Proof.Machine.execPfcFrameReceived en q s
  | .pfcPauseExpiry p => Sys2Proof.Machine.execPfcPauseExpiry p s
  | .pfcXoffRepeat p => Sys2Proof.Machine.execPfcXoffRepeat p s
  | .rdmaWriteInbound q rkey va data => Sys2Proof.Machine.execRdmaWriteInbound q rkey va data s
  | .rdmaReadInbound q rkey va n => Sys2Proof.Machine.execRdmaReadInbound q rkey va n s
  | .sendInbound q data => Sys2Proof.Machine.execSendInbound q data s
  | .roceAckReceived q nak data => Sys2Proof.Machine.execRoceAckReceived q nak data s
  | .qpAckTimeout q => Sys2Proof.Machine.execQpAckTimeout q s
  | .cnpReceived q => Sys2Proof.Machine.execCnpReceived q s
  | .rateRecovery q => Sys2Proof.Machine.execRateRecovery q s
  | .smSemRead n r => Sys2Proof.Machine.execSmSemRead n r s
  | .smSemWrite n r v => Sys2Proof.Machine.execSmSemWrite n r v s
  | .smForce n => Sys2Proof.Machine.execSmForce n s
  | .injGlobalAllow v => Sys2Proof.Machine.execInjGlobalAllow v s
  | .supplyWarning => Sys2Proof.Machine.execSupplyWarning s
  | .supplyWarningClear => Sys2Proof.Machine.execSupplyWarningClear s
  | .supplyReset => Sys2Proof.Machine.execSupplyReset s
  | .overVoltageReset => Sys2Proof.Machine.execOverVoltageReset s
  | .memoryHoldLoss => Sys2Proof.Machine.execMemoryHoldLoss s
  | .powerOnReset => Sys2Proof.Machine.execPowerOnReset s
  | .resetN low => Sys2Proof.Machine.execResetN low s
  | .resetRelease => Sys2Proof.Machine.execResetRelease s
  | .pmRstCtl key => Sys2Proof.Machine.execPmRstCtl key s
  | .softwareReset => Sys2Proof.Machine.execSoftwareReset s
  | .powerMeasurement w vin => Sys2Proof.Machine.execPowerMeasurement w vin s
  | .powerLoopTick avg t => Sys2Proof.Machine.execPowerLoopTick avg t s
  | .thermalTrip => Sys2Proof.Machine.execThermalTrip s
  | .railSettled d => Sys2Proof.Machine.execRailSettled d s
  | .waitsup => Sys2Proof.Machine.execWaitsup s
  | .verify errA errB => Sys2Proof.Machine.execVerify errA errB s
  | .scCtlBoot => Sys2Proof.Machine.execScCtlBoot s
  | .scCtlUnlock => Sys2Proof.Machine.execScCtlUnlock s
  | .scRbBump r k key => Sys2Proof.Machine.execScRbBump r k key s
  | .scExtCtl r t => Sys2Proof.Machine.execScExtCtl r t s
  | .jtagInstruction i1 => Sys2Proof.Machine.execJtagInstruction i1 s
  | .thermalLimit d => Sys2Proof.Machine.execThermalLimit d s
  | .counterAdvanceDone => Sys2Proof.Machine.execCounterAdvanceDone s
  | .sePoolInitDone d p => Sys2Proof.Machine.execSePoolInitDone d p s
  | .kvInitDone => Sys2Proof.Machine.execKvInitDone s
  | .holtSubCommandEnd h x => Sys2Proof.Machine.execHoltSubCommandEnd h x s
  | .ethernetLinkUp p up => Sys2Proof.Machine.execEthernetLinkUp p up s
  | .rxBufferOccupancyFall p occ => Sys2Proof.Machine.execRxBufferOccupancyFall p occ s
  | .viaductFlitReceived p bytes => Sys2Proof.Machine.execViaductFlitReceived p bytes s
  | .viaductPortTrain p tx rx c0 c1 c2 => Sys2Proof.Machine.execViaductPortTrain p tx rx c0 c1 c2 s
  | .viaductPortDown p => Sys2Proof.Machine.execViaductPortDown p s
  | .wqTailPoll q => Sys2Proof.Machine.execWqTailPoll q s
  | .write m => Sys2Proof.Machine.execWrite m s
  | .contrib m => Sys2Proof.Machine.execContrib m s
  | .arm q => Sys2Proof.Machine.execArm q s
  | .writeReceived => Sys2Proof.Machine.execWriteReceived s
  | .wqEntryComplete q k status => Sys2Proof.Machine.execWqEntryComplete q k status s
  | .contribOpen => Sys2Proof.Machine.execContribOpen s
  | .contribComplete => Sys2Proof.Machine.execContribComplete s
  | .gateDeadline g => Sys2Proof.Machine.execGateDeadline g s
  | .gateGraceLimit g => Sys2Proof.Machine.execGateGraceLimit g s
  | .gateReductionDone g flt => Sys2Proof.Machine.execGateReductionDone g flt s
  | .inSubTail v => Sys2Proof.Machine.execInSubTail v s
  | .sampleDispatch => Sys2Proof.Machine.execSampleDispatch s
  | .sampleComplete c far flt wflt => Sys2Proof.Machine.execSampleComplete c far flt wflt s
  | .slotCopyDone c flt => Sys2Proof.Machine.execSlotCopyDone c flt s
  | .flush => Sys2Proof.Machine.execFlush s
  | .batchClose flt => Sys2Proof.Machine.execBatchClose flt s
  | .consPoll => Sys2Proof.Machine.execConsPoll s
  | .intakeEn en => Sys2Proof.Machine.execIntakeEn en s
  | .ctNop ep q => Sys2Proof.Machine.execCtNop ep q s
  | .regRead ep q => Sys2Proof.Machine.execRegRead ep q s
  | .regWrite ep q => Sys2Proof.Machine.execRegWrite ep q s
  | .memRead ep q => Sys2Proof.Machine.execMemRead ep q s
  | .memWrite ep q => Sys2Proof.Machine.execMemWrite ep q s
  | .loadPlan ep q => Sys2Proof.Machine.execLoadPlan ep q s
  | .loaderRun => Sys2Proof.Machine.execLoaderRun s
  | .holt r q => Sys2Proof.Machine.execHolt r q s
  | .dmaStart ep q => Sys2Proof.Machine.execDmaStart ep q s
  | .attest ep q => Sys2Proof.Machine.execAttest ep q s
  | .attestReportDone => Sys2Proof.Machine.execAttestReportDone s
  | .qpModify ep q => Sys2Proof.Machine.execQpModify ep q s
  | .qpQuery ep q => Sys2Proof.Machine.execQpQuery ep q s
  | .notifySet ep q => Sys2Proof.Machine.execNotifySet ep q s
  | .resultRead ep q => Sys2Proof.Machine.execResultRead ep q s
  | .retire ep q => Sys2Proof.Machine.execRetire ep q s
  | .resync ep q => Sys2Proof.Machine.execResync ep q s
  | .immediateDeferral ep seq => Sys2Proof.Machine.execImmediateDeferral ep seq s
  | .eventRecordArrival src => Sys2Proof.Machine.execEventRecordArrival src s
  | .eventRecordWritten ok => Sys2Proof.Machine.execEventRecordWritten ok s
  | .registerWrite r a v => Sys2Proof.Machine.execRegisterWrite r a v s
  | .aliasSet r a v => Sys2Proof.Machine.execAliasSet r a v s
  | .aliasClear r a v => Sys2Proof.Machine.execAliasClear r a v s
  | .aliasToggle r a v => Sys2Proof.Machine.execAliasToggle r a v s
  | .registerAccessAccepted r => Sys2Proof.Machine.execRegisterAccessAccepted r s
  | .registerAccessTimeout r => Sys2Proof.Machine.execRegisterAccessTimeout r s
  | .pmStbFire m => Sys2Proof.Machine.execPmStbFire m s
  | .heldStrobeFire g => Sys2Proof.Machine.execHeldStrobeFire g s
  | .configScrub a ups => Sys2Proof.Machine.execConfigScrub a ups s
  | .ftCfgpClr u => Sys2Proof.Machine.execFtCfgpClr u s
  | .injCtl a p v => Sys2Proof.Machine.execInjCtl a p v s

end Sys2Proof.Machine
end

