-- ==== Sys2Proof/Safety.lean ====
section
/-!
DEFINITION. What the model's claims call a good state, and the commands they speak of together.
-/
namespace Sys2Proof

/-- The sett, the engine, the predicate and signal fields and the descriptors of an engine command (05 Tables 05-4 to 05-7). -/
def Instr.engine? : Instr → Option (Sett × BitVec 4 × Hdr × List (BitVec 14))
  | .mma u h da db _ _ _ _ => some (u, 1, h, [da, db])
  | .cvt u h dd _ _ _ => some (u, 1, h, [dd])
  | .rload u h db _ => some (u, 1, h, [db])
  | .rdrop u h => some (u, 1, h, [])
  | .vadd u h _ dd a b _ => some (u, 2, h, [dd, a, b])
  | .vsub u h _ dd a b _ => some (u, 2, h, [dd, a, b])
  | .vmul u h _ dd a b _ => some (u, 2, h, [dd, a, b])
  | .vfma u h _ dd a b _ => some (u, 2, h, [dd, a, b])
  | .vmax u h _ dd a b _ => some (u, 2, h, [dd, a, b])
  | .vmin u h _ dd a b _ => some (u, 2, h, [dd, a, b])
  | .vdiv u h _ dd a b _ => some (u, 2, h, [dd, a, b])
  | .vabs u h _ dd a _ => some (u, 2, h, [dd, a])
  | .vneg u h _ dd a _ => some (u, 2, h, [dd, a])
  | .vcpy u h _ dd a _ => some (u, 2, h, [dd, a])
  | .vsqrt u h _ dd a _ => some (u, 2, h, [dd, a])
  | .vfn u h _ dd a _ _ => some (u, 2, h, [dd, a])
  | .vdfn u h _ dd a _ _ => some (u, 2, h, [dd, a])
  | .vrsum u h _ dd a _ => some (u, 2, h, [dd, a])
  | .vrmax u h _ dd a _ => some (u, 2, h, [dd, a])
  | .vrssq u h _ dd a _ => some (u, 2, h, [dd, a])
  | .vamax u h _ dd a _ => some (u, 2, h, [dd, a])
  | .vrecipeDelayed u h _ dd a _ => some (u, 2, h, [dd, a])
  | .vrecipeCurrent u h _ dd a _ => some (u, 2, h, [dd, a])
  | .vrecipeCheck u h _ dd a _ => some (u, 2, h, [dd, a])
  | .vrecipeLoss u h _ dd a _ => some (u, 2, h, [dd, a])
  | .stash u h ds _ _ => some (u, 3, h, [ds])
  | .unstash u h dd _ => some (u, 3, h, [dd])
  | .sfree u h _ => some (u, 3, h, [])
  | .dstart u c h _ _ _ => some (u, BitVec.ofNat 4 (4 + c.val), h, [])
  | .kvmap u h _ _ _ _ _ => some (u, 8, h, [])
  | .kvappend u h _ _ _ _ => some (u, 8, h, [])
  | .kvunpin u h _ => some (u, 8, h, [])
  | .kvcow u h _ _ => some (u, 8, h, [])
  | .kvfree u h _ _ _ => some (u, 8, h, [])
  | .kvshare u h _ _ _ => some (u, 8, h, [])
  | .tsig u h _ _ _ _ _ => some (u, 9, h, [])
  | .hcmd u h _ => some (u, 9, h, [])
  | _ => none

/-- The sett of a word that the sequencer itself carries out or refuses (05 Table 05-2, R133). -/
def Instr.local? : Instr → Option Sett
  | .nop u => some u
  | .halt u => some u
  | .li u _ _ => some u
  | .alu u _ _ _ _ => some u
  | .alui u _ _ _ _ => some u
  | .ldct u _ _ _ _ => some u
  | .stct u _ _ _ _ => some u
  | .setcmp u _ _ => some u
  | .br u _ _ _ => some u
  | .loop u _ _ _ _ => some u
  | .waits u _ _ _ _ _ => some u
  | .tag u _ => some u
  | .regn u _ => some u
  | .rend u _ => some u
  | .evlog u _ _ _ => some u
  | .setstep u _ => some u
  | .engineAbsent u _ _ _ _ => some u
  | _ => none

/-- The sett on which a command is an instruction word. -/
def Instr.sett? (i : Instr) : Option Sett :=
  match i.engine? with
  | some (u, _) => some u
  | none => i.local?

end Sys2Proof

namespace Sys2Proof.Machine

/-- The sett's memories are in canonical form. -/
def SettSt.memOk (t : SettSt) : Bool := t.store.wf && t.wab.wf

/-- Every memory of the module is in canonical form. -/
def State.memOk (s : State) : Bool :=
  s.hbm.wf && s.burrow.wf && s.remote.wf && s.flash.wf && s.sram.wf && s.setts.toList.all SettSt.memOk

/-- The sett can issue the word at SQ_PC: it runs, nothing holds issue, no break is due or asked for, SQ_PC lies in the
instruction region, and no word has bad parity or may be injected (04 R101, R102, R109, R113, R129). -/
def State.canIssue (s : State) (u : SettId) : Bool :=
  (s.sett u).issuing && !s.countDue u && decide ((s.sett u).pc < s.regionWords u) && !s.mayMismatch u && !(s.sett u).stepReq

/-- The gate that a STASH passes before it issues (05 R152); other commands have none. -/
def State.gateOpen (s : State) : Instr → Bool
  | .stash u _ ds _ _ => s.stashGate u ds
  | _ => true

/-- A command as an engine's queue holds it: with the counters, the extents and the step at its issue (05 R134, R135; 06 R168). -/
def State.captured (s : State) (u : SettId) (h : Hdr) (ds : List (BitVec 14)) (i : Instr) : QCmd :=
  let t := s.sett u
  { cmd := i, hdr := h, index := t.pc, issue := t.cyc, epoch := t.epoch, ct := t.ct.toList,
    descs := ds, ext := ds.map (fun f => (t.desc f).capture t), step := t.step }

/-- What the issue of an engine command does to its sett apart from the queue (04 Table 04-1, R103). -/
def SettSt.issued (t : SettSt) : SettSt := SettSt.spend { t.advance with cmdCnt := satAdd t.cmdCnt 1 } 1

/-- H after a request: the sequence number that the window ends at (15 R358). -/
def State.newHigh (s : State) (ep : Fin 2) (q : Req) : Nat :=
  match (s.eps[ep.val]).high with
  | none => q.seq.toNat
  | some h => if 0 < signedOf 32 (q.seq.toNat + 2 ^ 32 - h) then q.seq.toNat else h

/-- A well-formed request of the present epoch that an answering endpoint takes as new, with room for it (15 R356, R358, R364). -/
def State.accepts (s : State) (ep : Fin 2) (q : Req) : Bool :=
  s.ctOn ep && !s.stranger ep q.src.toNat && !s.cfgBad (portBlk ep) && reqFit q &&
  decide (q.epoch.toNat = (s.eps[ep.val]).epoch) &&
  (match (s.eps[ep.val]).high with
    | none => true
    | some h =>
      decide (0 < signedOf 32 (q.seq.toNat + 2 ^ 32 - h)) ||
      (decide (-2048 < signedOf 32 (q.seq.toNat + 2 ^ 32 - h)) &&
        ((s.eps[ep.val]).win.find? (fun w => w.seq == q.seq.toNat)).isNone)) &&
  decide (s.inFlight ep < 2048) && (s.flying ep).all (inWindow q.seq.toNat)

/-- An unwindowed request that an endpoint takes (15 R357, R359). -/
def State.takes (s : State) (ep : Fin 2) (q : Req) : Bool :=
  s.ctOn ep && !s.stranger ep q.src.toNat && !s.cfgBad (portBlk ep) && reqFit q && decide (q.seq = 0) && decide (q.epoch.toNat = (s.eps[ep.val]).epoch)

/-- The response of an endpoint to a request (15 Table 15-2). -/
def State.reply (s : State) (ep : Fin 2) (op : Nat) (q : Req) (status : Status) (data : List Byte) (flags : Nat) : Resp :=
  { opcode := op, epoch := (s.eps[ep.val]).epoch, seq := q.seq.toNat, status := status, orig := 0, flags := flags, addr := none,
    arg := q.arg.toNat, cycle := s.cycle, data := data }

/-- Between two states the module has sent one frame of a port, and no other: it has left, or it waits for its paused priority (15 R355,
R372, R373). -/
def State.sends (s t : State) (p : Fin 2) (to_ : Nat × Nat) (body : EthBody) : Prop :=
  ∃ f : EthFrame, f.port = p ∧ (f.dip, f.dport) = to_ ∧ f.body = body ∧
    ((t.tx = s.tx ++ [.eth f] ∧ t.txWait = s.txWait) ∨ (p = 0 ∧ t.tx = s.tx ∧ t.txWait = s.txWait ++ [f]))

/-- Between two states the module has sent nothing. -/
def State.sendsNothing (s t : State) : Prop := t.tx = s.tx ∧ t.txWait = s.txWait

/-- Does a range lie wholly in HBM or wholly in the Burrow? -/
def nearMem (a n : Nat) : Prop := a + n ≤ hbmSize ∨ (burrowBase ≤ a ∧ a + n ≤ 0x20000000000)

end Sys2Proof.Machine
end

