-- ==== Sys2Proof/Certificates/Slice0/Obligations.lean ====
section
/-!
DEFINITION. The statements for the provers.
-/
open Sys2Proof Sys2Proof.Machine

/-- A step with a command in front of the queue is that command's effect on the state with the queue's rest; on an empty queue it passes
one cycle of the module and changes nothing else (the second clause is the model's choice, log entry 2). -/
def Obligations.StepTakesFrontCommand : Prop :=
  (∀ (s : State) (c : Instr) (rest : List Instr), s.pending = c :: rest → step s = exec c { s with pending := rest }) ∧
  (∀ s : State, s.pending = [] → step s = .next { s with cycle := s.cycle + 1 })

/-- What reset leaves where the spec states it: setts IDLE with no loop, region, freeze or open tile, counters and signal
counters 0 (04 Tables 04-7 to 04-13, R114), DM_CH_RETRY.MAX 4 (13 Table 13-3), endpoints of epoch 0 with an empty window
(15 R359), free semaphores (15 R366), the measurement all zero (18 R427), no injection permitted (17 Table 17-11). -/
def Obligations.ResetLeavesStatedValues : Prop :=
  (∀ u : SettId, State.reset.sett u = SettSt.reset) ∧
  SettSt.reset.st = .idle ∧ SettSt.reset.pc = 0 ∧ SettSt.reset.loops = [] ∧ SettSt.reset.region = none ∧
  SettSt.reset.freeze = none ∧ SettSt.reset.tiles = [] ∧ SettSt.reset.resident = none ∧ SettSt.reset.step = 0 ∧
  (∀ n : Fin 16, SettSt.reset.ct[n.val] = 0) ∧ (∀ n : Fin 32, SettSt.reset.sig[n.val] = 0) ∧
  (∀ k : Fin 4, (SettSt.reset.ch[k.val]).retryMax = 4 ∧ (SettSt.reset.ch[k.val]).st = .idle) ∧
  (∀ k : Fin 64, State.reset.xsig[k.val] = 0 ∧ (State.reset.xch[k.val]).st = .idle) ∧
  (∀ e : Fin 2, (State.reset.eps[e.val]).epoch = 0 ∧ (State.reset.eps[e.val]).high = none ∧ (State.reset.eps[e.val]).win = []) ∧
  (∀ n : Fin 32, State.reset.reg .sm (4 * n.val) = 0) ∧
  State.reset.sc.m = List.replicate 64 0 ∧ State.reset.sc.log = [] ∧ State.reset.reg .injX 0 = 0

/-- Every memory is in canonical form at reset. -/
def Obligations.ResetMemoryIsCanonical : Prop := State.reset.memOk = true

/-- Every step from a state whose memories are in canonical form leaves them so. -/
def Obligations.EveryStepKeepsMemoryCanonical : Prop :=
  ∀ s t : State, s.memOk = true → step s = .next t → t.memOk = true

/-- Decoding the word of a well-formed instruction gives the instruction, with every operand (05 R132 to R137). -/
def Obligations.DecodeOfEncodeIsTheInstruction : Prop :=
  ∀ (u : Sett) (i : Instr) (w : BitVec 64), i.sett? = some u → i.wf = true → encodeWord i = some w → decodeWord u w = some i

/-- A word that decodes is the word of one well-formed instruction of the sett: its own encoding but for PCMP and SIGN, which mean
nothing in a word of engine 0 (05 R132, R133, Table 05-1). -/
def Obligations.DecodedWordIsItsEncoding : Prop :=
  ∀ (u : Sett) (w : BitVec 64) (i : Instr), decodeWord u w = some i →
    i.sett? = some u ∧ i.wf = true ∧ encodeWord i = some (plainWord w) ∧
    (w.extractLsb' 60 4 ≠ 0#4 → plainWord w = w)

/-- Counter, comparator and step instructions (05 R142, Tables 05-2, 05-3): the effect of each on its sett, and
nothing else; the functions of ALU and ALUI; a counter written in the cycle of a host write to it holds the instruction's value
(04 R116; that the instruction has read the value from before is the model's reading, log entry 15). -/
def Obligations.CounterInstructionsTakeEffect : Prop :=
  ∀ (s : State) (u : Sett), s.canIssue u = true →
    exec (.nop u) s = .next (s.modSett u (fun t => t.advance.spend 1)) ∧
    (∀ (d : BitVec 4) (imm : BitVec 32),
      exec (.li u d imm) s = .next (s.modSett u (fun t => ((t.insCt d (fun _ => imm)).advance).spend 1))) ∧
    (∀ d a b fn : BitVec 4, fn.toNat ≤ 10 →
      exec (.alu u d a b fn) s =
        .next (s.modSett u (fun t => ((t.insCt d (fun t => aluFn fn (t.getCt a) (t.getCt b))).advance).spend 1))) ∧
    (∀ (d a : BitVec 4) (imm : BitVec 16) (fn : BitVec 4), fn.toNat ≤ 10 →
      exec (.alui u d a imm fn) s =
        .next (s.modSett u (fun t => ((t.insCt d (fun t => aluFn fn (t.getCt a) (imm.signExtend 32))).advance).spend 1))) ∧
    (∀ (k : BitVec 3) (img : BitVec 32), img &&& 0xF0#32 = 0#32 →
      exec (.setcmp u k img) s =
        .next (s.modSett u (fun t => (SettSt.advance { t with cmp := t.cmp.set k.toNat img }).spend 1))) ∧
    (∀ c : BitVec 4,
      exec (.setstep u c) s = .next (s.modSett u (fun t => (SettSt.advance { t with step := t.getCt c }).spend 1))) ∧
    (∀ a b : Word,
      aluFn 0 a b = a + b ∧ aluFn 1 a b = a - b ∧ aluFn 2 a b = a * b ∧ aluFn 3 a b = a &&& b ∧ aluFn 4 a b = a ||| b ∧
      aluFn 5 a b = a ^^^ b ∧ aluFn 6 a b = a <<< (b.toNat % 32) ∧ aluFn 7 a b = a >>> (b.toNat % 32) ∧
      aluFn 8 a b = a.sshiftRight (b.toNat % 32) ∧ (aluFn 9 a b).toNat = min a.toNat b.toNat ∧
      (aluFn 10 a b).toNat = max a.toNat b.toNat) ∧
    (∀ (t : SettSt) (d : BitVec 4) (f : SettSt → Word),
      (t.hostWr = none → t.insCt d f = t.putCt d (f t)) ∧
      (∀ old, t.hostWr = some (d, t.cyc, old, true) → t.loops.any (fun l => !l.imm && l.src == d) = false →
        let t0 := { t with ct := t.ct.set d.toNat old, hostWr := none, sticky := t.sticky ||| 0x1000 }
        t.insCt d f = { t0 with ct := t0.ct.set d.toNat (f t0) }))

/-- A reserved field value of ALU, ALUI, SETCMP, WAITS, EVLOG, CVT or TSIG, and a word that does not decode, halt the sett with
PLAN_MISMATCH before they issue: the record names the instruction and its engine (05 R133). -/
def Obligations.ReservedFieldsHaltTheSett : Prop :=
  ∀ (s : State) (u : Sett), s.canIssue u = true →
    (∀ i : Instr, i.sett? = some u → i.wf = false → (∀ e o h l, i ≠ .engineAbsent u e o h l) →
      exec i s = .next (s.haltSett u Code.planMismatch
        (match i.engine? with
          | some (_, e, _) => e.toNat
          | none => 0) 2 (s.sett u).pc)) ∧
    (∀ w : BitVec 64, decodeWord u w = none →
      exec (.invalidWordDecode u w) s = .next (s.haltSett u Code.planMismatch (w.extractLsb' 60 4).toNat 2 (s.sett u).pc))

/-- Loops (04 R116, R118, R120, Table 04-1): after an instruction that falls through issue goes on, or back to the first instruction
of the innermost loop while iterations remain, and a loop that ends is left; a write to a counter that an active loop binds goes to
its shadow and sets the sticky bit, and the shadow is copied when the last level that binds the counter is left. -/
def Obligations.LoopsAdvanceAndBindCounters : Prop :=
  ∀ t : SettSt,
    (t.loops = [] → t.advance = { t with pc := (t.pc + 1) % 2 ^ 15 }) ∧
    (∀ l ls, t.loops = l :: ls → l.last ≠ t.pc → t.advance = { t with pc := (t.pc + 1) % 2 ^ 15 }) ∧
    (∀ l ls, t.loops = l :: ls → l.last = t.pc → 0 < l.remain →
      t.advance = { t with pc := l.first, loops := { l with remain := l.remain - 1 } :: ls }) ∧
    (∀ l ls, t.loops = l :: ls → l.last = t.pc → l.remain = 0 →
      t.advance = SettSt.exitLoop { t with pc := (t.pc + 1) % 2 ^ 15 }) ∧
    (∀ (n : BitVec 4) (v : Word),
      (t.loops.any (fun l => !l.imm && l.src == n) = false → t.putCt n v = { t with ct := t.ct.set n.toNat v }) ∧
      (t.loops.any (fun l => !l.imm && l.src == n) = true →
        t.putCt n v = { t with ctsh := t.ctsh.set n.toNat v, shpend := t.shpend ||| BitVec.ofNat 16 (2 ^ n.toNat),
                               sticky := t.sticky ||| 0x0800 })) ∧
    (∀ l ls, t.loops = l :: ls → l.imm = false → ls.any (fun x => !x.imm && x.src == l.src) = false →
      t.shpend.getLsbD l.src.toNat = true →
      t.exitLoop = { t with loops := ls, ct := t.ct.set l.src.toNat t.ctsh[l.src.toNat],
                            shpend := t.shpend &&& ~~~ BitVec.ofNat 16 (2 ^ l.src.toNat) }) ∧
    (∀ l ls, t.loops = l :: ls → (l.imm = true ∨ ls.any (fun x => !x.imm && x.src == l.src) = true ∨
      t.shpend.getLsbD l.src.toNat = false) → t.exitLoop = { t with loops := ls })

/-- LDCT and STCT (05 Table 05-2, R143): a word of the sett store into a counter or from one; ALIGN and BOUNDS, the latter also for a store
into the instruction region. -/
def Obligations.LdctAndStctReachTheStore : Prop :=
  ∀ (s : State) (u : Sett) (r bc : BitVec 4) (bz : Bool) (off : BitVec 20), s.canIssue u = true →
    let t := s.sett u
    let a := t.ctAddr bc bz off
    let lo := s.codeAddr u 0
    (a = (if bz then 0 else (t.getCt bc).toNat) + 4 * off.toNat) ∧
    (a % 4 = 0 → a < storeSize →
      exec (.ldct u r bc bz off) s =
        .next (s.modSett u (fun t => ((t.insCt r (fun t => BitVec.ofNat 32 (t.store.num a 4))).advance).spend 1))) ∧
    (a % 4 ≠ 0 → exec (.ldct u r bc bz off) s = .next (s.haltSett u Code.align 0 2 t.pc) ∧
      exec (.stct u r bc bz off) s = .next (s.haltSett u Code.align 0 2 t.pc)) ∧
    (a % 4 = 0 → storeSize ≤ a → exec (.ldct u r bc bz off) s = .next (s.haltSett u Code.bounds 0 2 t.pc)) ∧
    (a % 4 = 0 → (storeSize ≤ a ∨ (lo ≤ a ∧ a < lo + 8 * s.regionWords u)) →
      exec (.stct u r bc bz off) s = .next (s.haltSett u Code.bounds 0 2 t.pc)) ∧
    (a % 4 = 0 → a < storeSize → (a < lo ∨ lo + 8 * s.regionWords u ≤ a) →
      exec (.stct u r bc bz off) s =
        .next (s.modSett u (fun t => ((t.putStore a (leBytes 4 (t.getCt r).toNat)).advance).spend 1)))

/-- BR and LOOP (04 R118, R119; 05 R144, R145, Table 04-1): a branch taken leaves the loops that do not hold its target and costs
3 cycles, one not taken costs 1; LOOP latches its count, skips the body for 0 and faults on a bad body or a fifth level. -/
def Obligations.BranchAndLoopTakeEffect : Prop :=
  ∀ (s : State) (u : Sett), s.canIssue u = true →
    let t := s.sett u
    (∀ (k : BitVec 3) (always : Bool) (tgt : BitVec 15), (always || t.cmpHolds k) = true →
      exec (.br u k always tgt) s =
        .next (s.modSett u (fun t => { (t.leaveLoops 4 tgt.toNat).spend 3 with pc := tgt.toNat }))) ∧
    (∀ (k : BitVec 3) (always : Bool) (tgt : BitVec 15), (always || t.cmpHolds k) = false →
      exec (.br u k always tgt) s = .next (s.modSett u (fun t => t.advance.spend 1))) ∧
    (∀ (ci : Bool) (c : BitVec 4) (e : BitVec 15) (imm : BitVec 16),
      let n : Word := if ci then imm.setWidth 32 else t.getCt c
      let badEnd := (s.opAt u e.toNat).1 = 0 ∧ (s.opAt u e.toNat).2 ∈ [0x01, 0x08, 0x09, 0x0C, 0x0D]
      (e.toNat ≤ t.pc ∨ (∃ l ∈ t.loops, l.last ≤ e.toNat) ∨ badEnd →
        exec (.loop u ci c e imm) s = .next (s.haltSett u Code.planMismatch 0 2 t.pc)) ∧
      (t.pc < e.toNat → (∀ l ∈ t.loops, e.toNat < l.last) → ¬ badEnd →
        (4 ≤ t.loops.length → exec (.loop u ci c e imm) s = .next (s.haltSett u Code.bounds 0 2 t.pc)) ∧
        (t.loops.length < 4 → n = 0 →
          exec (.loop u ci c e imm) s = .next (s.modSett u (fun t => { t.spend 3 with pc := (e.toNat + 1) % 2 ^ 15 }))) ∧
        (t.loops.length < 4 → n ≠ 0 →
          exec (.loop u ci c e imm) s =
            .next (s.modSett u (fun x =>
              { x.spend 1 with pc := t.pc + 1, loops := ⟨n, n.toNat - 1, t.pc + 1, e.toNat, ci, c⟩ :: x.loops })))))

/-- WAITS and WAITS_SATISFIED (04 R113; 05 R146): a wait that its counter satisfies takes the amount (PEEK takes nothing) and goes
on; any other holds issue until the counter has reached the amount; an amount above 65,535 is BOUNDS. A WAITS does not yet see the
increment that an absent engine makes in its cycle (05 R158). -/
def Obligations.WaitsTakeOrHold : Prop :=
  ∀ (s : State) (u : Sett) (sg : BitVec 5) (peek : Bool),
    let t := s.sett u
    let old := t.sig[sg.toNat].toNat
    let seen := old - (if t.absSig = some (t.cyc, sg) then 1 else 0)
    (∀ (cs : Bool) (c : BitVec 4) (amt : BitVec 16), s.canIssue u = true → (cs = true ∨ amt ≠ 0) →
      let k := if cs then (t.getCt c).toNat else amt.toNat
      (65535 < k → exec (.waits u sg peek cs c amt) s = .next (s.haltSett u Code.bounds 0 2 t.pc)) ∧
      (k ≤ 65535 → k ≤ seen →
        exec (.waits u sg peek cs c amt) s = .next (s.modSett u (fun t =>
          (SettSt.advance { t with sig := t.sig.set sg.toNat (BitVec.ofNat 32 (if peek then old else old - k)) }).spend 1))) ∧
      (k ≤ 65535 → seen < k →
        exec (.waits u sg peek cs c amt) s =
          .next (s.modSett u (fun t => { t.spend 1 with st := .wait, hold := .waits sg k peek, held := t.cyc })))) ∧
    (∀ k : Nat, t.st = .wait → t.freeze = none → t.hold = .waits sg k peek →
      (k ≤ old →
        exec (.waitsSatisfied u) s = .next (s.modSett u (fun t =>
          (SettSt.advance { t with st := .run, hold := .none, held := 0,
                                   sig := t.sig.set sg.toNat (BitVec.ofNat 32 (if peek then old else old - k)) }).spend 1))) ∧
      (old < k → exec (.waitsSatisfied u) s = .next s))

/-- Signal counters (04 R110, R112, R114): an increment saturates and sets SIG_SAT; GO, halts and breaks keep the values and every module
reset sets them to 0; a packet's increment reaches its counter once, or waits for the end of a freeze, and is no longer on its way; a
packet that something its sender sent before to the same sett precedes does not arrive (01 R20, R26). -/
def Obligations.SignalCountersCountAndLast : Prop :=
  ((∀ (t : SettSt) (n : BitVec 5) (k : Nat),
     (t.sigAdd n k).sig[n.toNat].toNat = min 0xFFFFFFFF (t.sig[n.toNat].toNat + k) ∧
     (∀ m : BitVec 5, m ≠ n → (t.sigAdd n k).sig[m.toNat] = t.sig[m.toNat]) ∧
     (t.sigAdd n k).sticky = if 0xFFFFFFFF < t.sig[n.toNat].toNat + k then t.sticky ||| 0x2000 else t.sticky) ∧
   (∀ (s : State) (u : Sett), ∃ t, exec (.go u) s = .next t ∧ (t.sett u).sig = (s.sett u).sig) ∧
   (∀ (s : State) (u : Sett) (st e c ix : Nat) (inj : Bool), ((s.haltSett u st e c ix inj).sett u).sig = (s.sett u).sig) ∧
   (∀ (t : SettSt) (c ix : Nat), (t.takeBreak c ix).sig = t.sig) ∧
   (∀ (s : State) (u : Sett) (i : Instr), i ∈ [Instr.supplyReset, .overVoltageReset, .thermalTrip, .resetN true] ∨
     (i = .softwareReset ∧ s.pw.swDue = true) ∨ (i = .powerOnReset ∧ s.pw.lost = true) →
     ∃ t, exec i s = .next t ∧ (t.sett u).sig = Vector.replicate 32 0)) ∧
  (∀ (s : State) (u : Sett) (sg : BitVec 5) (inc : BitVec 16), inc ≠ 0 →
     let fits : Pkt → Bool := fun p => p.dst == u && p.sg == sg && p.inc == inc && s.trFirst p.src u p.ord
     (∀ p, s.pkts.find? fits = some p →
       ((s.sett u).freeze = none →
         exec (.trestleSignalPacket u sg inc) s =
           .next (State.modSett { s with pkts := s.pkts.erase p } u (fun t => t.sigAdd sg inc.toNat))) ∧
       ((s.sett u).freeze ≠ none →
         exec (.trestleSignalPacket u sg inc) s =
           .next (State.modSett { s with pkts := s.pkts.erase p } u
             (fun t => { t with lateSig := t.lateSig ++ [(sg, inc.toNat, some p.src)] })))) ∧
     (s.pkts.find? fits = none → exec (.trestleSignalPacket u sg inc) s = .next s) ∧
     (∀ (v : SettId) (ord : Nat), s.trFirst v u ord = true ↔
       (∀ p ∈ s.pkts, p.src = v → p.dst = u → ord ≤ p.ord) ∧ (∀ m ∈ s.mcast, m.iss = v → m.mem = u → ord ≤ m.ord)))

/-- The body of a loop runs exactly the latched number of times (04 R118): the count is latched at issue from the counter or the
immediate, 0 skips the body, and otherwise passes that end at END bring issue back to the first body instruction until
the last one, after which issue goes on behind END with the enclosing loops alone. -/
def Obligations.LoopBodyRunsTheLatchedCount : Prop :=
  ∀ (s : State) (u : Sett) (ci : Bool) (c : BitVec 4) (e : BitVec 15) (imm : BitVec 16),
    let t := s.sett u
    let n : Word := if ci then imm.setWidth 32 else t.getCt c
    s.canIssue u = true → t.pc < e.toNat → (∀ l ∈ t.loops, e.toNat < l.last) → t.loops.length < 4 →
    ¬ ((s.opAt u e.toNat).1 = 0 ∧ (s.opAt u e.toNat).2 ∈ [0x01, 0x08, 0x09, 0x0C, 0x0D]) →
    ∃ s', exec (.loop u ci c e imm) s = .next s' ∧
      (n = 0 → (s'.sett u).pc = (e.toNat + 1) % 2 ^ 15 ∧ (s'.sett u).loops = t.loops) ∧
      (n ≠ 0 →
        let pass : SettSt → SettSt := fun x => SettSt.advance { x with pc := e.toNat }
        (∀ k, k < n.toNat → (Nat.iterate pass k (s'.sett u)).pc = t.pc + 1 ∧
          (Nat.iterate pass k (s'.sett u)).loops ≠ t.loops) ∧
        (Nat.iterate pass n.toNat (s'.sett u)).pc = (e.toNat + 1) % 2 ^ 15 ∧
        (Nat.iterate pass n.toNat (s'.sett u)).loops = t.loops)

/-- Replay regions (04 R121 to R124; 10 R271): REGN faults, or snapshots and goes on at the rung CUR after 7 cycles; REND of another id
is PLAN_MISMATCH; a drain ends where no command is queued or running and no Viaduct transfer of the sett is owed, and the next
instruction issues 4 cycles after its last cycle, 10 with a promotion (04 Table 04-1); a drained region without an overflow continues at CONT; one with an overflow below its top rung promotes, which
rewrites CUR and PROMO, restores the snapshot and writes a record; on the top rung it halts with OVERFLOW_PERSIST. -/
def Obligations.ReplayRegionsEnterAndLeave : Prop :=
  (∀ (s : State) (u : Sett) (id : BitVec 10), s.canIssue u = true →
     let t := s.sett u
     let a := s.fld (.sq u) 0x14 9 0 * 4096 + 16 * id.toNat
     let b := (t.store.read (a + 10)).toNat
     let nr := b / 4 % 8
     let cur := b % 4
     (0x300000 < a + 16 → exec (.regn u id) s = .next (s.haltSett u Code.bounds 0 2 t.pc)) ∧
     (a + 16 ≤ 0x300000 → (nr = 0 ∨ 4 < nr ∨ nr ≤ cur ∨ t.region ≠ none) →
       exec (.regn u id) s = .next (s.haltSett u Code.planMismatch 0 2 t.pc)) ∧
     (a + 16 ≤ 0x300000 → nr ≠ 0 → nr ≤ 4 → cur < nr → t.region = none →
       exec (.regn u id) s = .next (s.modSett u (fun t =>
         { t with epoch := t.epoch + 1, latch := 0, cyc := t.cyc + 7, region := some id,
                  pc := t.store.num (a + 2 * cur) 2 % 2 ^ 15,
                  snap := some ⟨t.ct.toList, t.ctsh.toList, t.shpend, t.cmp.toList, t.loops, t.tag, t.sig.toList,
                    t.store.num (a + 12) 4, nr⟩ })))) ∧
  (∀ (s : State) (u : Sett) (id : BitVec 10),
     let t := s.sett u
     let a := s.fld (.sq u) 0x14 9 0 * 4096 + 16 * id.toNat
     let b := (t.store.read (a + 10)).toNat
     let nr := b / 4 % 8
     let cur := b % 4
     (s.canIssue u = true →
       (t.region = some id →
         let s1 := s.modSett u (fun t => { t.spend 1 with st := .wait, hold := .rend, held := t.cyc })
         (s.drained u = false → exec (.rend u id) s = .next s1) ∧
         (s.drained u = true → ∃ s', exec (.rendDrainEnd u) s1 = .next s' ∧ exec (.rend u id) s = .next s')) ∧
       (t.region ≠ some id → exec (.rend u id) s = .next (s.haltSett u Code.planMismatch 0 2 t.pc))) ∧
     (∀ p : Snap, t.st = .wait → t.hold = .rend → t.freeze = none → s.drained u = true → s.mayMismatch u = false →
       t.stepReq = false → t.region = some id → t.snap = some p →
       (t.latch = 0 →
         exec (.rendDrainEnd u) s = .next (s.modSett u (fun t =>
           { t with cause := 0, cyc := t.cyc + 3, st := .run, hold := .none, held := 0, region := none, snap := none,
                    pc := t.store.num (a + 8) 2 % 2 ^ 15 }))) ∧
       (t.latch ≠ 0 → nr ≤ cur + 1 →
         exec (.rendDrainEnd u) s =
           .next ((s.modSett u (fun t => { t with cause := t.latch })).haltSett u Code.overflowPersist 0 2 t.pc)) ∧
       (t.latch ≠ 0 → cur + 1 < nr →
         ∃ s', exec (.rendDrainEnd u) s = .next s' ∧
           (s'.sett u).store = t.store.store (a + 10)
             [BitVec.ofNat 8 (b + 1), BitVec.ofNat 8 (min 255 ((t.store.read (a + 11)).toNat + 1))] ∧
           (s'.sett u).pc = (s'.sett u).store.num (a + 2 * (cur + 1)) 2 % 2 ^ 15 ∧
           (∀ k : Fin 16, (s'.sett u).ct[k.val] = p.ct.getD k.val 0 ∧ (s'.sett u).ctsh[k.val] = p.ctsh.getD k.val 0) ∧
           (∀ k : Fin 8, (s'.sett u).cmp[k.val] = p.cmp.getD k.val 0) ∧
           (∀ k : Fin 32, (s'.sett u).sig[k.val] = if p.mask.testBit k.val then p.sig.getD k.val 0 else t.sig[k.val]) ∧
           (s'.sett u).loops = p.loops ∧ (s'.sett u).tag = p.tag ∧ (s'.sett u).shpend = p.shpend ∧
           (s'.sett u).region = some id ∧ (s'.sett u).snap = some p ∧ (s'.sett u).st = .run ∧ (s'.sett u).hold = .none ∧
           (s'.sett u).cause = t.latch ∧ (s'.sett u).latch = 0 ∧ (s'.sett u).cyc = t.cyc + 9 ∧
           (s'.sett u).step = t.step ∧ (s'.sett u).cmdCnt = t.cmdCnt ∧ (s'.sett u).wab = t.wab ∧
           s'.regs = s.regs ∧ s'.hbm = s.hbm ∧
           s'.recs = s.recs ++ [{
             status := Code.done, inj := false, src := settSrc u 0, step := t.step.toNat, layer := id.toNat,
             cycle := s.cycle, addr := 0, detail := leBytes 1 cur ++ leBytes 1 (cur + 1) ++ leBytes 1 t.latch.toNat }])))

/-- HALT drains the sett, which then stands in DONE with the cause 1 and raises the sett-done interrupt (04 R127). A halt (04 R128)
stops issue, drops queued commands with ABORTED and leaves started ones, aborts the channels, records status, engine, cause and
index, and writes one record; a sett that is halted already keeps its record. -/
def Obligations.HaltsDrainOrRecord : Prop :=
  (∀ (s : State) (u : Sett),
     let t := s.sett u
     let dn : SettSt → SettSt := fun t =>
       { t with st := .done, hold := .none, held := 0, stepReq := false, haltInfo := haltWord 0 0 1 t.pc }
     (s.canIssue u = true →
       (s.drained u = false →
         exec (.halt u) s = .next (s.modSett u (fun t => { t.spend 1 with st := .wait, hold := .halt, held := t.cyc }))) ∧
       (s.drained u = true →
         exec (.halt u) s = .next ((s.modSett u (fun t => dn (t.spend 1))).raise (.settDone u)))) ∧
     (t.st = .wait → t.hold = .halt → t.freeze = none →
       (s.drained u = true → exec (.rendDrainEnd u) s = .next ((s.modSett u dn).raise (.settDone u))) ∧
       (s.drained u = false → exec (.rendDrainEnd u) s = .next s)) ∧
     (s.drained u = true ↔ t.engBusy = false ∧ ∀ o ∈ s.vd.owed, o.1 ≠ u)) ∧
  (∀ (s : State) (u : Sett) (status engine cause ix : Nat) (inj : Bool),
     let t := s.sett u
     let s' := s.haltSett u status engine cause ix inj
     (t.st = .halted → s' = s) ∧
     (t.st ≠ .halted → status < 256 → engine < 16 → cause < 16 → ix < 2 ^ 15 →
       (s'.sett u).st = .halted ∧ (s'.sett u).hold = .none ∧ (s'.sett u).lastFault = status ∧
       (s'.sett u).haltInfo.extractLsb' 24 8 = BitVec.ofNat 8 status ∧ (s'.sett u).haltInfo.extractLsb' 20 4 = BitVec.ofNat 4 engine ∧
       (s'.sett u).haltInfo.extractLsb' 16 4 = BitVec.ofNat 4 cause ∧ (s'.sett u).haltInfo.extractLsb' 0 15 = BitVec.ofNat 15 ix ∧
       (∀ e : Fin 9, (s'.sett u).eng[e.val].queue = [] ∧ (s'.sett u).eng[e.val].run = t.eng[e.val].run) ∧
       (∀ c : Fin 4, (s'.sett u).ch[c.val] = DmaCh.abort t.ch[c.val]) ∧
       (s'.sett u).ct = t.ct ∧ (s'.sett u).pc = t.pc ∧ (s'.sett u).store = t.store ∧ (s'.sett u).loops = t.loops ∧
       (∃ r, s'.recs = s.recs ++ [r] ∧ r.status = status ∧ r.src = settSrc u 0 ∧ r.step = t.step.toNat ∧ r.layer = t.layer) ∧
       s'.hbm = s.hbm ∧ s'.regs = s.regs ∧ (∀ v : Sett, v ≠ u → s'.sett v = s.sett v)))

/-- TAG, the tag break, COUNT_BREAK and EVLOG (04 R129, 05 R147): a tag that matches under the mask breaks with cause 6; a command
count that has reached SQ_BRK_CNT breaks with cause 5 before the next issue; EVLOG makes one record of the sett, and a full buffer of
8 records stalls it. -/
def Obligations.TagsBreaksAndRecords : Prop :=
  (∀ (s : State) (u : Sett),
     (∀ tg : BitVec 16, s.canIssue u = true →
       let cfg := s.reg (.sq u) 0x08
       let b := s.reg (.sq u) 0x28
       let t' : SettSt → SettSt := fun t => (SettSt.advance { t with tag := tg }).spend 1
       (Word.bit cfg 1 = false ∨ (tg ^^^ b.extractLsb' 0 16) &&& b.extractLsb' 16 16 ≠ 0 →
         exec (.tag u tg) s = .next (s.modSett u t')) ∧
       (Word.bit cfg 1 = true → (tg ^^^ b.extractLsb' 0 16) &&& b.extractLsb' 16 16 = 0 →
         exec (.tag u tg) s = .next (s.modSett u (fun t => (t' t).takeBreak 6 t.pc)))) ∧
     ((s.sett u).issuing = true → s.countDue u = true →
       exec (.countBreak u) s = .next (s.modSett u (fun t =>
         { t with st := .brk, stepReq := false, held := 0, brkSeen := true, haltInfo := haltWord 0 0 5 t.pc }))) ∧
     ((s.sett u).issuing = true → s.countDue u = false → exec (.countBreak u) s = .next s)) ∧
  (∀ (s : State) (u : Sett) (code : BitVec 8) (lf : Bool) (layer : BitVec 16), s.canIssue u = true → code.toNat < 16 →
     let t := s.sett u
     (s.recCount u < 8 →
       exec (.evlog u code lf layer) s = .next (State.modSett { s with recs := s.recs ++ [{
         status := code.toNat, inj := false, src := settSrc u 0, step := t.step.toNat,
         layer := if lf then layer.toNat else t.layer, cycle := s.cycle, addr := 0, detail := [] }] } u
           (fun t => t.advance.spend 1))) ∧
     (8 ≤ s.recCount u → exec (.evlog u code lf layer) s = .next s))

/-- GO, BREAK, RESUME, STEP and ABORT (04 R128 to R130): what a write to SQ_CTL does in the states that accept it, and that GO is
refused elsewhere and the others ignored; a break keeps a drain, whose watchdog count stops in it (04 R115). -/
def Obligations.ControlWritesActInTheirStates : Prop :=
  ∀ (s : State) (u : Sett), (s.sett u).freeze = none →
    let t := s.sett u
    ((t.st = .idle ∨ t.st = .done ∨ t.st = .halted) → t.engBusy = false →
      exec (.go u) s = .next (s.modSett u (fun t =>
        { t with st := .run, loops := [], ctsh := Vector.replicate 16 0, shpend := 0, haltInfo := 0, tag := 0, region := none,
                 snap := none, hold := .none, held := 0, stepReq := false, brkSeen := false, fetched := 0, hostWr := none }))) ∧
    ((t.st = .run ∨ t.st = .wait ∨ t.st = .brk ∨ t.engBusy = true) →
      exec (.go u) s = .next (s.modSett u (fun t => { t with sticky := t.sticky ||| 0x4000 }))) ∧
    ((t.st = .run ∨ t.st = .wait) → s.countDue u = false →
      exec (.break u) s = .next (s.modSett u (fun t => t.takeBreak 7 t.pc))) ∧
    ((t.st = .idle ∨ t.st = .done ∨ t.st = .halted ∨ t.st = .brk) → ∃ s', exec (.break u) s = .next s' ∧ s'.sett u = t) ∧
    (t.st = .brk → t.hold = .none →
      exec (.resume u) s = .next ((s.modSett u (fun t => { t with st := .run, held := t.cyc - t.held })).raise (.settResume u)) ∧
      exec (.step u) s = .next (s.modSett u (fun t => { t with st := .run, stepReq := true, held := t.cyc - t.held }))) ∧
    (t.st = .brk → t.hold ≠ .none →
      exec (.resume u) s = .next ((s.modSett u (fun t => { t with st := .wait, held := t.cyc - t.held })).raise (.settResume u)) ∧
      exec (.step u) s = .next (s.modSett u (fun t => { t with st := .wait, stepReq := true, held := t.cyc - t.held }))) ∧
    (∀ c ix, (t.takeBreak c ix).hold = (if t.hold = .rend ∨ t.hold = .halt then t.hold else .none) ∧
      (t.takeBreak c ix).held = (if t.hold = .rend ∨ t.hold = .halt then t.cyc - t.held else 0)) ∧
    (t.st ≠ .brk → exec (.resume u) s = .next s ∧ ∃ s', exec (.step u) s = .next s' ∧ s'.sett u = t) ∧
    ((t.st = .run ∨ t.st = .wait ∨ t.st = .brk) → exec (.abort u) s = .next (s.haltSett u Code.aborted 0 3 t.pc)) ∧
    ((t.st = .idle ∨ t.st = .done ∨ t.st = .halted) → exec (.abort u) s = .next s)

/-- WATCHDOG_EXPIRY and QUEUE_FULL_STALL (04 R103, R115): a wait or a drain that has lasted LIMIT × 1,024 cycles halts with ABORTED
and cause 4 (that a HALT's drain is not watched is the model's reading, log entry 51); cycles in which a queue is full, or has been freed
of an entry in that very cycle, are counted and delay later issues, and change nothing else. -/
def Obligations.WatchdogHaltsAndStallsCount : Prop :=
  (∀ (s : State) (u : Sett),
     let t := s.sett u
     let limit := s.fld (.sq u) 0x2C 15 0
     (limit ≠ 0 → t.st = .wait → t.freeze = none → t.hold ≠ .halt →
       exec (.watchdogExpiry u) s =
         .next ((s.modSett u (fun t => { t with cyc := max t.cyc (t.held + limit * 1024) })).haltSett u Code.aborted 0 4 t.pc)) ∧
     (limit = 0 ∨ t.hold = .halt → exec (.watchdogExpiry u) s = .next s)) ∧
  (∀ (s : State) (u : Sett) (e : BitVec 4) (n : BitVec 32), (s.sett u).issuing = true → 1 ≤ e.toNat → e.toNat ≤ 9 →
     ((s.sett u).queueFull e = true →
       exec (.queueFullStall u e n) s = .next (s.modSett u (fun t =>
         { t with cyc := t.cyc + n.toNat, stallCnt := min 0xFFFFFFFF (t.stallCnt + n.toNat) }))) ∧
     ((s.sett u).queueFull e = false → (e = 3 → ((s.sett u).engine e).run = [] ∧
         (∀ q ∈ ((s.sett u).engine e).queue, ∀ v h d x c, q.cmd ≠ .stash v h d x c)) →
       exec (.queueFullStall u e n) s = .next s)) ∧
  (∀ (s : State) (u : Sett) (n : BitVec 32), s.recCount u < 8 → exec (.queueFullStall u 0 n) s = .next s)

/-- A command of engines 10 to 15 (04 R104): a false predicate costs its cycle; otherwise it completes with ENGINE_ABSENT, counted,
recorded and signalled in the cycle after its issue (05 R158), and halts where ABSENT_HALT says so. -/
def Obligations.AbsentEnginesComplete : Prop :=
  ∀ (s : State) (u : Sett) (e : BitVec 4) (op : BitVec 6) (h : Hdr) (low : BitVec 44), s.canIssue u = true → 10 ≤ e.toNat →
    let t := s.sett u
    let s1 := s.modSett u SettSt.issued
    let s2 := s1.modSett u (fun t => { t with absentCnt := min 0xFFFFFFFF (t.absentCnt + 1) })
    let s3 := if h.sen then s2.modSett u (fun t => { t.sigAdd h.sign 1 with absSig := some (t.cyc, h.sign) }) else s2
    (h.pen = true → t.cmpHolds h.pcmp = false → exec (.engineAbsent u e op h low) s = .next s1) ∧
    ((h.pen = false ∨ t.cmpHolds h.pcmp = true) →
      (Word.bit (s.reg (.sq u) 0x08) 2 = false →
        exec (.engineAbsent u e op h low) s = .next (s3.postSett u 0 Code.engineAbsent t.layer false [])) ∧
      (Word.bit (s.reg (.sq u) 0x08) 2 = true →
        exec (.engineAbsent u e op h low) s = .next
          ((s3.postSett u 0 Code.engineAbsent t.layer false []).haltSett u Code.engineAbsent e.toNat 2 t.pc)))

/-- A sett that is not in RUN, that is held or frozen, or whose count break is due, does nothing with an instruction word
(04 R102, R109, R113, R129; the model's reading of a command that is not ready, log entry 3). -/
def Obligations.HeldSettsIgnoreInstructions : Prop :=
  ∀ (s : State) (u : Sett) (i : Instr), i.sett? = some u →
    ((s.sett u).st ≠ .run ∨ (s.sett u).hold ≠ .none ∨ s.countDue u = true ∨
      ((s.sett u).freeze ≠ none ∧ s.mayMismatch u = false)) → exec i s = .next s

/-- A fetch at or beyond the region's size halts the sett with BOUNDS, whatever the instruction (04 R101). -/
def Obligations.FetchBeyondTheRegionHalts : Prop :=
  ∀ (s : State) (u : Sett) (i : Instr), i.sett? = some u → (s.sett u).issuing = true → s.countDue u = false →
    s.regionWords u ≤ (s.sett u).pc → s.recCount u < 8 → (∀ e o h l, i = .engineAbsent u e o h l → 10 ≤ e.toNat) →
    exec i s = .next (s.haltSett u Code.bounds 0 2 (s.sett u).pc)

/-- A word that the sequencer carries out itself changes no other sett, no memory outside its own sett and no register
(04 R102; R110: a freeze or a fault touches only its sett). -/
def Obligations.LocalInstructionsStayInTheirSett : Prop :=
  ∀ (s t : State) (u : Sett) (i : Instr), i.local? = some u → s.mayMismatch u = false → exec i s = .next t →
    (∀ v : Sett, v ≠ u → t.sett v = s.sett v) ∧ t.hbm = s.hbm ∧ t.burrow = s.burrow ∧ t.remote = s.remote ∧ t.flash = s.flash ∧
    t.sram = s.sram ∧ t.regs = s.regs ∧ t.xsig = s.xsig ∧ t.xch = s.xch ∧ t.pending = s.pending

/-- The issue of an engine command (04 R103, R117; 05 R134, R135; 06 R168): a false predicate costs its cycle and nothing else; a
full queue, or the gate of a STASH, stalls it; otherwise it enters the tail of its queue with the counters, extents and step it
reads at issue, and an idle engine starts it. The commands are MMA, CVT, RLOAD, RDROP; VADD, VSUB, VMUL, VFMA, VMAX, VMIN, VDIV, VABS,
VNEG, VCPY, VSQRT, VFN, VDFN, VRSUM, VRMAX, VRSSQ, VAMAX and the four VRECIPE; STASH, UNSTASH, SFREE; DSTART; KVMAP, KVAPPEND, KVUNPIN,
KVCOW, KVFREE, KVSHARE; TSIG, HCMD. -/
def Obligations.EngineCommandEntersItsQueue : Prop :=
  ∀ (s : State) (u : Sett) (e : BitVec 4) (h : Hdr) (ds : List (BitVec 14)) (i : Instr),
    i.engine? = some (u, e, h, ds) → i.wf = true → s.canIssue u = true →
    let t := s.sett u
    let skip := h.pen && !t.cmpHolds h.pcmp
    let s1 := s.modSett u (fun t => t.issued.modEng e (fun g => { g with queue := g.queue ++ [s.captured u h ds i] }))
    (skip = true → exec i s = .next (s.modSett u SettSt.issued)) ∧
    (skip = false → (s.gateOpen i = false ∨ t.queueFull e = true) →
      exec i s = .next (s.modSett u (fun t => { t with fetched := 0 }))) ∧
    (skip = false → s.gateOpen i = true → t.queueFull e = false →
      ((t.engine e).queue ≠ [] ∨ (s1.sett u).engFree e (isCvt i) = false → exec i s = .next s1) ∧
      ((t.engine e).queue = [] → (s1.sett u).engFree e (isCvt i) = true → exec i s = .next (s1.begin u e (startOf i))))

/-- COMMAND_START and COMMAND_COMPLETION (03 R97; 04 R103, R128; 05 R134, R138, R140): the head leaves its queue in the cycle it
starts, after the occupancy before it; a fault found at the start completes it at once and halts, but on the tensor and the stash
engine, unless it is SHAPE_OVER, after the commands before it (03 R98, 06 R169, 09 R245); the oldest started command of the
tensor engine, or the started command of the vector engine whose fixed event comes first, completes with its status and its signal
increment, or halts the sett. A vector command that is done raises the flags its results gave, with the captures of the first, under
the sequence number that VE_SEQ held, and VE_SEQ counts it (10 R258; log entry 8). -/
def Obligations.CommandsStartAndComplete : Prop :=
  ∀ (s : State) (u : Sett) (e : BitVec 4), (s.sett u).freeze = none →
    let t := s.sett u
    (∀ (q : QCmd) (rest : List QCmd), 1 ≤ e.toNat → e.toNat ≤ 9 → t.slotFree e = true → s.mayMismatch u = false →
      (t.engine e).queue = q :: rest →
      let c := t.startCycle e q (isCvt q.cmd)
      (startOf q.cmd s q = .wait → exec (.commandStart u e) s = .next s) ∧
      (∀ (s1 : State) (st occ drain : Nat) (vis : Option Nat) (work : Bool),
        startOf q.cmd s q = .go s1 st occ drain vis work → ((s1.sett u).engine e).queue = q :: rest →
        let turn : Prop := (e = 1 ∨ e = 3) ∧ st ≠ Code.shapeOver ∧ (t.engine e).run ≠ []
        (st < 0x10 ∨ turn → ∃ s', exec (.commandStart u e) s = .next s' ∧
          ((s'.sett u).engine e).queue = rest ∧ ((s'.sett u).engine e).occEnd = c + occ ∧
          (16 ≤ (t.engine e).queue.length → ((s'.sett u).engine e).room = c + 1) ∧
          ((s'.sett u).engine e).run = ((s1.sett u).engine e).run ++ [⟨q, c, st, vis.map (fun v => c + v), work, false⟩] ∧
          (s'.sett u).cyc = max (s1.sett u).cyc c ∧ (s'.sett u).store = (s1.sett u).store ∧ (s'.sett u).ct = (s1.sett u).ct ∧
          s'.hbm = s1.hbm ∧ s'.regs = s1.regs ∧ s'.recs = s1.recs ∧ (∀ v : Sett, v ≠ u → s'.sett v = s1.sett v)) ∧
        (0x10 ≤ st → ¬ turn → st ≠ Code.engineAbsent → (s1.sett u).st ≠ .halted →
          ∃ s', exec (.commandStart u e) s = .next s' ∧ (s'.sett u).st = .halted ∧ (s'.sett u).lastFault = st ∧
          (s'.sett u).haltInfo = haltWord st e.toNat 2 q.index ∧ ((s'.sett u).engine e).queue = [] ∧
          ((s'.sett u).engine e).run = ((s1.sett u).engine e).run ∧ (s'.sett u).store = (s1.sett u).store))) ∧
    ((t.engine e).queue = [] → exec (.commandStart u e) s = .next s) ∧
    (∀ (n : BitVec 32) (r : RCmd),
      (e = 1 ∧ (t.engine e).run.head? = some r) ∨ (e = 2 ∧ firstDue (t.engine e).run = some r) →
      let rest := (t.engine e).run.erase r
      let due := r.doneAt.getD (if e = 1 then r.start + n.toNat else r.start)
      (r.status < 0x10 → ∃ s', exec (.commandCompletion u e n) s = .next s' ∧
        ((s'.sett u).engine e).run = rest ∧ ((s'.sett u).engine e).last = r.status ∧
        (s'.sett u).cyc = max t.cyc (due + 1) ∧ (s'.sett u).st = t.st ∧
        (∀ k : Fin 32, (s'.sett u).sig[k.val] =
          if r.q.hdr.sen = true ∧ r.q.hdr.sign.toNat = k.val then (sigBump t.sig[k.val] 1).1 else t.sig[k.val]) ∧
        (s'.sett u).store = t.store ∧ s'.hbm = s.hbm ∧ (∀ v : Sett, v ≠ u → s'.sett v = s.sett v) ∧
        (e = 2 → r.status = Code.done → s'.reg (.ve u) 0x10 = s.reg (.ve u) 0x10 + 1 ∧
          (∀ w : VeNote, t.veDue.find? (fun w => w.issue == r.q.issue) = some w →
            let flags := s.reg (.ve u) 0x04
            s'.reg (.ve u) 0x04 = flags ||| (if w.nan.isSome then 1 else 0) ||| (if w.sat.isSome then 2 else 0) ||| BitVec.ofNat 32 w.bits ∧
            (∀ i : Nat, w.nan = some i → Word.bit flags 0 = false →
              s'.reg (.ve u) 0x14 = s.reg (.ve u) 0x10 ∧ s'.reg (.ve u) 0x18 = BitVec.ofNat 32 i) ∧
            (∀ i : Nat, w.sat = some i → Word.bit flags 1 = false →
              s'.reg (.ve u) 0x1C = s.reg (.ve u) 0x10 ∧ s'.reg (.ve u) 0x20 = BitVec.ofNat 32 i)))) ∧
      (0x10 ≤ r.status → r.status ≠ Code.engineAbsent → t.st ≠ .halted → ∃ s', exec (.commandCompletion u e n) s = .next s' ∧
        (s'.sett u).st = .halted ∧ (s'.sett u).haltInfo = haltWord r.status e.toNat 2 r.q.index ∧
        ((s'.sett u).engine e).run = rest ∧ (s'.sett u).sig = t.sig))

/-- The start of a fast or strict MMA whose tile needs no spill (02 R60, R61; 03 R72, R73, R76, R85): the tile is open and live
afterwards, nb blocks longer; in fast mode every element of its rows and columns has its blocks added one after another in reference
order to the value it held (+0.0 for a new tile), and every other element keeps its value. The occupancy is that of Table 03-3. -/
def Obligations.MmaAddsItsBlocksInOrder : Prop :=
  ∀ (s : State) (u : Sett) (q : QCmd) (da db : BitVec 14) (id : BitVec 6) (str sw : Bool) (kc : BitVec 4) (per : Nat),
    let t := s.sett u
    let a := t.desc da
    let b := t.desc db
    let nb := bitsOf (q.ctr kc) 31 20
    let k0 := bitsOf (q.ctr kc) 19 0
    let va := a.view t (q.extOf 0)
    let vb := b.view t (q.extOf 1)
    let rows := min 64 (a.xExt false (q.extOf 0))
    let cols := min 96 (b.xExt true (q.extOf 1))
    a.overX false (q.extOf 0) = false → b.overX true (q.extOf 1) = false → nb ≠ 0 → a.emptyX false (q.extOf 0) = false →
    b.emptyX true (q.extOf 1) = false → mmaCheck t q da db id str false k0 nb = Code.done → pairPeriod a.fmt b.fmt = some per →
    s.placeTile u id = some ⟨none, none, sw⟩ → s.mayMismatch u = false →
    let occ := nb * (per * if str then 4 else 1) + if sw then 8 else 0
    ∃ s' x, startMma u da db id str false kc s q = .go s' Code.done occ 0 (some (occ + 13)) false ∧
      (s'.sett u).tile id = some x ∧ x.place = .live ∧ x.strict = ((t.tile id).map (·.strict)).getD str ∧
      x.blocks = ((t.tile id).map (·.blocks)).getD 0 + nb ∧
      (x.strict = false → ∀ r c : Nat, c < 96 →
        let old := match t.tile id with
          | some y => Tbl.get y.acc (96 * r + c) 0
          | none => 0
        Tbl.get x.acc (96 * r + c) 0 =
          if r < rows ∧ c < cols then
            (dotList (piecePairs a.fmt) (fun k p => va.block t.store false r k p) (fun k p => vb.block t.store true c k p) k0 nb).foldl
              fastStep old
          else old) ∧
      (s'.sett u).store = t.store ∧ (s'.sett u).wab = t.wab ∧ (s'.sett u).ct = t.ct ∧ (s'.sett u).sig = t.sig ∧
      s'.regs = s.regs ∧ s'.hbm = s.hbm ∧ (∀ v : Sett, v ≠ u → s'.sett v = s.sett v)

/-- CVT, RLOAD, RDROP and DISCARD (03 R74, R83, R84, R91, R94, R99): a CVT of a tile that is held or not open writes the converted
tile, or +0.0, closes the tile and takes the next tile index; RLOAD fills the resident registers and RDROP and DISCARD empty them,
the latter with every tile, or is refused while the engine is busy. -/
def Obligations.TensorTilesCloseAndResidentsLoad : Prop :=
  ∀ (s : State) (u : Sett) (q : QCmd),
    let t := s.sett u
    (∀ (dd : BitVec 14) (given : Bool) (id : BitVec 6) (p : PlaceRes),
      let d := t.desc dd
      let ext := q.extOf 0
      let rows := min 64 (ext.getD (1 - d.colDim) 1)
      let cols := min 96 (ext.getD d.colDim 1)
      d.exceeds ext = false → d.empty ext = false → cvtCheck s u q dd 0 given id = Code.done → s.mayMismatch u = false →
      (∀ x, t.tile id = some x → s.placeTile u id = some p ∧ p.victim = none ∧ p.fill = none) →
      let out : Nat → Nat → Nat := fun r c => match t.tile id with
        | some x => x.out (f32Num ((t.desc x.da).coarse t)) (f32Num ((t.desc x.db).coarse t)) r c
        | none => 0
      let res := if d.isLn then cvtLn (d.view t ext) t given rows cols out else cvtPlain (d.view t ext) t rows cols out
      ∃ s', startCvt u dd 0 given id s q = .go s' Code.done 8 24 (some 40) false ∧
        (s'.sett u).tile id = none ∧ (s'.sett u).store = res.t.store ∧ (s'.sett u).wab = res.t.wab ∧
        s'.reg (.te u) 0x1C = s.reg (.te u) 0x1C + 1 ∧
        Word.bit (s'.reg (.te u) 0x10) 0 = (Word.bit (s.reg (.te u) 0x10) 0 || !res.nan.isEmpty) ∧
        Word.bit (s'.reg (.te u) 0x10) 1 = (Word.bit (s.reg (.te u) 0x10) 1 || !res.sat.isEmpty) ∧
        (s'.sett u).ct = t.ct ∧ (s'.sett u).sig = t.sig ∧ s'.hbm = s.hbm) ∧
    (∀ (db : BitVec 14) (kc : BitVec 4),
      let b := t.desc db
      let nb := bitsOf (q.ctr kc) 31 20
      let k0 := bitsOf (q.ctr kc) 19 0
      b.exceeds (q.extOf 0) = false → b.empty (q.extOf 0) = false → nb ≠ 0 → s.mayMismatch u = false →
      (nb ≤ 8 → b.fmtc < 2 → checkDescs t [0] [(b, q.extOf 0)] = Code.done → k0 + nb ≤ 2 ^ 20 → b.flat = true →
        b.blockedOnK true = true →
        startRload u db kc s q = .go (s.modSett u (fun x => { x with resident := some ⟨db, k0, nb, b.fmt,
          (List.range 96).map (fun c => (List.range nb).map (fun j => (b.view t (q.extOf 0)).block t.store true c (k0 + j) 0))⟩ }))
          Code.done (16 * nb) 0 (some (16 * nb + 4)) false) ∧
      (checkDescs t [0] [(b, q.extOf 0)] = Code.done → (8 < nb ∨ 2 ≤ b.fmtc) →
        startRload u db kc s q = Start.fault s Code.bounds)) ∧
    (∀ (db : BitVec 14) (kc : BitVec 4),
      ((t.desc db).exceeds (q.extOf 0) = true → startRload u db kc s q = Start.fault s Code.shapeOver) ∧
      ((t.desc db).exceeds (q.extOf 0) = false → (bitsOf (q.ctr kc) 31 20 = 0 ∨ (t.desc db).empty (q.extOf 0) = true) →
        startRload u db kc s q = Start.zero s)) ∧
    startRdrop u s q = .go (s.modSett u (fun t => { t with resident := none })) Code.done 1 0 (some 0) false ∧
    (t.freeze = none →
      ((t.engine 1).queue = [] → (t.engine 1).run = [] →
        exec (.discard u) s = .next ((s.modSett u (fun t => { t with tiles := [], resident := none })).setReg (.te u) 0x1C 0)) ∧
      ((t.engine 1).queue ≠ [] ∨ (t.engine 1).run ≠ [] → exec (.discard u) s = .next (s.orReg (.te u) 0x04 2)))

/-- What the elementwise functions, the row reductions and VAMAX write (02 R67, R68; 05 Table 05-5, R150; 10 R248 to R253): where the
opening checks pass, the command is DONE after its occupancy, and its destination holds, by the exit conversion, the function of the
elements that enter, broadcast sources repeated; VCPY hands over the element itself where Table 02-5 converts the pair directly (02
R55; log entry 49), and a wider LN destination takes the block as it stands (02 R39, R53). The flags are noted, and its completion
raises them. -/
def Obligations.VectorFunctionsWriteTheirResults : Prop :=
  ∀ (s : State) (u : Sett) (q : QCmd) (st g : Bool) (dd a b : BitVec 14), s.mayMismatch u = false →
    let t := s.sett u
    let v := (t.desc dd).view t (q.extOf 0)
    let src (f : BitVec 14) (k : Nat) : View := (t.desc f).view t (q.extOf k)
    let fits (k : Nat) : Bool := (List.range 5).all (fun j =>
      (q.extOf k).getD j 1 == (q.extOf 0).getD j 1 || (q.extOf k).getD j 1 == 1)
    let n := (t.desc dd).planElems
    let lag := autoLag (t.desc dd) g
    let done (f : List Nat → Nat × Fx) (occ lat : Nat) : Start :=
      .go (s.vecFinish u q v g ⟨v.indices.map (fun ix => (ix, (f ix).1)), v.indices.foldl (fun x ix => x.or (f ix).2) {}⟩) Code.done
        occ 0 (some (occ + lat + lag)) false
    let e2 (ix : List Nat) : List Elem := [(src a 1).enter ((src a 1).memOf t) ((src a 1).broadcast ix),
      (src b 2).enter ((src b 2).memOf t) ((src b 2).broadcast ix)]
    let e1 (ix : List Nat) : List Elem := [(src a 1).enter ((src a 1).memOf t) ((src a 1).broadcast ix)]
    let row (ix : List Nat) : List Elem :=
      (List.range ((q.extOf 1).getD 0 1)).map (fun i => (src a 1).enter ((src a 1).memOf t) (ix.set 0 i))
    let x (k : Nat) (l : List Machine.Num) : Machine.Num := l.getD k .nan
    let occ (per : Nat) : Nat := ceilDiv n (if st then per / 2 else per)
    (vecOpen t [(t.desc dd, q.extOf 0), (t.desc a, q.extOf 1), (t.desc b, q.extOf 2)] (fits 1 && fits 2) = none →
      startVadd u st dd a b g s q = done (fun ix => arith st (fun l => exactAdd (x 0 l) (x 1 l)) (e2 ix)) (occ 64) 12 ∧
      startVsub u st dd a b g s q = done (fun ix => arith st (fun l => exactAdd (x 0 l) (x 1 l).negate) (e2 ix)) (occ 64) 12 ∧
      startVmul u st dd a b g s q = done (fun ix => arith st (fun l => exactMul (x 0 l) (x 1 l)) (e2 ix)) (occ 64) 12 ∧
      startVdiv u st dd a b g s q = done (fun ix => arith st (fun l => exactDiv (x 0 l) (x 1 l)) (e2 ix)) (occ 16) 28 ∧
      startVfma u st dd a b g s q =
        done (fun ix => arith st (fun l => exactFma (x 0 l) (x 1 l) (x 2 l)) (e2 ix ++ [v.enter (v.memOf t) ix])) (occ 64) 12 ∧
      startVmax u st dd a b g s q = done (fun ix => copyFn (fun l => (x 0 l).max (x 1 l)) (e2 ix)) (ceilDiv n 64) 12 ∧
      startVmin u st dd a b g s q = done (fun ix => copyFn (fun l => (x 0 l).min (x 1 l)) (e2 ix)) (ceilDiv n 64) 12) ∧
    (vecOpen t [(t.desc dd, q.extOf 0), (t.desc a, q.extOf 1)] (fits 1) = none →
      startVabs u st dd a g s q = done (fun ix => copyFn (fun l => (x 0 l).abs) (e1 ix)) (ceilDiv n 64) 12 ∧
      startVneg u st dd a g s q = done (fun ix => copyFn (fun l => (x 0 l).negate) (e1 ix)) (ceilDiv n 64) 12 ∧
      startVcpy u st dd a g s q = .go (s.vecExit u q v g (v.indices.map (fun ix =>
          (ix, copyNum (t.desc a) (t.desc dd) ((src a 1).num ((src a 1).memOf t) ((src a 1).broadcast ix))))) {}
          (fun ixs => if g then none else (src a 1).widened v ((src a 1).memOf t) ixs)) Code.done
        (ceilDiv n 64) 0 (some (ceilDiv n 64 + 12 + lag)) false ∧
      startVsqrt u st dd a g s q = done (fun ix => arith st (fun l => exactSqrt (x 0 l)) (e1 ix)) (occ 16) 28) ∧
    (vecOpen t [(t.desc dd, q.extOf 0), (t.desc a, q.extOf 1)] ((q.extOf 0).getD 0 1 == 1 &&
        (List.range 5).all (fun k => k == 0 || (q.extOf 0).getD k 1 == (q.extOf 1).getD k 1)) = none →
      let lb := (t.desc a).bound 0
      let rb := (t.desc a).planElems / lb
      startVrsum u st dd a g s q = done (fun ix => if st then strictReduce false (row ix) else fastReduce false ((row ix).map (·.bits)))
        ((if st then 2 else 1) * rb * ceilDiv lb 64) 24 ∧
      startVrssq u st dd a g s q = done (fun ix => if st then strictReduce true (row ix) else fastReduce true ((row ix).map (·.bits)))
        ((if st then 2 else 1) * rb * ceilDiv lb 64) 24 ∧
      (0 < (q.extOf 1).getD 0 1 → startVrmax u st dd a g s q =
        done (fun ix => (f32Bits (((row ix).tail.map (fun y => f32Num y.bits)).foldl Machine.Num.max (f32Num ((row ix).headD ⟨0, false⟩).bits)), {}))
          (rb * ceilDiv lb 64) 24)) ∧
    (vecOpen t [(t.desc dd, q.extOf 0), (t.desc a, q.extOf 1)] ((List.range 5).all (fun k => (q.extOf 0).getD k 1 == 1)) = none →
      let m := (src a 1).indices.foldl (fun m ix => m.amax (f32Num ((src a 1).enter ((src a 1).memOf t) ix).bits)) Machine.Num.zero
      startVamax u st dd a g s q = .go (s.vecFinish u q v g ⟨[([0, 0, 0, 0, 0], f32Bits m)], {}⟩) Code.done
        (ceilDiv (t.desc a).planElems 64) 0 (some (ceilDiv (t.desc a).planElems 64 + 20 + lag)) false)

/-- VFN and VDFN (10 R254 to R257): the forward or derivative table of the number given, one per 8 KiB from VE_TAB.BASE; a table
number at or beyond COUNT, one that leaves the store, or a header that is not usable is BOUNDS; a segment is evaluated by two rounded
multiply-adds, and beyond the domain by the line of that end. -/
def Obligations.FunctionTablesEvaluate : Prop :=
  (∀ (s : State) (u : Sett) (q : QCmd) (st g deriv : Bool) (dd a : BitVec 14) (tab : BitVec 6), s.mayMismatch u = false →
    let t := s.sett u
    let v := (t.desc dd).view t (q.extOf 0)
    let w := (t.desc a).view t (q.extOf 1)
    let at_ := s.fld (.ve u) 0x08 25 16 * 4096 + tab.toNat * 8192 + (if deriv then 4096 else 0)
    let ft := tableAt t.store at_
    let go := if deriv then startVdfn u st dd a tab g s q else startVfn u st dd a tab g s q
    let bad := s.fld (.ve u) 0x08 6 0 ≤ tab.toNat ∨ 0x300000 < at_ + 4096 ∨ ft.ok = false ∨ tableReserved t.store at_ = false
    vecOpen t [(t.desc dd, q.extOf 0), (t.desc a, q.extOf 1)] ((List.range 5).all (fun j =>
      (q.extOf 1).getD j 1 == (q.extOf 0).getD j 1 || (q.extOf 1).getD j 1 == 1)) = none →
    (bad → go = Start.fault s Code.bounds) ∧
    (¬ bad → ∃ s', go = .go s' Code.done (ceilDiv (t.desc dd).planElems (if st then 32 else 64)) 0
        (some (ceilDiv (t.desc dd).planElems (if st then 32 else 64) + 16 + autoLag (t.desc dd) g)) false ∧
      s' = s.vecFinish u q v g
        ⟨v.indices.map (fun ix => (ix, (ft.eval st (w.enter (w.memOf t) (w.broadcast ix))).1)),
         v.indices.foldl (fun x ix => x.or (ft.eval st (w.enter (w.memOf t) (w.broadcast ix))).2) {}⟩)) ∧
  (∀ (ft : FnTable) (st : Bool) (x : Elem),
    let xn := f32Num (enterBits st x.bits)
    (xn = .nan → (ft.eval st x).1 = f32Bits .nan) ∧
    (xn.isFinite = true → xn.le ft.xlo = true → ft.xlo.le xn = false →
      (ft.eval st x).1 = (leave st (exactFma ft.al xn ft.bl)).1) ∧
    (xn.isFinite = true → ft.xlo.le xn = true → ft.xhi.le xn = true → (ft.eval st x).1 = (leave st (exactFma ft.ah xn ft.bh)).1) ∧
    (xn.isFinite = true → ft.xlo.le xn = true → ft.xhi.le xn = false →
      let k := (ft.locate xn).1
      let f := (ft.locate xn).2
      (ft.eval st x).1 =
        (leave st (exactFma (f32Num (leave st (exactFma (ft.seg k 2) f (ft.seg k 1))).1) f (ft.seg k 0))).1))

/-- The recipes (10 R261 to R268): on a record that verifies, DELAYED commits a usable CUR to the ring and derives its scale from PRE
while the record is cold and from the window afterwards; CURRENT uses PRE; CHECK leaves the record and returns COLD; LOSS raises the
exponent after PERIOD clean steps and lowers it after an overflow. -/
def Obligations.RecipesFollowTheirRecord : Prop :=
  (∀ (s : State) (u : Sett) (q : QCmd) (st : Bool) (dd a : BitVec 14), s.mayMismatch u = false →
    let t := s.sett u
    let base := (t.desc a).base
    let v := (t.desc dd).view t (q.extOf 0)
    let hist := t.store.load base 320
    let loss := t.store.load base 64
    let go (s' : State) : Start := .go s' Code.done 64 0 (some 80) false
    (vecOpen t [(t.desc dd, q.extOf 0), (t.desc a, q.extOf 1)] (recipeDescs (t.desc dd) (t.desc a) 80 (q.extOf 0)) = none →
      Hist.verifies hist = true →
      startDelayed u st dd a s q = go (s.recipeWrite u st v base (Hist.parse hist).delayed) ∧
      startCurrent u st dd a s q = go (s.recipeWrite u st v base (Hist.parse hist).current) ∧
      startCheck u dd a s q = go (s.modSett u (fun t => v.set t [0, 0, 0, 0, 0] 0 (f32OfNat (Hist.parse hist).cold)))) ∧
    (vecOpen t [(t.desc dd, q.extOf 0), (t.desc a, q.extOf 1)] (recipeDescs (t.desc dd) (t.desc a) 80 (q.extOf 0)) = none →
      Hist.verifies hist = false →
      startDelayed u st dd a s q =
        go ((s.coldStart u (Hist.parse hist)).recipeWrite u st v base (Hist.parse hist).reset.delayed) ∧
      startCurrent u st dd a s q =
        go ((s.coldStart u (Hist.parse hist)).recipeWrite u st v base { (Hist.parse hist).reset with cold := 15 }.current) ∧
      startCheck u dd a s q = go ((s.coldStart u (Hist.parse hist)).modSett u (fun t =>
        v.set (t.putStore base (Hist.parse hist).reset.bytes) [0, 0, 0, 0, 0] 0 (f32OfNat 16)))) ∧
    (vecOpen t [(t.desc dd, q.extOf 0), (t.desc a, q.extOf 1)] (recipeDescs (t.desc dd) (t.desc a) 16 (q.extOf 0)) = none →
      chkHolds loss = true →
      let n (o k : Nat) : Nat := leNat ((loss.drop o).take k)
      let r := lossStep (n 0 4) (signedOf 8 (n 4 1)) (n 6 2) (n 8 2)
      startLoss u dd a s q = go (s.modSett u (fun t =>
        v.set (t.putStore base (lossBytes loss r.1 (n 6 2) r.2)) [0, 0, 0, 0, 0] 0 (f32Pow2 r.1))))) ∧
  (∀ h : Hist, (amaxUsable h.cur = true →
      h.delayed.hist.amax = h.amax.set h.head h.cur ∧ h.delayed.hist.head = (h.head + 1) % h.len ∧
      h.delayed.hist.fill = min (h.fill + 1) h.len) ∧
    (amaxUsable h.cur = false → h.delayed.hist.amax = h.amax ∧ h.delayed.hist.head = h.head ∧ h.delayed.hist.fill = h.fill) ∧
    h.delayed.hist.cur = emptyAmax ∧ h.delayed.hist.pre = emptyAmax ∧ h.delayed.hist.cold = h.cold - 1 ∧
    h.delayed.hist.lastc = h.delayed.dd ∧
    (0 < h.cold → h.delayed.dd = f32Pow2 (recipeExp (if amaxUsable h.pre then some h.pre else none) h.margin)) ∧
    h.current.dd = f32Pow2 (recipeExp (if amaxUsable h.pre then some h.pre else none) h.margin) ∧
    h.current.hist = { h with pre := emptyAmax, lastc := h.current.dd }) ∧
  (∀ (ovf period clean : Nat) (e : Int), ((f32Num ovf).isZero = false → lossStep ovf e period clean = (max (e - 1) (-24), 0)) ∧
    ((f32Num ovf).isZero = true → (clean + 1) % 65536 = period → lossStep ovf e period clean = (min (e + 1) 24, 0)) ∧
    ((f32Num ovf).isZero = true → (clean + 1) % 65536 ≠ period → lossStep ovf e period clean = (e, (clean + 1) % 65536)))

/-- STASH, UNSTASH, SFREE and the completion of a STASH (09 R230, R236, R237, R239, R241, R243, R245; Table 09-4): a STASH stages
the codec's stream of its source, touching only its staging lines; an UNSTASH rebuilds the operand of a PLACED entry that matches
its destination, and sets NANINF where an element overflowed to an infinity (02 R54); an SFREE returns the chunks and empties the entry; a STASH that completes gives its staging lines back and counts
where it went. -/
def Obligations.StashEntriesComeAndGo : Prop :=
  ∀ (s : State) (u : Sett) (q : QCmd), s.mayMismatch u = false →
    let t := s.sett u
    (∀ (ds : BitVec 14) (e : BitVec 16) (codec : BitVec 2),
      let x := t.desc ds
      let v := x.view t (q.extOf 0)
      let out := stashStream v t.store codec.toNat (f32Num (x.coarse t))
      x.exceeds (q.extOf 0) = false → x.empty (q.extOf 0) = false →
      stashCheck s u x (q.extOf 0) e.toNat codec.toNat = Code.done →
      ∃ s' y, startStash u ds e codec s q = .go s' Code.done (ceilDiv x.stashBytes 64) 0 none true ∧
        (s'.sett u).staged = t.staged ++ [y] ∧ y.entry = e.toNat ∧ y.codec = codec.toNat ∧ y.elem = out.1 ∧ y.bsc = out.2.1 ∧
        y.ext = v.ext.take 5 ∧ y.cs = x.coarse t ∧ y.fmt = x.fmtc ∧ y.lines = t.stageTake (s.stageSize u) x.stashLines ∧
        y.placed = false ∧ (∀ l ∈ y.lines, l < s.stageSize u ∧ ∀ z ∈ t.staged, l ∉ z.lines) ∧
        (∀ a : Nat, (∀ l ∈ y.lines, a / 4096 ≠ s.stageBase u + l) →
          (s'.sett u).store.read a = t.store.read a) ∧
        s'.hbm = s.hbm ∧ s'.burrow = s.burrow ∧ (s'.sett u).ct = t.ct ∧ (s'.sett u).eng = t.eng ∧
        (∀ w : Sett, w ≠ u → s'.sett w = s.sett w)) ∧
    (∀ (dd : BitVec 14) (e : BitVec 16) (a : Nat),
      let x := t.desc dd
      let ext := q.extOf 0
      let r := SRec.read s.hbm a
      x.exceeds ext = false → x.empty ext = false → s.seRec u e.toNat = some a → t.entryBusy e.toNat = false →
      checkDescs t [0] [(if x.csp then { x with csp := false, cscale := 0x3F800000 } else x, ext)] = Code.done →
      (x.csp = true → x.cscale % 4 = 0 ∧ x.cscale < storeSize) →
      (unstashCheck t x ext r = false → startUnstash u dd e s q = Start.fault s Code.bounds) ∧
      (unstashCheck t x ext r = true →
        let got := s.getChunks (dieIx u) r.tier (r.chunk.take r.nchunk) (min r.span (r.nchunk * chunkBytes))
        (∀ (c : Status), got.1 = .error c → startUnstash u dd e s q = (if c = Code.done then .go got.2 c 4 0 none false else Start.fault got.2 c)) ∧
        (∀ (bs : List Byte), got.1 = .ok bs →
          let s1 := got.2
          let out := unstashInto (s1.sett u) x ext r (decodeEntry r bs s1.freeCtr).1 (decodeEntry r bs s1.freeCtr).2
          ∃ s', startUnstash u dd e s q = .go s' Code.done 4 0 none false ∧ s'.sett u = out.1 ∧ s'.hbm = s1.hbm ∧
            s'.reg (.se u) 0x04 = s1.reg (.se u) 0x04 ||| (if out.2 then 1 else 0) ∧
            (∀ w : Sett, w ≠ u → s'.sett w = s1.sett w)))) ∧
    (∀ (e : BitVec 16), s.seRec u e.toNat = none → startSfree u e s q = Start.fault s Code.bounds) ∧
    (∀ (e : BitVec 16) (a : Nat), s.seRec u e.toNat = some a → t.entryBusy e.toNat = false →
      let r := SRec.read s.hbm a
      (r.state = 0 → startSfree u e s q = .go s Code.done 2 0 none false) ∧
      (r.state ≠ 0 → startSfree u e s q =
        .go ((if r.state = 1 then s.poolReturn (dieIx u) r.tier (r.chunk.take r.nchunk) else s).putRec a { r with state := 0, nchunk := 0 })
          Code.done 2 0 none false)) ∧
    (∀ (n : BitVec 32) (r : RCmd) (rest : List RCmd) (w : Sett) (h : Hdr) (ds : BitVec 14) (e : BitVec 16) (codec : BitVec 2)
        (x : Staged) (xs : List Staged), t.freeze = none → (t.engine 3).run = r :: rest → r.q.cmd = .stash w h ds e codec →
      r.work = false → r.status < 0x10 → r.doneAt = none → t.staged = x :: xs →
      ∃ s', exec (.commandCompletion u 3 n) s = .next s' ∧ (s'.sett u).staged = xs ∧ ((s'.sett u).engine 3).run = rest ∧
        ((s'.sett u).engine 3).last = r.status ∧
        (x.pool < 4 → s'.reg (.se u) (0x20 + 4 * x.pool) = BitVec.ofNat 32 (satAdd (s.reg (.se u) (0x20 + 4 * x.pool)).toNat 1)) ∧
        s'.reg (.se u) 0x30 = (if x.again then BitVec.ofNat 32 (satAdd (s.reg (.se u) 0x30).toNat 1) else s.reg (.se u) 0x30) ∧
        (s'.sett u).store = t.store ∧ s'.hbm = s.hbm)

/-- STASH_PLACEMENT of the oldest started STASH (09 R229, R239, R240, R242; Table 09-4): the entry's old chunks return; the first
pool that has the chunks takes it, DONE for the home pool and SPILLED for another; with none, a usable fallback is recorded and the
entry needs recomputation; otherwise STASH_FULL, and the entry is EMPTY. -/
def Obligations.StashPlacementFollowsItsSteps : Prop :=
  ∀ (s : State) (u : Sett) (flt : Option (BitVec 8)) (r : RCmd) (rest : List RCmd) (x : Staged) (xs : List Staged) (w : Sett) (h : Hdr)
    (ds : BitVec 14) (e : BitVec 16) (codec : BitVec 2) (a : Nat),
    let t := s.sett u
    s.memOk = true → x.codec < 4 → t.freeze = none → (t.engine 3).run = r :: rest → r.q.cmd = .stash w h ds e codec → r.work = true →
    t.staged = x :: xs → s.seRec u x.entry = some a → s.cfgBad (.spool (dieIx u)) = false →
    let p := s.placeStash u x (memFault flt)
    let old := SRec.read s.hbm a
    let s1 := s.releaseEntry u old
    let n := segCount x.elem.length x.bsc.length
    let pick := s1.poolPick (dieIx u) (ceilDiv (tableBytes (x.codec == 3) n + 4096 * n) chunkBytes) (old.fb == 1)
    (∃ s', exec (.stashPlacement u flt) s = .next s' ∧
      ((s'.sett u).engine 3).run = { r with status := p.1, work := false } :: rest ∧
      (s'.sett u).staged = { x with placed := true, pool := p.2.1, again := p.2.2.1, lines := if 3 ≤ p.2.1 then [] else x.lines } :: xs ∧
      s'.hbm = p.2.2.2.hbm ∧ s'.regs = p.2.2.2.regs) ∧
    p.2.2.1 = (old.state == 1 || old.state == 2) ∧
    (∀ k : Nat, pick = some k → memFault flt = none →
      (let took := s1.poolTake (dieIx u) k (ceilDiv (tableBytes (x.codec == 3) n + 4096 * n) chunkBytes)
       (took.2.putChunks (dieIx u) k took.1 x.stored.1).1 = Code.done) →
      p.1 = (if k = 0 then Code.done else Code.spilled) ∧ p.2.1 = k ∧ k < 3 ∧ (SRec.read p.2.2.2.hbm a).state = 1 ∧
      (SRec.read p.2.2.2.hbm a).tier = k ∧ (SRec.read p.2.2.2.hbm a).elen = x.elem.length % 2 ^ 32) ∧
    (∀ k : Nat, pick = some k → memFault flt ≠ none → some p.1 = memFault flt ∧ p.2.1 = 4 ∧ (SRec.read p.2.2.2.hbm a).state = 0) ∧
    (pick = none → memFault flt ≠ none → some p.1 = memFault flt ∧ p.2.1 = 4 ∧ (SRec.read p.2.2.2.hbm a).state = 0) ∧
    (pick = none → memFault flt = none →
      (∀ slot : Nat × Bool, s1.rlSlot u x.entry old = some slot → s1.fallbackOk u x.entry old = true →
        p.1 = Code.spilled ∧ p.2.1 = 3 ∧ (SRec.read p.2.2.2.hbm a).state = 2) ∧
      (s1.rlSlot u x.entry old = none ∨ s1.fallbackOk u x.entry old = false →
        p.1 = Code.stashFull ∧ p.2.1 = 4 ∧ (SRec.read p.2.2.2.hbm a).state = 0))

/-- SE_POOL_INIT, SE_POOL_INIT_DONE, MINCLR, KV_INIT, KV_INIT_DONE, LABINV (09 R238, R239; 11 R286, R290, R291): a pool or the page
pool that lies in its tier has every chunk, page and frame free, its counts full and INIT_BUSY set until the DONE event; one that
does not sets its fault bit, clears EN and leaves memory as it was. -/
def Obligations.PoolsInitialise : Prop :=
  ∀ (s : State),
    (∀ (d : Fin 2) (p : Fin 3),
      let o := poolOff p.val
      let n := s.fld (.spool d) (o + 4) 23 0
      let map := s.poolMap d p.val
      let fits := s.poolInTier d p.val && inHbm map (ceilDiv n 8)
      ∃ s', exec (.sePoolInit d p) s = .next s' ∧
        (fits = true → s'.reg (.spool d) (o + 0x10) = BitVec.ofNat 32 n ∧ s'.reg (.spool d) (o + 0x14) = BitVec.ofNat 32 n ∧
          Word.bit (s'.reg (.spool d) (o + 0x18)) 1 = true ∧ Word.bit (s'.reg (.spool d) (o + 0x18)) 3 = false ∧
          (∀ i : Nat, i < n → bitOf (s'.hbm.read (map + i / 8)).toNat (i % 8) = true) ∧
          (∀ a : Nat, a < map ∨ map + ceilDiv n 8 ≤ a → s'.hbm.read a = s.hbm.read a)) ∧
        (fits = false → Word.bit (s'.reg (.spool d) (o + 0x18)) 3 = true ∧ Word.bit (s'.reg (.spool d) (o + 0x18)) 31 = false ∧
          s'.hbm = s.hbm) ∧
        (∀ v : Sett, s'.sett v = s.sett v)) ∧
    (∀ (d : Fin 2) (p : Fin 3), ∃ s', exec (.sePoolInitDone d p) s = .next s' ∧
      Word.bit (s'.reg (.spool d) (poolOff p.val + 0x18)) 1 = false ∧ s'.hbm = s.hbm) ∧
    (∀ (d : Fin 2) (p : Fin 3), ∃ s', exec (.minclr d p) s = .next s' ∧
      s'.reg (.spool d) (poolOff p.val + 0x14) = s.reg (.spool d) (poolOff p.val + 0x10) ∧ s'.hbm = s.hbm) ∧
    (∃ s', exec .kvInit s = .next s' ∧
      (s.kvInTier = true →
        s'.reg .kvpool 0x28 = BitVec.ofNat 32 s.kvPages ∧ s'.reg .kvpool 0x2C = BitVec.ofNat 32 s.kvHf ∧
        s'.reg .kvpool 0x30 = BitVec.ofNat 32 s.kvBf ∧ s'.kvCursor = 0 ∧ s'.kvEvict = 0 ∧
        Word.bit (s'.reg .kvpool 0) 1 = true ∧ Word.bit (s'.reg .kvpool 0) 2 = false ∧
        (∀ i : Nat, i < s.kvPages → bitOf (s'.hbm.read (s.kvMap 0 + i / 8)).toNat (i % 8) = true) ∧
        (∀ i : Nat, i < s.kvHf → bitOf (s'.hbm.read (s.kvMap 1 + i / 8)).toNat (i % 8) = true) ∧
        (∀ i : Nat, i < s.kvBf → bitOf (s'.hbm.read (s.kvMap 2 + i / 8)).toNat (i % 8) = true)) ∧
      (s.kvInTier = false → Word.bit (s'.reg .kvpool 0) 2 = true ∧ Word.bit (s'.reg .kvpool 0) 31 = false ∧ s'.hbm = s.hbm)) ∧
    (∃ s', exec .kvInitDone s = .next s' ∧ Word.bit (s'.reg .kvpool 0) 1 = false ∧ s'.hbm = s.hbm) ∧
    (∀ u : Sett, (s.sett u).freeze = none → ∃ s', exec (.labinv u) s = .next s' ∧ (s'.sett u).lab = [] ∧
      (s'.sett u).store = (s.sett u).store ∧ (∀ v : Sett, v ≠ u → s'.sett v = s.sett v))

/-- The pages of the KV pool (11 R286, R288, R293, R294, R300, Table 11-3): a header reads back as written; a page whose counts are
both 0 is reclaimed, its generation one higher, unless it is moving; an unpin of a page that the list names takes one pin, and a page
that is no longer the list's is KV_REF; a page's move to the Burrow ends with its bytes and its frame there and the HBM frame free, a
failed one with its spill frame free, and a page reclaimed meanwhile is returned then. -/
def Obligations.KvPagesAreCounted : Prop :=
  ∀ (s : State), s.memOk = true →
    (∀ (p : Nat) (h : PHdr), h.ref < 2 ^ 16 → h.pin < 2 ^ 16 → h.gen < 2 ^ 16 → h.tier < 4 → h.frame < 2 ^ 32 → h.last < 2 ^ 32 →
      (s.putHdr p h).kvHdr p = h ∧ (s.putHdr p h).regs = s.regs ∧
      (∀ a : Nat, a < s.kvHdrAddr p ∨ s.kvHdrAddr p + 16 ≤ a → (s.putHdr p h).hbm.read a = s.hbm.read a)) ∧
    (∀ (p : Nat) (h : PHdr), (¬ (h.ref = 0 ∧ h.pin = 0 ∧ h.alloc = true) → s.kvPutCounts p h = s.putHdr p h) ∧
      (h.ref = 0 → h.pin = 0 → h.alloc = true → h.moving = true →
        s.kvPutCounts p h = s.putHdr p { h with alloc := false, gen := (h.gen + 1) % 65536 }) ∧
      (h.ref = 0 → h.pin = 0 → h.alloc = true → h.moving = false → h.tier < 2 →
        (s.kvPutCounts p h).reg .kvpool 0x28 = s.reg .kvpool 0x28 + 1 ∧
        (s.kvPutCounts p h).reg .kvpool (0x2C + 4 * h.tier) = s.reg .kvpool (0x2C + 4 * h.tier) + 1)) ∧
    (∀ (u : Sett) (p g j : Nat) (l : List (Nat × Nat)),
      let h := s.kvHdr p
      (p < s.kvPages → h.alloc = true → h.gen = g → 1 ≤ h.pin →
        s.kvUnpinWork u ((p, g) :: l) j = (s.kvPutCounts p { h with pin := h.pin - 1 }).kvUnpinWork u l (j + 1)) ∧
      (¬ (p < s.kvPages ∧ h.alloc = true ∧ h.gen = g ∧ 1 ≤ h.pin) →
        s.kvUnpinWork u ((p, g) :: l) j = .fin (s.setReg (.kvw u) 0x08 (BitVec.ofNat 32 (j % 2 ^ 17))) Code.kvRef) ∧
      s.kvUnpinWork u [] j = .fin s Code.done) ∧
    (∀ (page : BitVec 28) (flt : Option (BitVec 8)) (m : Move), s.moves.find? (fun m => m.page == page.toNat) = some m →
      let h := s.kvHdr m.page
      let count (s' : State) (o : Nat) : Prop := s'.reg .kvpool o = s.reg .kvpool o + 1
      let same (s' : State) (o : Nat) : Prop := s'.reg .kvpool o = s.reg .kvpool o
      ∃ s', exec (.kvPageMoveDone page flt) s = .next s' ∧ s'.moves = s.moves.filter (fun x => x.page != m.page) ∧
        (flt ≠ some 0x22 → flt ≠ some 0x23 →
          s'.reg .kvpool 0x34 = BitVec.ofNat 32 (satAdd (s.reg .kvpool 0x34).toNat 1) ∧ count s' 0x2C ∧
          (h.alloc = true → same s' 0x28 ∧ same s' 0x30) ∧ (h.alloc = false → count s' 0x28 ∧ count s' 0x30) ∧
          (s.kvHdrAddr m.page + 16 ≤ s.kvMap 0 → m.bf < 2 ^ 32 →
            s'.kvHdr m.page = { h with tier := 1, frame := m.bf, moving := false }) ∧
          (s.kvFrameAddr 0 m.hf + s.kvFrame ≤ hbmSize → burrowBase ≤ s.kvFrameAddr 1 m.bf →
            s.kvFrameAddr 1 m.bf + s.kvFrame ≤ 0x20000000000 →
            (∀ i : Nat, i < s.kvFrame →
              s'.burrow.read (s.kvFrameAddr 1 m.bf - burrowBase + i) = s.hbm.read (s.kvFrameAddr 0 m.hf + i)) ∧
            (∀ a : Nat, a < s.kvFrameAddr 1 m.bf - burrowBase ∨ s.kvFrameAddr 1 m.bf - burrowBase + s.kvFrame ≤ a →
              s'.burrow.read a = s.burrow.read a))) ∧
        (flt = some 0x22 ∨ flt = some 0x23 → s'.burrow = s.burrow ∧ count s' 0x30 ∧
          (h.alloc = true → same s' 0x28 ∧ same s' 0x2C) ∧ (h.alloc = false → count s' 0x28 ∧ count s' 0x2C) ∧
          (s.kvHdrAddr m.page + 16 ≤ s.kvMap 0 → s'.kvHdr m.page = { h with moving := false }))) ∧
    (∀ (page : BitVec 28) (f : Option (BitVec 8)), s.moves.find? (fun m => m.page == page.toNat) = none →
      exec (.kvPageMoveDone page f) s = .next s)

/-- The six commands of a KV walker (11 R284, R292 to R299): a command starts where its checks pass and no earlier command of the
walker holds its sequence; the first whose page work can be done completes, with the status of that work; a KVMAP writes the list of
its pages to the store, a KVAPPEND of whole pages takes new pages for its tokens, a KVSHARE and a KVFREE check their ranges. -/
def Obligations.KvCommandsDoTheirPageWork : Prop :=
  ∀ (s : State) (u : Sett),
    let t := s.sett u
    (∀ q : QCmd, s.mayMismatch u = false → (t.engine 8).run = [] →
      (∀ (c : Status) (s1 : State), s.kvCheck u q = (c, s1) → s1.mayMismatch u = false →
        (c = Code.zeroExtent → startKv u s q = Start.zero s1) ∧
        (c ≠ Code.zeroExtent → c ≠ Code.done → startKv u s q = Start.fault s1 c) ∧
        (c = Code.done → ∀ (s2 : State) (c2 : Status), s1.kvWork u q = .fin s2 c2 → startKv u s q = .go s1 Code.done 1 0 none true) ∧
        (c = Code.done → ∀ s2 : State, s1.kvWork u q = .wait s2 → startKv u s q = .go (s2.kvRewind s1 u) Code.done 1 0 none true))) ∧
    (∀ (n : BitVec 32) (r : RCmd) (rest : List RCmd) (s1 : State) (c : Status), t.freeze = none → (t.engine 8).run = r :: rest →
      r.work = true → s.kvWork u r.q = .fin s1 c → c < 0x10 → ((s1.sett u).engine 8).run = r :: rest →
      ∃ s', exec (.commandCompletion u 8 n) s = .next s' ∧ ((s'.sett u).engine 8).run = rest ∧ ((s'.sett u).engine 8).last = c ∧
        (s'.sett u).store = (s1.sett u).store ∧ s'.hbm = s1.hbm ∧ s'.regs = s1.regs) ∧
    (∀ (q tc nc len step : Nat) (dl : BitVec 14) (pin : Bool) (s1 : State), s.kvNum u (kvSeq q) 4 = (some len, s1) →
      (∀ i, (kvRange tc nc).find? (fun i => decide (ceilDiv len 16 ≤ i)) = some i →
        ∃ s2, s.kvMapWork u q tc nc dl pin step = .fin s2 Code.bounds ∧ s2.hbm = s.hbm ∧ s2.burrow = s.burrow ∧
          s2.kvCursor = s.kvCursor ∧ s2.reg (.kvw u) 0x08 = BitVec.ofNat 32 (i % 2 ^ 17)) ∧
      (∀ (ps : List KvPage) (s2 : State), (kvRange tc nc).find? (fun i => decide (ceilDiv len 16 ≤ i)) = none →
        s1.kvMapPages s u q pin step (kvRange tc nc) [] = (.inl ps, s2) → ps.length < 2 ^ 32 →
        ∃ s3, s.kvMapWork u q tc nc dl pin step = .fin s3 Code.done ∧ s3.hbm = s2.hbm ∧ s3.regs = s2.regs ∧
          (∀ i : Nat, i < 4 → (s3.sett u).store.read (dl.toNat * 64 + i) = (leBytes 4 ps.length).getD i 0) ∧
          (∀ i : Nat, i < (s2.kvListBytes ps).length → (s3.sett u).store.read (dl.toNat * 64 + i) = (s2.kvListBytes ps).getD i 0))) ∧
    (∀ (q tc nc len pos0 issue step : Nat) (dl : BitVec 14) (s1 : State), s.kvSeqInfo u q = (some (len, pos0), s1) →
      (tc ≠ len ∨ 1048576 < len + nc ∨ 2 ^ 24 < pos0 + len + nc → s.kvAppendWork u q tc nc dl issue step = .fin s1 Code.bounds) ∧
      (tc = len → len + nc ≤ 1048576 → pos0 + len + nc ≤ 2 ^ 24 → len % 16 = 0 →
        (∀ s2 : State, s1.kvAllocate u issue (ceilDiv (len + nc) 16 - ceilDiv len 16) 1 step = .wait s2 →
          s.kvAppendWork u q tc nc dl issue step = .wait s2) ∧
        (∀ (s2 : State) (c : Status), s1.kvAllocate u issue (ceilDiv (len + nc) 16 - ceilDiv len 16) 1 step = .fail s2 c →
          ∃ s3, s.kvAppendWork u q tc nc dl issue step = .fin s3 c ∧ s3.hbm = s2.hbm ∧ s3.reg (.kvw u) 0x08 = BitVec.ofNat 32 (len / 16 % 2 ^ 17)) ∧
        (∀ (s2 : State) (l : List (Nat × Nat)), s1.kvAllocate u issue (ceilDiv (len + nc) 16 - ceilDiv len 16) 1 step = .got s2 l →
          ∃ s3, s.kvAppendWork u q tc nc dl issue step = .fin s3 Code.done))) ∧
    (∀ (q tc nc len pos0 : Nat) (s1 : State), s.kvSeqInfo u q = (some (len, pos0), s1) →
      tc % 16 ≠ 0 ∨ ((tc + nc) % 16 ≠ 0 ∧ tc + nc ≠ len) → s.kvFreeWork u q tc nc = .fin s1 Code.bounds) ∧
    (∀ (q tc issue step len pos0 : Nat) (s1 : State), s.kvSeqInfo u q = (some (len, pos0), s1) → ceilDiv len 16 ≤ tc / 16 →
      ∃ s2, s.kvCowWork u q tc issue step = .fin s2 Code.bounds ∧ s2.hbm = s.hbm ∧ s2.burrow = s.burrow ∧
        s2.reg (.kvw u) 0x08 = BitVec.ofNat 32 (tc / 16 % 2 ^ 17)) ∧
    (∀ (q nc ss len pos0 slen : Nat) (s1 s2 : State), s.kvSeqInfo u q = (some (len, pos0), s1) →
      s1.kvNum u (kvSeq ss) 4 = (some slen, s2) → len ≠ 0 ∨ q = ss ∨ slen < nc → s.kvShareWork u q nc ss = .fin s2 Code.bounds)


/-- TSIG, HCMD and DSTART at their start, and the end of a TSIG (05 R154 to R156; 08 R206; 13 R317, R318): a TSIG sets out one packet
for each target and completes when every one has been applied, those that wait at a frozen target too; an HCMD hands its block to the pier; a DSTART begins its channel's
program. Engines 4 to 7 complete by their own events. -/
def Obligations.SignalsAndBlocksLeaveTheSett : Prop :=
  ∀ (s : State) (u : Sett) (q : QCmd),
    let t := s.sett u
    (∀ (die : Bool) (sett : BitVec 7) (mg : BitVec 6) (tsg : BitVec 5) (inc : BitVec 16),
      let dst : List SettId := if mg = 0 then [settOf (if die then 1 else 0) sett.toNat] else s.members (dieIx u) mg.toNat
      (mg ≠ 0 → s.cfgBad (.tr (dieIx u)) = true → startTsig u die sett mg tsg inc s q = Start.fault s Code.cfgParity) ∧
      (mg = 0 ∨ s.cfgBad (.tr (dieIx u)) = false →
        startTsig u die sett mg tsg inc s q = .go { s with pkts := s.pkts ++ dst.map (fun v => ⟨u, v, tsg, inc, s.trOrd⟩), trOrd := s.trOrd + 1 }
          Code.done 1 0 none true)) ∧
    (∀ (n : BitVec 32) (r : RCmd) (rest : List RCmd) (w : Sett) (h : Hdr) (die : Bool) (sett : BitVec 7) (mg : BitVec 6) (tsg : BitVec 5)
        (inc : BitVec 16), t.freeze = none → (t.engine 9).run = r :: rest → r.q.cmd = .tsig w h die sett mg tsg inc → r.status < 0x10 →
      let onWay := (∃ p ∈ s.pkts, p.src = u) ∨ (∃ v : Sett, ∃ p ∈ (s.sett v).lateSig, p.2.2 = some u)
      (onWay → exec (.commandCompletion u 9 n) s = .next s) ∧
      (¬ onWay → ∃ s', exec (.commandCompletion u 9 n) s = .next s' ∧
        ((s'.sett u).engine 9).run = rest ∧ ((s'.sett u).engine 9).last = r.status ∧ (s'.sett u).store = t.store)) ∧
    (∀ (n : BitVec 32) (e : BitVec 4), 4 ≤ e.toNat → e.toNat ≤ 7 → exec (.commandCompletion u e n) s = .next s) ∧
    (∀ dh : BitVec 14, s.mayMismatch u = false →
      let b := t.store.load (dh.toNat * 64) 64
      let op := blk b 0 1
      (1 ≤ op → op ≤ 10 → startHcmd u dh s q = .go { s with hin := s.hin ++ [(.sett u, b)] } Code.done 1 0 none true) ∧
      (op = 0 ∨ 10 < op → ∃ s', startHcmd u dh s q = .go s' Code.done 1 0 none true ∧ s'.hin = s.hin ∧ s'.hbm = s.hbm ∧
        s'.hnext = s.hnext + 1)) ∧
    (∀ (k : Fin 4) (prog : BitVec 19) (pe : Bool) (pc : BitVec 4), ∃ s', startDstart u k prog pe pc s q = .go s' Code.done 1 0 none true ∧
      let h := s'.chan (.sett u k)
      h.st = .run ∧ h.pc = 0 ∧ h.prog = prog.toNat * 8 ∧ h.aor = (if pe then q.ctr pc else 0) ∧ h.loops = [] ∧ h.waiting = none ∧
      h.fence = none ∧ h.xfer = none ∧ h.fault = none ∧ h.last = (s.chan (.sett u k)).last ∧
      (∀ j : Fin 4, j ≠ k → s'.chan (.sett u j) = s.chan (.sett u j)) ∧ (s'.sett u).store = t.store ∧
      (∀ v : Sett, v ≠ u → s'.sett v = s.sett v) ∧ s'.hbm = s.hbm)

/-- The dispatch of the ten Holt commands (08 R202, R207; Table 08-2): each takes the oldest waiting block of its OP; a RESULT that is
misaligned or out of HBM, or a check that fails, leaves a command with that status and no sub-command; otherwise each Holt that holds
a byte of the primary ranges gets one. -/
def Obligations.HoltCommandsDispatch : Prop :=
  ∀ (s : State) (i : Instr) (op : Nat),
    (i, op) ∈ [(Instr.norm, 1), (Instr.update, 2), (Instr.gradsum, 3), (Instr.copy, 4), (Instr.reduce, 5), (Instr.fill, 6), (Instr.boxg, 7),
      (Instr.ckout, 8), (Instr.ckin, 9), (Instr.scomp, 10)] →
    (s.hin.find? (fun p => blk p.2 0 1 == op) = none → exec i s = .next s) ∧
    (∀ (iss : HIss) (b : List Byte), s.hin.find? (fun p => blk p.2 0 1 == op) = some (iss, b) →
      let res := blk b 4 6
      let s0 := { s with hin := s.hin.erase (iss, b) }
      let left (st : Status) (mute : Bool) : State :=
        { s0 with hcmds := s.hcmds ++ [⟨s.hnext, iss, b, [], [], [], some st, mute⟩], hnext := s.hnext + 1 }
      let c := s0.holtCheck (HIss.die iss) b
      (res % 64 ≠ 0 → exec i s = .next (left Code.align true)) ∧
      (res % 64 = 0 → inHbm res (resultBytes op) = false → exec i s = .next (left Code.bounds true)) ∧
      (res % 64 = 0 → inHbm res (resultBytes op) = true → c ≠ Code.done → exec i s = .next (left c false)) ∧
      (res % 64 = 0 → inHbm res (resultBytes op) = true → c = Code.done →
        let names := ((s0.primary (HIss.die iss) b).flatMap (fun r => holtsOf r.1 r.2)).eraseDups
        ∃ s', exec i s = .next s' ∧ s'.hcmds = s.hcmds ++ [⟨s.hnext, iss, b, names, names, [], none, false⟩] ∧
          s'.hnext = s.hnext + 1 ∧ s'.hin = s.hin.erase (iss, b) ∧ s'.hbm = s.hbm ∧ s'.regs = s.regs ∧ s'.setts = s.setts ∧
          (∀ k : Fin 128, k.val ∈ names → s.hq[k.val].length < 33 → s.hnext ∈ s'.hq[k.val]) ∧
          (∀ k : Fin 128, k.val ∉ names → s'.hq[k.val] = s.hq[k.val])))

/-- HOLT_SUB_COMMAND_END and HOLT_COMPLETION_STEP (08 R202, R207, R208, R226; Tables 08-3, 08-12): the running sub-command of a Holt
does its items in order up to the first that fails; it ends, is counted, and its queue moves up, unless remote lines of it are still
outstanding; the completion step of the oldest command none of whose sub-commands is left, and whose sett is not frozen, writes a result
that begins with its status and OP, and answers whoever issued it. -/
def Obligations.HoltCommandsEndAndComplete : Prop :=
  ∀ (s : State),
    (∀ (k : Fin 128) (flt : Option (BitVec 48 × BitVec 8)) (sp : List (BitVec 48)), s.hq[k.val] = [] →
      exec (.holtSubCommandEnd k ⟨flt, sp⟩) s = .next s) ∧
    (∀ (fs : List HFlt) (i : HItem) (is : List HItem) (r : HSub),
      runItems fs [] s r = (s, r) ∧
      (i.fault fs = none → (i.run s r).2.fail = none → runItems fs (i :: is) s r = runItems fs is (i.run s r).1 (i.run s r).2) ∧
      (∀ (a : Nat) (f : HFlt), i.fault fs = some (a, f) → (runItems fs (i :: is) s r).1.hbm = s.hbm ∧
        (runItems fs (i :: is) s r).2 = { r with fail := some (a, f.status), inj := f.inj, undone := (i :: is).map (·.box) })) ∧
    (∀ (k : Fin 128) (id : Nat) (rest : List Nat) (c : HCmd) (sp : List (BitVec 48)), s.hq[k.val] = id :: rest →
      s.hcmds.find? (fun c => c.id == id) = some c → c.subs.any (fun r => r.holt == k.val) = false →
      s.cfgBad (.ht ⟨k.val / 16, by omega⟩) = false → (∀ f ∈ s.hflt, f.holt ≠ k.val) →
      let out := runItems [] (s.holtWork (HIss.die c.iss) id c.block [] (sp.map (·.toNat)) k.val) s (HSub.start k.val)
      let far := out.1.roce.any (fun r => match r.who with
        | .holt i h _ _ => i == id && h == k.val
        | _ => false)
      ∃ s', exec (.holtSubCommandEnd k ⟨none, sp⟩) s = .next s' ∧ s'.hbm = out.1.hbm ∧
        (far = true → s'.hq = s.hq ∧ s'.hcmds = s.hcmds.map (fun x => if x.id = id then { x with subs := x.subs ++ [out.2] } else x)) ∧
        (far = false → s'.hcmds = s.hcmds.map (fun x => if x.id = id then
            { x with subs := x.subs ++ [out.2], left := x.left.erase k.val } else x) ∧
          s'.hq[k.val] = rest ++ (match s.hwait.find? (fun w => w.2 == k.val) with
            | some w => [w.1]
            | none => []) ∧
          (let o : Nat := if out.2.fail.isSome then 0x0C else 0x08
           s'.reg (.ht ⟨k.val / 16, by omega⟩) o =
             BitVec.ofNat 32 (satAdd (out.1.reg (.ht ⟨k.val / 16, by omega⟩) o).toNat 1)))) ∧
    (let ready (c : HCmd) : Prop := c.left = [] ∧ ∀ u : Sett, c.iss = .sett u → (s.sett u).freeze = none
     ((∀ c ∈ s.hcmds, ¬ ready c) → exec .holtCompletionStep s = .next s) ∧
     (∀ (before : List HCmd) (c : HCmd) (after : List HCmd), s.hcmds = before ++ c :: after → (∀ x ∈ before, ¬ ready x) → ready c →
      let p := State.holtResult { s with hcmds := s.hcmds.filter (fun x => x.id != c.id) } c
      let res := blk c.block 4 6
      p.1 = (match c.early with
        | some st => st
        | none => (c.failure.map (·.2)).getD Code.done) ∧
      (c.early = none ∨ c.mute = false → p.2.hbm.read res = BitVec.ofNat 8 p.1 ∧
        p.2.hbm.read (res + 1) = BitVec.ofNat 8 (blk c.block 0 1)) ∧
      (∃ s', exec .holtCompletionStep s = .next s' ∧ s'.hbm = p.2.hbm ∧ s'.hcmds = s.hcmds.filter (fun x => x.id != c.id) ∧
        (∀ (u : Sett) (r : RCmd) (rest : List RCmd), c.iss = .sett u → ((s.sett u).engine 9).run = r :: rest →
          ((s'.sett u).engine 9).run = rest ∧ (p.1 < 0x10 → ((s'.sett u).engine 9).last = p.1)) ∧
        (c.iss = .mgmt → s'.rdata = s.rdata.set 2 (0, p.1))) ∧
      (∀ (ep : Fin 2) (seq : Nat), c.iss = .ep ep seq →
        exec .holtCompletionStep s = .next (p.2.deferDone ep seq p.1 (if c.mute then [] else p.2.hbm.load res 64)))))

/-- The work of a Holt on one piece of a FILL, COPY, GRADSUM or REDUCE (08 R221, R222): the pattern, the source's bytes, or the slots
added one after another in order, each sum rounded to FP32, and nothing else; the count of bytes or elements is kept. -/
def Obligations.HoltLinesAreExact : Prop :=
  ∀ (s : State) (r : HSub) (b : List Byte) (a n : Nat), s.memOk = true →
    (n % 4 = 0 →
      (∀ i : Nat, i < n → (fillLine b a n s r).1.hbm.read (a + i) = (leBytes 4 (blk b 12 4)).getD (i % 4) 0) ∧
      (∀ x : Nat, x < a ∨ a + n ≤ x → (fillLine b a n s r).1.hbm.read x = s.hbm.read x) ∧ (fillLine b a n s r).2 = { r with a := r.a + n }) ∧
    (let dst := blk b 24 6 + (a - blk b 16 6)
     (∀ i : Nat, i < n → (copyLine b a n s r).1.hbm.read (dst + i) = s.hbm.read (a + i)) ∧
     (∀ x : Nat, x < dst ∨ dst + n ≤ x → (copyLine b a n s r).1.hbm.read x = s.hbm.read x) ∧ (copyLine b a n s r).2 = { r with a := r.a + n }) ∧
    (let slot (k : Nat) : Nat := s.hbm.num (blk b 16 6 + k * blk b 24 8 + (a - blk b 32 6)) 4
     let add (x y : Nat) : Nat := f32Bits ((f32Num x).add (f32Num y))
     let ks := List.range (blk b 12 4)
     (∀ i : Nat, i < 4 → (sumLine b false a 4 s r).1.hbm.read (a + i) =
       (leBytes 4 (ks.tail.foldl (fun v k => add v (slot k)) (slot 0))).getD i 0) ∧
     (∀ i : Nat, i < 4 → (sumLine b true a 4 s r).1.hbm.read (a + i) =
       (leBytes 4 (ks.foldl (fun v k => add v (slot k)) (s.hbm.num a 4))).getD i 0) ∧
     (∀ (keep : Bool) (x : Nat), x < a ∨ a + 4 ≤ x → (sumLine b keep a 4 s r).1.hbm.read x = s.hbm.read x) ∧
     (∀ keep : Bool, (sumLine b keep a 4 s r).2 = { r with a := r.a + 1 }))

/-- Recovery from bad words and links (04 R109 to R111; 07 R183 to R186, R194, R195, R198, R199; no injection permitted, and no access
or work-queue end waiting for a sett): a freeze ends with the first good attempt, or goes on with the next word found bad in it; it is
counted, and after three failed attempts a clean line is fetched again, any other word halting the sett; failed flits and accesses are
retried and counted, and one that fails for good is recorded, on the Holts' own path by the running sub-command. -/
def Obligations.MemoryErrorsRecover : Prop :=
  ∀ (s : State), (s.reg .injX 0).toNat % 2 = 0 → s.mems = [] → s.vd.ends = [] →
    (∀ (u : Sett) (ok : Bool) (n : BitVec 32),
      let t := s.sett u
      (t.freeze = none → exec (.parityRereadDone u ok n) s = .next s ∧ exec (.cleanLineRefetchDone u ok n) s = .next s ∧
        exec (.refetchTimeout u) s = .next s) ∧
      (∀ f : Freeze, t.freeze = some f →
        let bad := (f.injected && f.persist) || t.bad.contains f.bad || (f.bad == .flit && !ok)
        (f.refetch = 0 → bad = false → ∃ s', exec (.parityRereadDone u ok n) s = .next s' ∧
          (s'.sett u).freeze = t.frzMore.head? ∧ (s'.sett u).frzMore = t.frzMore.tail ∧
          (s'.sett u).frzCnt = satAdd t.frzCnt (f.bad.attempt n.toNat) ∧ (s'.sett u).st = t.st ∧
          (t.frzMore = [] → (s'.sett u).lateSig = []) ∧ (t.frzMore ≠ [] → (s'.sett u).lateSig = t.lateSig) ∧
          s'.reg (.ftS u) f.bad.counter = BitVec.ofNat 32 (satAdd (s.reg (.ftS u) f.bad.counter).toNat 1)) ∧
        (f.refetch = 0 → bad = true → f.attempts < 2 → ∃ s', exec (.parityRereadDone u ok n) s = .next s' ∧
          (s'.sett u).freeze = some { f with attempts := f.attempts + 1 }) ∧
        (f.refetch = 0 → bad = true → 2 ≤ f.attempts → (∃ x, t.cleanLine f.bad = some x) → ∃ s',
          exec (.parityRereadDone u ok n) s = .next s' ∧ (s'.sett u).freeze = some { f with attempts := 3, refetch := 1 } ∧
          s'.reg (.ftS u) 0x108 = BitVec.ofNat 32 (satAdd (s.reg (.ftS u) 0x108).toNat 1)) ∧
        (f.refetch = 0 → bad = true → 2 ≤ f.attempts → t.cleanLine f.bad = none → ∃ s',
          exec (.parityRereadDone u ok n) s = .next s' ∧ (s'.sett u).freeze = t.frzMore.head? ∧ (s'.sett u).st = .halted) ∧
        (f.refetch = 1 → ok = false → ∃ s', exec (.cleanLineRefetchDone u ok n) s = .next s' ∧
          (s'.sett u).freeze = t.frzMore.head? ∧ (s'.sett u).st = .halted) ∧
        (∀ line b : Nat, f.refetch = 1 → ok = true → s.memOk = true → t.cleanLine f.bad = some (line, b) → ∃ s',
          exec (.cleanLineRefetchDone u ok n) s = .next s' ∧ (s'.sett u).freeze = some { f with refetch := 2 } ∧
          (∀ i : Nat, i < 4096 → (s'.sett u).store.read (line * 4096 + i) = s.hbm.read (b * 4096 + i)) ∧
          Tbl.find (s'.sett u).clean line = some b) ∧
        (f.refetch = 1 → ∃ s', exec (.refetchTimeout u) s = .next s' ∧ (s'.sett u).freeze = t.frzMore.head? ∧
          (s'.sett u).st = .halted) ∧
        (f.refetch = 2 → t.bad.contains f.bad = false → ∃ s', exec (.parityRereadDone u ok n) s = .next s' ∧
          (s'.sett u).freeze = t.frzMore.head? ∧ (s'.sett u).frzCnt = satAdd t.frzCnt 5 ∧ (s'.sett u).st = t.st) ∧
        (f.refetch ≠ 1 → exec (.refetchTimeout u) s = .next s ∧ exec (.cleanLineRefetchDone u ok n) s = .next s) ∧
        (f.refetch = 1 → exec (.parityRereadDone u ok n) s = .next s))) ∧
    (∀ (u : Sett) (n : Fin 5) (v : Victim),
      (n = 0 → exec (.linkFlitReceived (.sett u) n v) s = .next s) ∧
      ((s.sett u).freeze = none → n ≠ 0 → exec (.linkFlitReceived (.sett u) n v) s =
        .next (s.modSett u (fun t => { t with freeze := some ⟨.flit, 9, 0, 0, false, false, none⟩ }))) ∧
      ((s.sett u).freeze ≠ none → n ≠ 0 → exec (.linkFlitReceived (.sett u) n v) s =
        .next (s.modSett u (fun t => { t with frzMore := t.frzMore ++ [⟨.flit, 9, 0, 0, false, false, none⟩] })))) ∧
    (∀ (l : LinkAt) (b : Blk) (src : Nat) (n : Fin 5),
      (∃ d c r, l = .router d c r ∧ b = .ftD d ∧ src = srcCode 1 d.val 0 9) ∨ (∃ d, l = .spanBB d ∧ b = .ftX ∧ src = srcCode 1 d.val 0 10) ∨
        (∃ d, l = .spanBX d ∧ b = .ftX ∧ src = srcCode 1 d.val 0 10) →
      ∃ s', exec (.linkFlitReceived l n .none) s = .next s' ∧
        s'.reg b 0x100 = BitVec.ofNat 32 (satAdd (s.reg b 0x100).toNat (min n.val 3)) ∧
        (n.val < 4 → s'.recs = s.recs) ∧
        (n.val = 4 → s'.reg b 0x104 = BitVec.ofNat 32 (satAdd (s.reg b 0x104).toNat 1) ∧
          s'.recs = s.recs ++ [⟨Code.parityHard, false, src, 0xFFFFFFFF, 0, s.cycle, 0, []⟩])) ∧
    (∀ (a : BitVec 48) (wr holt : Bool) (h : HbmEnd) (v : Victim), v = .none ∨ v = .loader → a.toNat < hbmSize →
      let die : Fin 2 := ⟨hbmStack a.toNat / 4 % 2, Nat.mod_lt _ (by decide)⟩
      let k := 16 * hbmStack a.toNat + hbmChan a.toNat
      let fails := (holt = false ∧ h = .parity 4) ∨ (wr = false ∧ h = .ecc 2)
      let taken := holt = true ∧ s.hq.toList.getD k [] ≠ []
      ∃ s', exec (.hbmAccessComplete a wr holt h v) s = .next s' ∧ s'.hbm = s.hbm ∧
        (∀ n : Fin 5, h = .parity n → holt = false → s'.reg (.ftD die) 0x10C = BitVec.ofNat 32 (satAdd (s.reg (.ftD die) 0x10C).toNat (min n.val 3))) ∧
        (fails → taken → s'.hflt = s.hflt ++ [⟨k, a.toNat, Code.hbmUncorr, false, false⟩] ∧ s'.recs = s.recs ∧
          s'.reg (.ftD die) 0x110 = s.reg (.ftD die) 0x110) ∧
        (fails → ¬ taken → s'.hflt = s.hflt ∧ s'.reg (.ftD die) 0x110 = BitVec.ofNat 32 (satAdd (s.reg (.ftD die) 0x110).toNat 1) ∧
          s'.recs = s.recs ++ [⟨Code.hbmUncorr, false, srcCode 1 die.val (hbmStack a.toNat % 4) 14, 0xFFFFFFFF, 0, s.cycle, a.toNat, []⟩]) ∧
        (fails → ¬ taken → v = .loader →
          s'.load = s.load.map (fun l => { l with flt := l.flt.orElse (fun _ => some Code.hbmUncorr) })) ∧
        (¬ fails ∨ taken ∨ v = .none → s'.load = s.load) ∧
        (¬ fails → s'.recs = s.recs ∧ s'.hflt = s.hflt) ∧
        (h = .corrected → wr = false →
          s'.reg (.ftD die) 0x108 = BitVec.ofNat 32 (satAdd (s.reg (.ftD die) 0x108).toNat 1))) ∧
    (∀ (a : BitVec 48) (wr ce : Bool) (n : Fin 5) (v : Victim), v = .none ∨ v = .loader → burrowBase ≤ a.toNat → a.toNat < 0x20000000000 →
      ∃ s', exec (.burrowAccessComplete a wr ce n v) s = .next s' ∧ s'.burrow = s.burrow ∧
        (n.val = 4 → v = .loader → s'.load = s.load.map (fun l => { l with flt := l.flt.orElse (fun _ => some Code.busErr) })) ∧
        (n.val < 4 ∨ v = .none → s'.load = s.load) ∧
        s'.reg .ftX 0x10C = BitVec.ofNat 32 (satAdd (s.reg .ftX 0x10C).toNat (min n.val 3)) ∧
        (n.val = 4 → s'.reg .ftX 0x110 = BitVec.ofNat 32 (satAdd (s.reg .ftX 0x110).toNat 1)) ∧
        (n.val < 4 → wr = false → ce = true → s'.reg .ftX 0x108 = BitVec.ofNat 32 (satAdd (s.reg .ftX 0x108).toNat 1))) ∧
    (∀ (d : Fin 2) (c : BitVec 2), exec (.hbmRefresh d c) s = .next s)

/-- TR_GT_INV, GT_INV_DRAINED and MULTICAST_DELIVERY (01 R20; 03 R80; 07 R192, R195, R198): an invalidation drops the cached entry, or
all, of its die and sets BUSY until every access that used a dropped entry has completed; a copy on its way lands in the member's store
and raises its counter, or lands up to the burst that fails on its link and faults the channel; it stays behind what its sett sent to that
member before it. That it waits for a remote read of its channel is the model's reading (log 24). -/
def Obligations.InvalidationsAndDeliveries : Prop :=
  ∀ (s : State),
    (∀ (d : Fin 2) (all : Bool) (g : BitVec 21), ∃ s', exec (.trGtInv d all g) s = .next s' ∧
      s'.gtc[d.val] = (if all then [] else s.gtc[d.val].filter (fun e => e.gran != g.toNat)) ∧
      (∀ e : Fin 2, e ≠ d → s'.gtc[e.val] = s.gtc[e.val]) ∧ Word.bit (s'.reg (.tr d) 0x104) 30 = true ∧ s'.hbm = s.hbm) ∧
    (∀ d : Fin 2,
      let open_ := ∃ (u : Sett) (k : Fin 4) (x : Xfer), dieIx u = d ∧ (s.chan (.sett u k)).xfer = some x ∧ x.stale = true ∧
        s.xferPending (.sett u k) = true
      (open_ → exec (.gtInvDrained d) s = .next s) ∧
      (¬ open_ → ∃ s', exec (.gtInvDrained d) s = .next s' ∧ Word.bit (s'.reg (.tr d) 0x104) 30 = false ∧ s'.gtc = s.gtc)) ∧
    (∀ (u m : Sett) (c : Fin 4) (fail : Option (BitVec 32)),
      let ch : Chan := .sett u c
      let put (st : Mem) (ps : List (Nat × Option Nat × List Byte)) : Mem :=
        ps.foldl (fun st p => if p.2.2.isEmpty then st else st.store p.1 p.2.2) st
      (s.mcast.find? (fun x => x.iss == u && x.ch == c.val && x.mem == m) = none → exec (.multicastDelivery u c m fail) s = .next s) ∧
      (∀ x : McDel, s.mcast.find? (fun x => x.iss == u && x.ch == c.val && x.mem == m) = some x →
        let held := (s.sett m).freeze ≠ none ∨ (∃ r ∈ s.roce, r.of ch = true ∧ r.write = false) ∨
          (∃ p ∈ s.pkts, p.src = u ∧ p.dst = m ∧ p.ord < x.ord) ∨ (∃ y ∈ s.mcast, y.iss = u ∧ y.mem = m ∧ y.ord < x.ord)
        (held → exec (.multicastDelivery u c m fail) s = .next s) ∧
        (¬ held → s.mayMismatch m = false → fail = none → ∃ s', exec (.multicastDelivery u c m fail) s = .next s' ∧
          s'.mcast = s.mcast.erase x ∧ (s'.sett m).store = put (s.sett m).store x.parts ∧
          (∀ k : Fin 32, (s'.sett m).sig[k.val] =
            if x.msig.map (BitVec.ofNat 5) = some (BitVec.ofNat 5 k.val) then (sigBump (s.sett m).sig[k.val] 1).1 else (s.sett m).sig[k.val]) ∧
          (∀ v : Sett, v ≠ m → v ≠ u → s'.sett v = s.sett v) ∧ (u ≠ m → (s'.sett u).store = (s.sett u).store) ∧
          (s'.chan ch).st = (s.chan ch).st ∧ (s'.chan ch).fault = (s.chan ch).fault) ∧
        (∀ i : BitVec 32, ¬ held → s.mayMismatch m = false → fail = some i → (s.chan ch).st = .run →
          ∃ s', exec (.multicastDelivery u c m fail) s = .next s' ∧
          s'.mcast = s.mcast.erase x ∧ (s'.sett m).store = put (s.sett m).store (x.parts.take i.toNat) ∧
          (s'.sett m).sig = (s.sett m).sig ∧ (s'.chan ch).st = .aborting ∧
          (s'.chan ch).fault = some (Code.parityHard, windowOf m + ((x.parts[i.toNat]?).map (·.1)).getD 0))))

/-- Module memory (07 R178 to R180, R187): bytes written to a range outside the translated one, and no other byte of HBM, the Burrow
or a sett store, are what a later read of the range returns; a range behind a remote window lies within that window's remote memory. -/
def Obligations.ModuleMemoryReadsWhatWasWritten : Prop :=
  ∀ (s s1 : State) (die : Option (Fin 2)) (a : Nat) (bs : List Byte), s.memOk = true → bs ≠ [] →
    (a + bs.length ≤ transBase ∨ settBase ≤ a ∨
      (a + bs.length ≤ settBase ∧ (winOf a).1 = (winOf (a + bs.length - 1)).1 ∧
        ∃ q va k, s.place a true = some (.remote q va k) ∧ va + bs.length ≤ 2 ^ 64)) → s.writeMod die a bs = (true, s1) →
    s1.readMod die a bs.length = (some bs, s1) ∧ s1.memOk = true ∧ s1.regs = s.regs ∧
    (∀ x : Nat, x < hbmSize → (x < a ∨ a + bs.length ≤ x) → s1.hbm.read x = s.hbm.read x) ∧
    (∀ x : Nat, (burrowBase + x < a ∨ a + bs.length ≤ burrowBase + x) → s1.burrow.read x = s.burrow.read x) ∧
    (∀ (u : Sett) (x : Nat), x < storeSize →
      (let w := settBase + dieOf u * 0x80000000 + numOf u * 0x1000000 + x
       w < a ∨ a + bs.length ≤ w) → (s1.sett u).store.read x = (s.sett u).store.read x)


/-- The words of a channel's program are checked before they act (13 R317 to R319): a channel that does not run, or is frozen, or whose
words are another instruction, takes no notice; a program word out of reach stops the channel with BOUNDS at that word; a reserved OP or
a field out of range with PLAN_MISMATCH. The failing address that each records is the model's reading (log 24). -/
def Obligations.DmaWordsAreChecked : Prop :=
  ∀ (s : State) (c : Chan) (w0 w1 w2 w3 : BitVec 64) (i : Instr) (op : Nat) (ws : List (BitVec 64)) (ok : Bool),
    (i, op, ws, ok) ∈
      [(Instr.move c w0 w1 w2 w3, 1, [w0, w1, w2, w3], moveOk w0 w1 w2 w3), (Instr.lmove c w0 w1 w2 w3, 7, [w0, w1, w2, w3], lmoveOk w0 w1 w2),
       (Instr.dmaWait c w0, 4, [w0], bitsOf w0.toNat 59 41 == 0 && bitsOf w0.toNat 39 38 == 0 && bitsOf w0.toNat 31 16 == 0 &&
         bitsOf w0.toNat 15 0 != 0 && ((match c with
           | .sys _ => true
           | .sett _ _ => false) || decide ((w0.extractLsb' 32 6).toNat < 32))),
       (Instr.dmaLoop c w0, 2, [w0], bitsOf w0.toNat 59 16 == 0 && decide ((s.chan c).loops.length < 2)),
       (Instr.endloop c w0, 3, [w0], bitsOf w0.toNat 59 32 == 0 && !(s.chan c).loops.isEmpty),
       (Instr.signal c w0, 5, [w0], signalOk c w0), (Instr.dmaHalt c w0, 6, [w0], bitsOf w0.toNat 59 0 == 0)] →
    let h := s.chan c
    let stop (st a : Nat) : State :=
      s.modChan c (fun h => { h with st := .aborting, waiting := none, fence := none, fault := some (st, a) })
    (h.st ≠ .run ∨ (dmaOp w0 ≠ op ∧ 1 ≤ dmaOp w0 ∧ dmaOp w0 ≤ 7) → exec i s = .next s) ∧
    (s.chanFrozen c = true → (∀ u : Sett, s.mayMismatch u = false) → exec i s = .next s) ∧
    (h.st = .run → s.chanFrozen c = false → (dmaOp w0 = op ∨ dmaOp w0 = 0 ∨ 8 ≤ dmaOp w0) →
      (s.progInside c h.pc (8 * ws.length) = false → exec i s = .next (stop Code.bounds (s.fetchEnd c h.pc ws.length))) ∧
      (s.progInside c h.pc (8 * ws.length) = true → (∀ u : Sett, s.mayMismatch u = false) → (dmaOp w0 ≠ op ∨ ok = false) →
        ∃ s', exec i s = .next s' ∧
          s'.chan c = { (stop Code.planMismatch 0).chan c with checked := (s'.chan c).checked } ∧ s'.hbm = s.hbm ∧ s'.regs = s.regs ∧ s'.burrow = s.burrow))

/-- MOVE and LMOVE (03 R80, R88; 13 R320 to R323): a transfer every burst of which has a place goes on at the next instruction; one of a
single burst that does not overlap itself puts the source's bytes at the destination; a burst whose source has no place, or that writes the
spill area of a sett whose tiles are spilled, stops the channel with BOUNDS; a multicast write sends every member its copy; groups and
lists are refused to a system channel, and a list that leaves the store is BOUNDS. Which address such a fault records, that a transfer
waits for failed bursts and remote accesses of the one before, and that an earlier write no SIGNAL has waited for may still be unseen, are
the model's readings (log entries 24, 54). -/
def Obligations.DmaTransfersMoveBytes : Prop :=
  ∀ (s : State) (c : Chan) (w0 w1 w2 w3 : BitVec 64), s.memOk = true → (∀ u : Sett, s.mayMismatch u = false) →
    (s.chan c).st = .run → s.chanFrozen c = false → s.progInside c (s.chan c).pc 32 = true →
    let h := s.chan c
    let g := bitsOf w0.toNat 56 51
    let far (l : Loc) : Prop := ∃ q va k, l = .remote q va k
    let placed (bs : List Burst) : Prop := ∀ b ∈ bs, isTrans b.src = false ∧ isTrans b.dst = false ∧
      (∃ l, s.place b.src false = some l) ∧ (∃ l, s.place b.dst true = some l)
    let stops (i : Instr) (st a : Nat) : Prop := ∃ s', exec i s = .next s' ∧ (s'.chan c).st = .aborting ∧
      (s'.chan c).fault = some (st, a) ∧ s'.hbm = s.hbm ∧ s'.burrow = s.burrow
    let goesOn (i : Instr) (bs : List Burst) : Prop := ∃ s', exec i s = .next s' ∧ (s'.chan c).st = .run ∧ (s'.chan c).pc = h.pc + 32 ∧
      (s'.chan c).aor = h.aor ∧ (s'.chan c).loops = h.loops ∧ ∃ x, (s'.chan c).xfer = some x ∧ x.bursts = bs
    let moves (i : Instr) (bs : List Burst) : Prop :=
      (s.burstsHeld c bs = false → s.xferOpen c false = false → s.intoSpill c bs = none → placed bs → goesOn i bs) ∧
      (∀ b : Burst, s.burstsHeld c bs = false → s.xferOpen c false = false → s.intoSpill c bs = some b → stops i Code.bounds b.dst) ∧
      (∀ b : Burst, s.burstsHeld c bs = false → s.xferOpen c false = false → s.intoSpill c bs = none → bs = [b] → isTrans b.src = false →
        s.place b.src false = none → stops i Code.bounds b.src) ∧
      (∀ (b : Burst) (ls ld : Loc), s.burstsHeld c bs = false → s.xferOpen c false = false → s.intoSpill c bs = none → bs = [b] →
        s.overlaps c bs = false → h.unfenced = [] → h.xfer = none → 0 < b.n →
        s.locate (chanDie c) b.src false = (some ls, s) → s.locate (chanDie c) b.dst true = (some ld, s) → ¬ far ls → ¬ far ld →
        ∃ s', exec i s = .next s' ∧ s'.peek ld b.n = s.peek ls b.n ∧ (s'.chan c).st = .run ∧ (s'.chan c).pc = h.pc + 32 ∧
          s'.regs = s.regs ∧ s'.freeCtr = s.freeCtr)
    (dmaOp w0 = 1 → moveOk w0 w1 w2 w3 = true →
      let i := Instr.move c w0 w1 w2 w3
      let bs := moveBursts h.aor w0 w1 w2 w3
      (g = 0 → moves i bs) ∧
      (g = 0 → (∀ b ∈ bs, nearMem b.src b.n ∧ nearMem b.dst b.n) → s.xferOpen c false = false → goesOn i bs) ∧
      (∀ k : Fin 64, c = .sys k → g ≠ 0 → stops i Code.bounds ((bs.map (·.dst)).headD 0)) ∧
      (∀ (u : Sett) (k : Fin 4) (b : Burst), c = .sett u k → g ≠ 0 → bs = [b] →
        (ownStore u b.dst b.n = none → stops i Code.bounds b.dst) ∧
        (∀ ls : Loc, (ownStore u b.dst b.n).isSome = true → s.burstsHeld c bs = false → s.xferOpen c true = false →
          s.mcOverlaps u c bs (s.members (dieIx u) g) = false → h.unfenced = [] → h.xfer = none →
          s.cfgBad (.tr (dieIx u)) = false → s.locate (chanDie c) b.src false = (some ls, s) → ¬ far ls →
          ∃ s', exec i s = .next s' ∧ (s'.chan c).pc = h.pc + 32 ∧ (s'.chan c).st = .run ∧ s'.hbm = s.hbm ∧ s'.trOrd = s.trOrd + 1 ∧
            s'.mcast = s.mcast ++ (s.members (dieIx u) g).map (fun m =>
              ⟨u, k.val, m, [((ownStore u b.dst b.n).getD 0, (match ls with
                | .hbm a => some a
                | _ => none), s.peek ls b.n)], some (bitsOf w0.toNat 50 46), s.trOrd, 0⟩)))) ∧
    (dmaOp w0 = 7 → lmoveOk w0 w1 w2 = true →
      let i := Instr.lmove c w0 w1 w2 w3
      (∀ k : Fin 64, c = .sys k → stops i Code.bounds 0) ∧
      (∀ (u : Sett) (k : Fin 4), c = .sett u k →
        let list := bitsOf w1.toNat 21 0
        let j0 := bitsOf w1.toNat 47 32
        let count := bitsOf w1.toNat 63 48
        let t := s.sett u
        (storeSize < list + 16 ∨ t.word list < j0 + count ∨ storeSize < list + 16 + 16 * (j0 + count) →
          stops i Code.bounds (windowOf u + list)) ∧
        (list + 16 ≤ storeSize → j0 + count ≤ t.word list → list + 16 + 16 * (j0 + count) ≤ storeSize →
          let bs := (List.range count).flatMap (fun n =>
            let e := list + 16 + 16 * (j0 + n)
            let la := ((if bitOf w0.toNat 58 then t.store.num (e + 8) 5 * 256 else t.store.num e 6) + bitsOf w3.toNat 31 0) % 2 ^ 48
            let oa := add48 (bitsOf w2.toNat 47 0) (h.aor + n * signedOf 32 (bitsOf w3.toNat 63 32))
            if bitOf w0.toNat 59 then rowBursts oa la (bitsOf w0.toNat 23 0) else rowBursts la oa (bitsOf w0.toNat 23 0))
          moves i bs ∧ ((∀ b ∈ bs, nearMem b.src b.n ∧ nearMem b.dst b.n) → s.xferOpen c false = false → goesOn i bs))))

/-- LOOP, ENDLOOP, WAIT, SIGNAL and HALT of a channel's program, and the events that end their waits (01 R20; 13 R324 to R327). A body
stepped over is shown where the next word is its ENDLOOP, and where the step over it finds its end. -/
def Obligations.DmaControlWordsTakeEffect : Prop :=
  ∀ (s : State) (c : Chan) (w : BitVec 64),
    let h := s.chan c
    let v := w.toNat
    let sg := w.extractLsb' 32 6
    (h.st = .run → s.chanFrozen c = false → s.progInside c h.pc 8 = true → (∀ u : Sett, s.mayMismatch u = false) →
      (dmaOp w = 2 → bitsOf v 59 16 = 0 → h.loops.length < 2 →
        (0 < bitsOf v 15 0 → ∃ s', exec (.dmaLoop c w) s = .next s' ∧ s'.chan c =
          { h with loops := (h.pc + 8, bitsOf v 15 0 - 1) :: h.loops, pc := h.pc + 8, checked := 0 } ∧ s'.hbm = s.hbm) ∧
        (bitsOf v 15 0 = 0 → s.progInside c (h.pc + 8) 8 = true → bitsOf (s.progWord c (h.pc + 8)) 63 60 = 3 →
          ∃ s', exec (.dmaLoop c w) s = .next s' ∧ s'.chan c = { h with pc := h.pc + 16, checked := 0 } ∧ s'.hbm = s.hbm) ∧
        (∀ o : Nat, bitsOf v 15 0 = 0 → (s.skipBody c h.loops.length (2 ^ 39) (h.pc + 8) 0 []).1 = .found o →
          ∃ s', exec (.dmaLoop c w) s = .next s' ∧ s'.chan c = { h with pc := o, checked := 0 } ∧ s'.hbm = s.hbm)) ∧
      (∀ (o r : Nat) (ls : List (Nat × Nat)), dmaOp w = 3 → bitsOf v 59 32 = 0 → h.loops = (o, r) :: ls →
        let on : DmaCh := { h with aor := add48 h.aor (signedOf 32 (bitsOf v 31 0)), checked := 0 }
        ∃ s', exec (.endloop c w) s = .next s' ∧ s'.hbm = s.hbm ∧
          s'.chan c = (if 0 < r then { on with pc := o, loops := (o, r - 1) :: ls } else { on with pc := h.pc + 8, loops := ls })) ∧
      (dmaOp w = 4 → bitsOf v 59 41 = 0 → bitsOf v 39 38 = 0 → bitsOf v 31 16 = 0 → bitsOf v 15 0 ≠ 0 →
        ((∃ k, c = .sys k) ∨ sg.toNat < 32) →
        (bitsOf v 15 0 ≤ s.chanSig c sg → s.waitBehind c sg = false → ∃ s', exec (.dmaWait c w) s = .next s' ∧ (s'.chan c).st = .run ∧
          (s'.chan c).pc = h.pc + 8 ∧
          s'.chanSig c sg = (if bitOf v 40 then s.chanSig c sg else s.chanSig c sg - bitsOf v 15 0)) ∧
        (s.chanSig c sg < bitsOf v 15 0 ∨ s.waitBehind c sg = true → ∃ s', exec (.dmaWait c w) s = .next s' ∧
          s'.chan c = { h with st := .wait, waiting := some (sg, bitsOf v 15 0, bitOf v 40), checked := 0 } ∧
          s'.chanSig c sg = s.chanSig c sg)) ∧
      (dmaOp w = 5 → signalOk c w = true → ∃ s', exec (.signal c w) s = .next s' ∧
        s'.chan c = { h with st := .fence, fence := some w, checked := 0 } ∧ s'.xsig = s.xsig ∧ s'.hbm = s.hbm) ∧
      (dmaOp w = 6 → bitsOf v 59 0 = 0 → ∃ s', exec (.dmaHalt c w) s = .next s' ∧
        s'.chan c = { h with st := .fence, fence := some w, checked := 0 } ∧ s'.hbm = s.hbm)) ∧
    (∀ (n : BitVec 6) (k : Nat) (peek : Bool), h.st = .wait → h.waiting = some (n, k, peek) →
      (s.chanSig c n < k ∨ s.waitBehind c n = true ∨ s.chanFrozen c = true → exec (.dmaWaitSatisfied c) s = .next s) ∧
      (k ≤ s.chanSig c n → s.waitBehind c n = false → s.chanFrozen c = false →
        ∃ s', exec (.dmaWaitSatisfied c) s = .next s' ∧ (s'.chan c).st = .run ∧ (s'.chan c).waiting = none ∧
          (s'.chan c).pc = h.pc + 8 ∧ s'.chanSig c n = if peek then s.chanSig c n else s.chanSig c n - k)) ∧
    (∀ (u : Sett) (k : Fin 4) (n : BitVec 6), c = .sett u k →
      (s.waitBehind c n = true ↔
        ((s.sett u).st = .wait ∧ ∃ g amt peek, (s.sett u).hold = .waits g amt peek ∧ g.toNat = n.toNat ∧ amt ≤ s.chanSig c n) ∨
        ∃ (j : Fin 4) (m : Nat) (peek : Bool), j < k ∧ (s.chan (.sett u j)).st = .wait ∧
          (s.chan (.sett u j)).waiting = some (n, m, peek) ∧ m ≤ s.chanSig c n)) ∧
    (h.st = .fence → h.fence = some w →
      (s.chanPending c = true ∨ s.chanFrozen c = true ∨ s.xferOpen c false = true → exec (.dmaFenceDone c) s = .next s) ∧
      (s.chanPending c = false → s.chanFrozen c = false → s.xferOpen c false = false →
        (dmaOp w = 6 → ∃ s', exec (.dmaFenceDone c) s = .next s' ∧ (s'.chan c).st = .idle ∧ (s'.chan c).last = Code.done ∧
          (∀ k, c = .sys k → (s'.chan c).irq = true ∧ Irq.chan c ∈ s'.irqs) ∧
          (∀ u k r rest, c = .sett u k → ((s.sett u).engine (chanEng k)).run = r :: rest →
            ((s'.sett u).engine (chanEng k)).run = rest ∧ ((s'.sett u).engine (chanEng k)).last = Code.done)) ∧
        (dmaOp w = 5 → s.signalHeld c w = true → exec (.dmaFenceDone c) s = .next s) ∧
        (dmaOp w = 5 → s.signalHeld c w = false → ∃ s', exec (.dmaFenceDone c) s = .next s' ∧ (s'.chan c).st = .run ∧
          (s'.chan c).pc = h.pc + 8 ∧ (s'.chan c).fence = none ∧
          (bitOf v 47 = true → s'.xsig = s.xsig.set sg.toNat (sigBump s.xsig[sg.toNat] (bitsOf v 15 0)).1) ∧
          (bitOf v 47 = false → s'.xsig = s.xsig))))

/-- Channels start, abort, retry and stop (13 R317, R328, R329; 15 Table 15-4): a START of an idle channel begins its program, of a
running one does nothing; an ABORT issues no new burst and leaves a HALT that waits; a burst that fails is issued again up to
DM_CH_RETRY.MAX times and then stops the channel; once drained, the channel is HALTED with its status, address, residue and record. -/
def Obligations.DmaChannelsStartAndStop : Prop :=
  ∀ (s : State),
    (∀ (k : Fin 64) (r : Requester),
      let h := s.chan (.sys k)
      let p := (s.reg .dmX (0x40 * k.val + 0x20)).toNat + fieldOf (s.reg .dmX (0x40 * k.val + 0x24)) 15 0 * 2 ^ 32
      let blocked := 56 ≤ k.val ∧ Word.bit (s.reg .intake 0) 0 = true
      (blocked ∨ (h.st ≠ .idle ∧ h.st ≠ .halted) → exec (.dmaChannelStart k r) s = .next s) ∧
      (¬ blocked → (h.st = .idle ∨ h.st = .halted) → ∃ s', exec (.dmaChannelStart k r) s = .next s' ∧
        (s'.chan (.sys k)).prog = p ∧ (s'.chan (.sys k)).pc = 0 ∧ (s'.chan (.sys k)).aor = s.sysAor k ∧ (s'.chan (.sys k)).loops = [] ∧
        (s'.chan (.sys k)).owner = (match r with
          | .endA => .reg 0
          | .endB => .reg 1
          | .mgmt => .none) ∧
        (p % 8 = 0 → (s'.chan (.sys k)).st = .run) ∧
        (p % 8 ≠ 0 → (s'.chan (.sys k)).st = .aborting ∧ (s'.chan (.sys k)).fault = some (Code.align, p)) ∧
        (∀ j : Fin 64, j ≠ k → s'.chan (.sys j) = s.chan (.sys j)) ∧ s'.setts = s.setts)) ∧
    (∀ c : Chan,
      let h := s.chan c
      (s.chanFrozen c = true → exec (.dmaChannelAbort c) s = .next s) ∧
      (s.chanFrozen c = false → ∃ s', exec (.dmaChannelAbort c) s = .next s' ∧
        (h.st = .run ∨ h.st = .wait → (s'.chan c).st = .aborting ∧ (s'.chan c).fault = h.fault ∧ (s'.chan c).xfer = h.xfer) ∧
        (∀ w, h.st = .fence → h.fence = some w → dmaOp w = 6 → s'.chan c = h) ∧
        (∀ w, h.st = .fence → h.fence = some w → dmaOp w ≠ 6 → (s'.chan c).st = .aborting ∧ (s'.chan c).fence = none) ∧
        (h.st = .idle ∨ h.st = .halted ∨ h.st = .aborting → s'.chan c = h))) ∧
    (∀ (c : Chan) (i : BitVec 32) (rd : Bool) (x : Xfer) (b : Burst),
      let h := s.chan c
      (s.chanFrozen c = true ∨ h.xfer = none ∨ h.st = .idle ∨ h.st = .halted → exec (.burstBusErr c i rd) s = .next s) ∧
      (s.chanFrozen c = false → h.xfer = some x → x.bursts[i.toNat]? = some b → x.multi = false →
        h.st ≠ .idle → h.st ≠ .halted → h.st ≠ .aborting →
        (Tbl.get x.tries i.toNat 0 < h.retryMax → ∃ s', exec (.burstBusErr c i rd) s = .next s' ∧
          (s'.chan c).retry = satAdd h.retry 1 ∧
          (isTrans b.src = false → isTrans b.dst = false → (∃ l, s.place b.src false = some l) → (∃ l, s.place b.dst true = some l) →
            (s'.chan c).st = h.st)) ∧
        (h.retryMax ≤ Tbl.get x.tries i.toNat 0 → ∃ s', exec (.burstBusErr c i rd) s = .next s' ∧ (s'.chan c).st = .aborting ∧
          (s'.chan c).fault = some (Code.busErr, if rd then b.src else b.dst)))) ∧
    (∀ (c : Chan) (kept : BitVec 32),
      let h := s.chan c
      let status := (h.fault.map (·.1)).getD Code.aborted
      (h.st ≠ .aborting ∨ s.chanPending c = true ∨ s.chanFrozen c = true → exec (.dmaAbortDrained c kept) s = .next s) ∧
      (h.st = .aborting → s.chanPending c = false → s.chanFrozen c = false → ∃ s', exec (.dmaAbortDrained c kept) s = .next s' ∧
        (s'.chan c).st = .halted ∧ (s'.chan c).last = status ∧ (s'.chan c).irq = true ∧ Irq.chan c ∈ s'.irqs ∧ (s'.chan c).xfer = none ∧
        (s'.chan c).faddr = (h.fault.map (·.2)).getD h.faddr ∧
        (h.xfer = none → (s'.chan c).pc = h.pc ∧ (s'.chan c).aor = h.aor ∧ (s'.chan c).rowLeft = 0 ∧ (s'.chan c).byteLeft = 0 ∧
          s'.hbm = s.hbm) ∧
        (∀ x, h.xfer = some x → x.multi = false → (∀ r ∈ s.roce, r.of c = false) →
          let left := x.residue (min kept.toNat x.undo.length)
          left.2 ≠ 0 → (s'.chan c).pc = x.pc ∧ (s'.chan c).aor = x.aor ∧ (s'.chan c).loops = x.loops ∧
            (s'.chan c).rowLeft = left.1 % 65536 ∧ (s'.chan c).byteLeft = left.2 % 2 ^ 24) ∧
        (∃ (r : EvRec) (l : List EvRec), s'.recs = s.recs ++ r :: l ∧ r.status = status ∧ r.addr = (h.fault.map (·.2)).getD 0)))

/-- The semaphore bank (15 R365, R366, R368): a read of a free semaphore acquires it, by its owner reads 0, by another returns the
owner with SEM_DENIED; a write of 0 by the owner releases it, any other write is ignored and sets BADREL; SM_FORCE makes one event
record and releases whoever owns it. No other semaphore changes. -/
def Obligations.SemaphoresHaveOneOwner : Prop :=
  ∀ (s : State) (n : Fin 32) (r : Requester),
    let v := s.reg .sm (4 * n.val)
    let me : Nat := match r with
      | .endA => 1
      | .endB => 2
      | .mgmt => 3
    let ix : Fin 3 := match r with
      | .endA => 0
      | .endB => 1
      | .mgmt => 2
    let rest (s' : State) : Prop := (∀ m : Fin 32, m ≠ n → s'.reg .sm (4 * m.val) = s.reg .sm (4 * m.val)) ∧ s'.setts = s.setts ∧
      s'.hbm = s.hbm
    let told (s' : State) : Prop := ∀ e : Fin 2, bitOf (s.eps[e.val]).mask 5 = true →
      ∃ (f : EthFrame) (k : Nat), f.port = e ∧ f.body = .note 5 k Code.done n.val s.cycle ∧ (Tx.eth f ∈ s'.tx ∨ f ∈ s'.txWait)
    (∃ s', exec (.smSemRead n r) s = .next s' ∧ rest s' ∧
      (v = 0 → s'.rdata[ix.val] = (0, Code.done) ∧ (s'.reg .sm (4 * n.val)).toNat = me) ∧
      (v.toNat = me → s'.rdata[ix.val] = (0, Code.done) ∧ s'.reg .sm (4 * n.val) = v) ∧
      (v ≠ 0 → v.toNat ≠ me → s'.rdata[ix.val] = (v, Code.semDenied) ∧ s'.reg .sm (4 * n.val) = v)) ∧
    (∀ w : BitVec 32, ∃ s', exec (.smSemWrite n r w) s = .next s' ∧ rest s' ∧
      (w = 0 → v.toNat = me → s'.reg .sm (4 * n.val) = 0 ∧ s'.reg .sm 0x84 = s.reg .sm 0x84 ∧ told s') ∧
      (w ≠ 0 ∨ v.toNat ≠ me → s'.reg .sm (4 * n.val) = v ∧ Word.bit (s'.reg .sm 0x84) 0 = true ∧ s.sendsNothing s')) ∧
    (∃ s', exec (.smForce n) s = .next s' ∧ rest s' ∧ s'.reg .sm (4 * n.val) = 0 ∧
      (∃ e : EvRec, s'.recs = s.recs ++ [e] ∧ e.status = Code.done ∧ e.src = srcCode 3 0 0 17) ∧
      (v = 0 → s.sendsNothing s') ∧ (v ≠ 0 → told s'))


/-- The window and the epoch of a control endpoint (15 R354 to R359, R364; 18 R425): no answer from a port that is down or not enabled, and
none to a source that EN_EP_PEER turns away, whose datagram is dropped; CFG_PARITY from a halted port, ABORTED and a count for another epoch; NOT_READY without room; a duplicate is counted and its response
repeated as DONE_REPEAT, its command not carried out again; a number below the window answers BOUNDS. -/
def Obligations.EndpointRequestsFollowTheWindow : Prop :=
  ∀ (s : State) (ep : Fin 2) (q : Req) (flt : Option (BitVec 8)) (i : Instr) (op : Nat) (can : Bool),
    (i, op, can) ∈
      [(Instr.ctNop ep q, 0x01, true), (Instr.regRead ep q, 0x02, true), (Instr.regWrite ep q, 0x03, true),
       (Instr.memRead ep ⟨q, flt⟩, 0x04, true), (Instr.memWrite ep ⟨q, flt⟩, 0x05, true),
       (Instr.loadPlan ep q, 0x10, s.sc.stage == .run), (Instr.holt (epReq ep) q, 0x11, s.sc.stage == .run), (Instr.dmaStart ep q, 0x12, true),
       (Instr.attest ep q, 0x13, true), (Instr.qpModify ep q, 0x20, true), (Instr.qpQuery ep q, 0x21, true), (Instr.notifySet ep q, 0x30, true)] →
    let e := s.eps[ep.val]
    let b := portBlk ep
    let bad := s.cfgBad b
    let heard := s.ctOn ep = true ∧ s.stranger ep q.src.toNat = false
    let once (s : State) (st : Status) : State := s.sendCt ep (reqPeer q) (.resp (s.reply ep op q st [] 0))
    let full := 2048 ≤ s.inFlight ep ∨ ∃ x ∈ s.flying ep, inWindow q.seq.toNat x = false
    (s.ctOn ep = false → exec i s = .next s) ∧
    (s.ctOn ep = true → s.stranger ep q.src.toNat = true → exec i s = .next (s.bump b 0x80 1)) ∧
    (heard → can = false → bad = false → q.epoch.toNat = e.epoch → exec i s = .next (once s Code.notReady)) ∧
    (heard → bad = true → op ≠ 2 → op ≠ 3 → exec i s = .next (once s Code.cfgParity)) ∧
    (heard → bad = false → q.epoch.toNat ≠ e.epoch → exec i s = .next (once (s.bump b 0x88 1) Code.aborted)) ∧
    (heard → can = true → bad = false → q.epoch.toNat = e.epoch →
      (e.high = none → full → exec i s = .next (once s Code.notReady)) ∧
      (∀ h : Nat, e.high = some h →
        let d := signedOf 32 (q.seq.toNat + 2 ^ 32 - h)
        let met := e.win.find? (fun w => w.seq == q.seq.toNat)
        (0 < d ∨ (-2048 < d ∧ met = none) → full → exec i s = .next (once s Code.notReady)) ∧
        (d ≤ -2048 → exec i s = .next (once s Code.bounds)) ∧
        (∀ w : Win, d ≤ 0 → -2048 < d → met = some w →
          (w.resp = none → exec i s = .next (s.bump b 0x84 1)) ∧
          (∀ r : Resp, w.resp = some r → exec i s = .next ((s.bump b 0x84 1).sendCt ep (reqPeer q) (.resp
            { r with status := Code.doneRepeat, orig := r.status, epoch := e.epoch, cycle := s.cycle })))))) ∧
    (reqFit q = false → s.accepts ep { q with ok := true, data := [], status := 0, orig := 0, flags := 0 } = true → can = true →
      ∃ t, exec i s = .next t ∧ s.sends t ep (reqPeer q) (.resp (s.reply ep op q Code.bounds [] 0)) ∧ t.hbm = s.hbm ∧ t.setts = s.setts ∧
        t.regs = s.regs ∧ (t.eps[ep.val]).high = some (s.newHigh ep q))

/-- The immediate commands of a control endpoint (15 R355 to R357, R368, R370; 17 R400): a request that is taken is recorded with its
response, which goes to the request's source, and does what its row says; one whose fields are out of range answers BOUNDS and does
nothing else; a memory access in the window of a frozen sett waits; one that its memory fails answers with that status. -/
def Obligations.EndpointImmediateCommandsAnswer : Prop :=
  ∀ (s : State) (ep : Fin 2) (q : Req), s.accepts ep q = true →
    let a := q.addr.toNat
    let n := q.arg.toNat
    let answers (i : Instr) (op : Nat) (status : Status) (data : List Byte) (holds : State → Prop) : Prop :=
      let r := s.reply ep op q status data 0
      ∃ t, exec i s = .next t ∧ s.sends t ep (reqPeer q) (.resp r) ∧ (t.eps[ep.val]).high = some (s.newHigh ep q) ∧
        (⟨q.seq.toNat, some r⟩ : Win) ∈ (t.eps[ep.val]).win ∧ holds t
    let quiet (t : State) : Prop := t.regs = s.regs ∧ t.hbm = s.hbm ∧ t.burrow = s.burrow ∧ t.setts = s.setts ∧ t.qps = s.qps
    let regOk (k : Nat) : Prop := a % 4 = 0 ∧ 4 ≤ k ∧ k ≤ 256 ∧ k % 4 = 0
    answers (.ctNop ep q) 0x01 Code.done [] quiet ∧
    (¬ regOk n → answers (.regRead ep q) 0x02 Code.bounds [] quiet) ∧
    (∀ (b : Blk) (o : Nat), regOk n → b ∉ [Blk.sm, .enHost, .enMgmt] → (∀ k, 4 * k < n → regTarget (a + 4 * k) = some (b, o + 4 * k, 0)) →
      (s.reg .injX 0).toNat % 2 = 0 → s.regs.badA = [] → s.acc = Vector.replicate 3 [] → s.latch = Vector.replicate 3 none →
      (∀ u, b.sett? = some u → (s.sett u).freeze = none) →
      answers (.regRead ep q) 0x02 Code.done ((List.range (n / 4)).flatMap (fun k =>
        leBytes 4 (if (findRow (o + 4 * k) b.rows).isNone then 0 else (s.view b (o + 4 * k)).toNat))) quiet) ∧
    (¬ regOk q.data.length → answers (.regWrite ep q) 0x03 Code.bounds [] quiet) ∧
    (∀ (b : Blk) (o : Nat), regOk q.data.length → (b = .enHost ∨ b = .enMgmt ∨ (∃ h, b = .ht h) ∨ (∃ u, b = .ve u ∨ b = .se u ∨ b = .pmS u)) →
      (∀ k, 4 * k < q.data.length → regTarget (a + 4 * k) = some (b, o + 4 * k, 0)) →
      (s.reg .injX 0).toNat % 2 = 0 → s.acc = Vector.replicate 3 [] → (∀ u, b.sett? = some u → (s.sett u).freeze = none) →
      answers (.regWrite ep q) 0x03 Code.done [] (fun t =>
        t.regs = (((chunks 4 q.data).zip (List.range (q.data.length / 4))).foldl (fun s w =>
          s.plainWrite b (o + 4 * w.2) (BitVec.ofNat 32 (leNat w.1))) s).regs ∧ t.hbm = s.hbm ∧ t.setts = s.setts)) ∧
    (∀ flt : Option (BitVec 8),
      let m := q.data.length
      let okAll (k : Nat) (wr : Bool) : Prop := ∀ p ∈ pieces a k, isTrans p.1 = false ∧
        ∃ l, s.place p.1 wr = some l ∧ ∀ qp va key, l ≠ .remote qp va key
      let waits (i : Instr) (k : Nat) (wr : Bool) : Prop := ∃ t, exec i s = .next t ∧ s.sendsNothing t ∧ quiet t ∧
        (⟨q.seq.toNat, none⟩ : Win) ∈ (t.eps[ep.val]).win ∧
        ∃ x : MemAcc, t.mems = s.mems ++ [x] ∧ x.ep = ep ∧ x.no = s.cmdNo ep q.seq.toNat ∧ x.addr = a ∧ x.n = k ∧ x.write = wr ∧ x.begun = false
      (n = 0 ∨ 4096 < n → answers (.memRead ep ⟨q, flt⟩) 0x04 Code.bounds [] quiet) ∧
      (m = 0 → answers (.memWrite ep ⟨q, flt⟩) 0x05 Code.bounds [] quiet) ∧
      (1 ≤ n → n ≤ 4096 → s.rangeFrozen a n = true → waits (.memRead ep ⟨q, flt⟩) n false) ∧
      (1 ≤ m → s.rangeFrozen a m = true → waits (.memWrite ep ⟨q, flt⟩) m true) ∧
      ((∀ u : Sett, s.mayMismatch u = false) →
        (1 ≤ n → n ≤ 4096 → s.rangeFrozen a n = false →
          ((∃ p ∈ pieces a n, isTrans p.1 = true ∨ s.place p.1 false = none) → answers (.memRead ep ⟨q, flt⟩) 0x04 Code.bounds [] quiet) ∧
          (okAll n false → flt = none → ∃ bs, (s.readMod none a n).1 = some bs ∧ answers (.memRead ep ⟨q, flt⟩) 0x04 Code.done bs quiet) ∧
          (∀ c : BitVec 8, okAll n false → flt = some c → memFaultOk a c.toNat = true →
            answers (.memRead ep ⟨q, flt⟩) 0x04 c.toNat [] quiet)) ∧
        (1 ≤ m → s.rangeFrozen a m = false →
          ((∃ p ∈ pieces a m, isTrans p.1 = true ∨ s.place p.1 true = none) → answers (.memWrite ep ⟨q, flt⟩) 0x05 Code.bounds [] quiet) ∧
          (okAll m true → flt = none → answers (.memWrite ep ⟨q, flt⟩) 0x05 Code.done [] (fun t =>
            let w := (s.writeMod none a q.data).2
            (s.writeMod none a q.data).1 = true ∧ t.hbm = w.hbm ∧ t.burrow = w.burrow ∧ t.setts = w.setts ∧ t.regs = s.regs)) ∧
          (∀ c : BitVec 8, okAll m true → flt = some c → memFaultOk a c.toNat = true →
            answers (.memWrite ep ⟨q, flt⟩) 0x05 c.toNat [] quiet)))) ∧
    (nearMem a n → 1 ≤ n → n ≤ 4096 → ∃ bs, answers (.memRead ep ⟨q, none⟩) 0x04 Code.done bs quiet) ∧
    (nearMem a q.data.length → 1 ≤ q.data.length → answers (.memWrite ep ⟨q, none⟩) 0x05 Code.done [] (fun t => t.regs = s.regs ∧
      t.setts = s.setts)) ∧
    (1024 ≤ n ∨ q.data.length ≠ 64 → answers (.qpModify ep q) 0x20 Code.bounds [] quiet) ∧
    (n < 1024 → q.data.length = 64 →
      let old := s.qp n
      let x := Qp.parse q.data
      let kept : Qp := { x with rqCount := old.rqCount, rate := old.rate, rateExp := old.rateExp, tries := old.tries }
      (qpBytesOk q.data = false ∨ qpMay old.st x.st = false → answers (.qpModify ep q) 0x20 Code.bounds [] quiet) ∧
      (qpBytesOk q.data = true → (old.st = 0 ∧ x.st = 1 ∨ old.st = 1 ∧ x.st = 2) →
        (x.fieldsOk = false → answers (.qpModify ep q) 0x20 Code.bounds [] quiet) ∧
        (x.fieldsOk = true → answers (.qpModify ep q) 0x20 Code.done [] (fun t =>
          t.qp n = kept ∧ (∀ m, m ≠ n → t.qp m = s.qp m) ∧ t.hbm = s.hbm))) ∧
      (qpBytesOk q.data = true → old.st = 2 → x.st = 3 →
        ({ kept with st := 2 } ≠ old → answers (.qpModify ep q) 0x20 Code.bounds [] quiet) ∧
        ({ kept with st := 2 } = old → answers (.qpModify ep q) 0x20 Code.done [] (fun t =>
          t.qp n = { old with st := 3, rate := 800, rateExp := 0 } ∧ (∀ m, m ≠ n → t.qp m = s.qp m)))) ∧
      (qpBytesOk q.data = true → x.st = 4 → old.st ≠ 4 → { kept with st := old.st } = old → (∀ r ∈ s.roce, r.qp ≠ n) →
        answers (.qpModify ep q) 0x20 Code.done [] (fun t => t.qp n = { old with st := 4, tries := 0 } ∧ (∀ m, m ≠ n → t.qp m = s.qp m))) ∧
      (qpBytesOk q.data = true → x.st = 0 → old.st ≠ 0 → { kept with st := old.st } = old → (∀ r ∈ s.roce, r.qp ≠ n) →
        answers (.qpModify ep q) 0x20 Code.done [] (fun t =>
          t.qp n = { old with st := 0, rqCount := 0, tries := 0 } ∧ (∀ m, m ≠ n → t.qp m = s.qp m)))) ∧
    (1024 ≤ n → answers (.qpQuery ep q) 0x21 Code.bounds [] quiet) ∧
    (n < 1024 → answers (.qpQuery ep q) 0x21 Code.done (s.qp n).bytes quiet) ∧
    (q.data.length ≠ 24 ∨ leNat ((q.data.drop 18).take 2) ≠ 0 → answers (.notifySet ep q) 0x30 Code.bounds [] quiet) ∧
    (q.data.length = 24 → leNat ((q.data.drop 18).take 2) = 0 → answers (.notifySet ep q) 0x30 Code.done [] (fun t =>
      quiet t ∧ (t.eps[ep.val]).naddr = q.data.take 18 ∧ (t.eps[ep.val]).mask = leNat (q.data.drop 20)))

/-- The deferred commands of a control endpoint, their results, and the loader (06 R171 to R176; 13 R317; 15 R357 to R363, R367; 18 R429,
R431): acceptance answers with the deferred flag and holds the command; RESULT_READ gives the result once ready, RETIRE ends it, RESYNC
begins a new epoch and releases the endpoint's semaphores. -/
def Obligations.DeferredCommandsAreHeldAndResolved : Prop :=
  ∀ (s : State) (ep : Fin 2) (q : Req),
    let a := q.addr.toNat
    let e := s.eps[ep.val]
    let no := s.cmdNo ep q.seq.toNat
    let no2 := s.cmdNo ep q.arg.toNat
    (s.accepts ep q = true → (∀ h ∈ e.held, h.seq ≠ no) →
      let defers (i : Instr) (op : Nat) (holds : State → Prop) : Prop := ∃ t, exec i s = .next t ∧
        s.sends t ep (reqPeer q) (.resp (s.reply ep op q Code.done [] 1)) ∧ (t.eps[ep.val]).held = e.held ++ [⟨no, none, false, false⟩] ∧ holds t
      let refuses (i : Instr) (op : Nat) (st : Status) : Prop := ∃ t, exec i s = .next t ∧
        s.sends t ep (reqPeer q) (.resp (s.reply ep op q st [] 0)) ∧ (t.eps[ep.val]).held = e.held ∧ t.load = s.load ∧ t.hin = s.hin ∧
        t.xch = s.xch ∧ t.sc = s.sc
      (s.sc.stage = .run → q.data.length = 8 →
        let report := leNat q.data
        let mine := (s.reg .sm 0).toNat = ep.val + 1
        (¬ mine → refuses (.loadPlan ep q) 0x10 Code.semDenied) ∧
        (mine → inTier report 320 = false → refuses (.loadPlan ep q) 0x10 Code.bounds) ∧
        (mine → inTier report 320 = true → s.load ≠ none → refuses (.loadPlan ep q) 0x10 Code.planMismatch) ∧
        (mine → inTier report 320 = true → s.load = none → defers (.loadPlan ep q) 0x10 (fun t => t.load = some ⟨ep, no, a, report, none⟩))) ∧
      (s.sc.stage = .run →
        (inHbm a 64 = false → refuses (.holt (epReq ep) q) 0x11 Code.bounds) ∧
        (inHbm a 64 = true → 1 ≤ blk (s.hbm.load a 64) 0 1 → blk (s.hbm.load a 64) 0 1 ≤ 10 →
          defers (.holt (epReq ep) q) 0x11 (fun t => t.hin = s.hin ++ [(.ep ep no, s.hbm.load a 64)]))) ∧
      (∀ k : Fin 64, q.arg.toNat = k.val → k.val ≤ 55 → q.data.length = 16 → leNat (q.data.take 8) < 2 ^ 48 → leNat (q.data.drop 8) < 2 ^ 48 →
        let h := s.chan (.sys k)
        (h.still = false → refuses (.dmaStart ep q) 0x12 Code.bounds) ∧
        (h.still = true → leNat (q.data.take 8) % 8 = 0 → defers (.dmaStart ep q) 0x12 (fun t =>
          let g := t.chan (.sys k)
          g.st = .run ∧ g.prog = leNat (q.data.take 8) ∧ g.aor = leNat (q.data.drop 8) ∧ g.pc = 0 ∧ g.owner = .cmd ep no))) ∧
      (a % 4096 = 0 → inHbm a 32768 = true → q.data.length = 32 →
        (s.sc.locked = true → ∃ t, exec (.attest ep q) s = .next t ∧ t.sc = s.sc ∧
          (⟨no, some (Code.cfgParity, []), false, false⟩ : Held) ∈ (t.eps[ep.val]).held) ∧
        (s.sc.locked = false → defers (.attest ep q) 0x13 (fun t => ∃ x : Attest, t.sc.attest = s.sc.attest ++ [x] ∧ x.ep = ep ∧ x.seq = no ∧
          x.addr = a ∧ x.nonce = q.data ∧ x.m = s.sc.m ∧ x.log = s.sc.log ∧ x.ctrs = s.sc.ctrs.toList ∧ x.cycle = s.cycle)))) ∧
    (∀ (t0 : Attest) (rest : List Attest) (h : Held), s.sc.attest = t0 :: rest →
      (s.eps[t0.ep.val]).held.find? (fun h => h.seq == t0.seq && h.ready.isNone) = some h → h.marked = false →
      (s.sc.locked = true → ∃ t, exec .attestReportDone s = .next t ∧ t.sc.attest = rest ∧ t.hbm = s.hbm ∧
        ({ h with ready := some (Code.cfgParity, []) } : Held) ∈ (t.eps[t0.ep.val]).held) ∧
      (s.sc.locked = false → let r := t0.body ++ Config.freeBytes s.freeCtr 3309
        ∃ t, exec .attestReportDone s = .next t ∧ t.sc.attest = rest ∧ t.hbm = s.hbm.store t0.addr r ∧ t.freeCtr = s.freeCtr + 1 ∧
          ({ h with ready := some (Code.done, r.take 4096) } : Held) ∈ (t.eps[t0.ep.val]).held)) ∧
    (s.takes ep q = true →
      let once (i : Instr) (op : Nat) (st : Status) (data : List Byte) (fl : Nat) (holds : State → Prop) : Prop := ∃ t, exec i s = .next t ∧
        s.sends t ep (reqPeer q) (.resp (s.reply ep op q st data fl)) ∧ (t.eps[ep.val]).win = e.win ∧ t.hbm = s.hbm ∧ t.setts = s.setts ∧ holds t
      let found := e.held.find? (fun h => h.seq == no2)
      (found = none → once (.resultRead ep q) 0x40 Code.bounds [] 0 (fun t => t.eps = s.eps)) ∧
      (∀ h : Held, found = some h →
        (h.ready = none → once (.resultRead ep q) 0x40 Code.notReady [] 0 (fun t => t.eps = s.eps) ∧
          once (.retire ep q) 0x41 Code.notReady [] 0 (fun t => t.eps = s.eps)) ∧
        (∀ st data, h.ready = some (st, data) →
          once (.resultRead ep q) 0x40 st data (if h.read then 2 else 0) (fun t =>
            ({ h with read := true } : Held) ∈ (t.eps[ep.val]).held ∧ (t.eps[ep.val]).held.length = e.held.length) ∧
          once (.retire ep q) 0x41 Code.done [] 0 (fun t => h ∉ (t.eps[ep.val]).held ∧ q.arg.toNat ∈ (t.eps[ep.val]).retired))) ∧
      (∀ h : Nat, found = none → e.high = some h → q.arg.toNat ∈ e.retired → inWindow h q.arg.toNat = true →
        once (.retire ep q) 0x41 Code.doneRepeat [] 0 (fun t => t.eps = s.eps)) ∧
      (found = none → q.arg.toNat ∉ e.retired → once (.retire ep q) 0x41 Code.bounds [] 0 (fun t => t.eps = s.eps))) ∧
    (s.ctOn ep = true → s.stranger ep q.src.toNat = false → s.cfgBad (portBlk ep) = false → reqFit q = true → q.seq = 0 →
      let new := q.arg.toNat % 2 ^ 16
      (new = e.epoch → exec (.resync ep q) s = .next (s.sendCt ep (reqPeer q) (.resp (s.reply ep 0x42 q Code.doneRepeat [] 0)))) ∧
      (new ≠ e.epoch → ∃ t, exec (.resync ep q) s = .next t ∧ (t.eps[ep.val]).epoch = new ∧ (t.eps[ep.val]).gen = e.gen + 1 ∧
        (t.eps[ep.val]).high = none ∧ (t.eps[ep.val]).win = [] ∧
        (t.eps[ep.val]).held = (e.held.filter (fun h => h.ready.isNone)).map (fun h => { h with marked := true }) ∧
        (∀ n : Fin 32, t.reg .sm (4 * n.val) = if (s.reg .sm (4 * n.val)).toNat = ep.val + 1 then 0 else s.reg .sm (4 * n.val)) ∧
        t.mems = s.mems.map (fun m => if m.ep = ep then { m with mute := true } else m) ∧
        (∃ f : EthFrame, f.port = ep ∧ (f.dip, f.dport) = reqPeer q ∧ f.body = .resp { s.reply ep 0x42 q Code.done [] 0 with epoch := new } ∧
          (t.tx.getLast? = some (.eth f) ∨ t.txWait.getLast? = some f)))) ∧
    (∀ q : Req,
      (s.sc.stage ≠ .run → exec (.holt .mgmt q) s = .next s) ∧
      (s.sc.stage = .run → inHbm q.addr.toNat 64 = false → exec (.holt .mgmt q) s = .next { s with rdata := s.rdata.set 2 (0, Code.bounds) }) ∧
      (s.sc.stage = .run → inHbm q.addr.toNat 64 = true → 1 ≤ blk (s.hbm.load q.addr.toNat 64) 0 1 → blk (s.hbm.load q.addr.toNat 64) 0 1 ≤ 10 →
        exec (.holt .mgmt q) s = .next { s with hin := s.hin ++ [(.mgmt, s.hbm.load q.addr.toNat 64)] })) ∧
    (∀ (seq : BitVec 32) (op arg : Nat) (peer : Nat × Nat) (x : RegReq) (rest : List RegReq), s.accOf (epReq ep) = x :: rest →
      x.conv = false → x.mute = false → x.link = some (ep, op, s.cmdNo ep seq.toNat, arg, peer) →
      ∃ t, exec (.immediateDeferral ep seq) s = .next t ∧ (t.accOf (epReq ep)).head? = some { x with conv := true } ∧
        (t.eps[ep.val]).held = e.held ++ [⟨s.cmdNo ep seq.toNat, none, false, false⟩] ∧
        (∃ r : Resp, s.sends t ep peer (.resp r) ∧ r.opcode = op ∧ r.seq = seq.toNat ∧ r.status = Code.done ∧ r.flags = 1)) ∧
    (∀ (seq : BitVec 32) (m : MemAcc), (∀ x ∈ s.accOf (epReq ep), x.link.map (fun l => l.2.2.1) ≠ some (s.cmdNo ep seq.toNat)) →
      s.mems = [m] → m.ep = ep → m.no = s.cmdNo ep seq.toNat → m.conv = false → m.mute = false →
      ∃ t, exec (.immediateDeferral ep seq) s = .next t ∧ t.mems = [{ m with conv := true }] ∧
        (t.eps[ep.val]).held = e.held ++ [⟨s.cmdNo ep seq.toNat, none, false, false⟩] ∧
        (∃ r : Resp, s.sends t ep m.peer (.resp r) ∧ r.opcode = (if m.write then 5 else 4) ∧ r.seq = seq.toNat ∧ r.status = Code.done ∧
          r.flags = 1)) ∧
    (s.load = none → exec .loaderRun s = .next s) ∧
    (∀ (l : Load) (w : Held) (c : Nat), s.load = some l → l.flt = some c →
      (s.eps[l.ep.val]).held.find? (fun h => h.seq == l.seq && h.ready.isNone) = some w → w.marked = false →
      ∃ t, exec .loaderRun s = .next t ∧ t.load = none ∧ t.setts = s.setts ∧ t.regs = s.regs ∧ t.hbm = s.hbm ∧
        ({ w with ready := some (c, []) } : Held) ∈ (t.eps[l.ep.val]).held ∧
        (∃ r : EvRec, t.recs = s.recs ++ [r] ∧ r.status = c ∧ r.src = srcCode 4 0 0 23)) ∧
    (∀ (l : Load) (h : List Byte) (secs : List PlanSec) (ps : List PlanSett) (fs : List PlanFail) (w : Held),
      s.load = some l → l.flt = none → s.planChecks l.image = (h, secs, ps, fs) → inTier l.report 320 = true →
      (s.eps[l.ep.val]).held.find? (fun h => h.seq == l.seq && h.ready.isNone) = some w → w.marked = false →
      let head (s : State) (st : Status) : List Byte :=
        leBytes 1 st ++ leBytes 1 ((fs.head?.map (·.code)).getD 0) ++ leBytes 2 (min fs.length 0xFFFF) ++ leBytes 4 (fieldAt h 16 4) ++ leBytes 8 s.cycle
      let record (t : State) (st : Status) : Prop := ∃ r : EvRec, t.recs.getLast? = some r ∧ r.status = st ∧ r.layer = fieldAt h 16 4
      (fs ≠ [] → ∃ t, exec .loaderRun s = .next t ∧ t.load = none ∧ t.setts = s.setts ∧ t.regs = s.regs ∧ record t Code.planMismatch ∧
        t.hbm = (s.writeMod none l.report (head s Code.planMismatch ++ List.replicate 48 0 ++ (fs.take 16).flatMap PlanFail.bytes)).2.hbm ∧
        ({ w with ready := some (Code.planMismatch, head s Code.planMismatch) } : Held) ∈ (t.eps[l.ep.val]).held) ∧
      (fs = [] → (∃ g ∈ s.mcastGroups secs, bitOf s.stbBusy g = true) → exec .loaderRun s = .next s) ∧
      (fs = [] → (∀ x ∈ secs, x.type ≠ 6) → ∃ t, exec .loaderRun s = .next t ∧ t.load = none ∧ record t Code.done ∧
        ({ w with ready := some (Code.done, head s Code.done) } : Held) ∈ (t.eps[l.ep.val]).held ∧
        (∀ p ∈ ps, (t.sett p.u).st = .run ∧ (t.sett p.u).pc = p.word 2 % 2 ^ 15 ∧ (t.sett p.u).step = BitVec.ofNat 32 (p.word 3) ∧
          (t.sett p.u).loops = [] ∧ (∀ n : Fin 32, (t.sett p.u).sig[n.val] = BitVec.ofNat 32 (p.word (32 + n.val)))) ∧
        (∀ u : SettId, (∀ p ∈ ps, p.u ≠ u) → t.sett u = s.sett u)))

/-- The Ethernet ports (15 R351, R352, R373 to R375): a link comes up only on an enabled port; a frame that fails a check is dropped
and counted; a port answers ARP, neighbour solicitations and echo requests for its own addresses; the host port holds each frame in its
priority's buffer, pauses a lossless priority at its threshold, repeats the pause and lifts it below the gap; received PFC frames pause
their priorities until expiry, and frames of a paused priority wait; a marked RoCEv2 packet is answered by a CNP at most once in the gap. -/
def Obligations.EthernetPortsTakeFrames : Prop :=
  ∀ (s : State),
    let size (p : Fin 8) : Nat := fieldOf (s.reg .enHost (0x60 + 4 * p.val)) 31 19
    let hdrm (p : Fin 8) : Nat := fieldOf (s.reg .enHost (0x60 + 4 * p.val)) 18 9
    let gap (p : Fin 8) : Nat := fieldOf (s.reg .enHost (0x60 + 4 * p.val)) 8 0
    let lossless (p : Fin 8) : Bool := Word.bit (s.reg .enHost 0x50) p.val
    let pausing (p : Fin 8) : Bool := Word.bit (s.reg .enHost 4) (8 + p.val)
    (∀ p : Fin 2,
      let b := portBlk p
      (Word.bit (s.reg b 0) 0 = false → exec (.ethernetLinkUp p true) s = .next s) ∧
      (Word.bit (s.reg b 0) 0 = true → ∃ t, exec (.ethernetLinkUp p true) s = .next t ∧ Word.bit (t.reg b 4) 0 = true ∧
        Word.bit (t.reg b 4) 1 = (decide (p = 1) && Word.bit (s.reg b 0) 3) ∧ (∀ i, 2 ≤ i → i < 32 → Word.bit (t.reg b 4) i = Word.bit (s.reg b 4) i) ∧
        t.setts = s.setts ∧ t.hbm = s.hbm) ∧
      (∃ t, exec (.ethernetLinkUp p false) s = .next t ∧ Word.bit (t.reg b 4) 0 = false ∧
        (∀ i, 1 ≤ i → i < 32 → Word.bit (t.reg b 4) i = Word.bit (s.reg b 4) i))) ∧
    (∀ (en : BitVec 8) (q : List (BitVec 16)),
      (s.linkUp 0 = false → exec (.pfcFrameReceived en q) s = .next s) ∧
      (s.linkUp 0 = true → ∃ t, exec (.pfcFrameReceived en q) s = .next t ∧ t.setts = s.setts ∧ t.rxOcc = s.rxOcc ∧
        (s.txWait = [] → s.sendsNothing t) ∧
        (∀ p : Fin 8, (en.getLsbD p.val = true → t.pause[p.val] = (q.getD p.val 0).toNat ∧
            Word.bit (t.reg .enHost 4) (16 + p.val) = decide ((q.getD p.val 0).toNat ≠ 0)) ∧
          (en.getLsbD p.val = false → t.pause[p.val] = s.pause[p.val] ∧
            Word.bit (t.reg .enHost 4) (16 + p.val) = Word.bit (s.reg .enHost 4) (16 + p.val))))) ∧
    (∀ p : Fin 8,
      (∃ t, exec (.pfcPauseExpiry p) s = .next t ∧ t.pause = s.pause.set p.val 0 ∧ Word.bit (t.reg .enHost 4) (16 + p.val) = false ∧
        t.tx = s.tx ++ (s.txWait.filter (fun f => f.prio == p.val)).map (fun f => .eth (f.stamp s.cycle)) ∧
        t.txWait = s.txWait.filter (fun f => f.prio != p.val)) ∧
      (∀ (b : EthBody) (peer : Nat × Nat) (sport : Nat), s.pause[p.val] ≠ 0 →
        (s.send 0 p.val peer sport b).tx = s.tx ∧ ∃ f : EthFrame, (s.send 0 p.val peer sport b).txWait = s.txWait ++ [f] ∧ f.body = b ∧
          f.prio = p.val ∧ (f.dip, f.dport) = peer ∧ f.sport = sport) ∧
      (lossless p = true → pausing p = true → size p - hdrm p - gap p ≤ s.rxOcc[p.val] → ∃ t, exec (.pfcXoffRepeat p) s = .next t ∧
        t.tx = s.tx ++ [.pfc p.val 0xFFFF] ∧ t.rxOcc = s.rxOcc ∧ Word.bit (t.reg .enHost 4) (8 + p.val) = true) ∧
      (lossless p = false ∨ pausing p = false ∨ s.rxOcc[p.val] < size p - hdrm p - gap p → exec (.pfcXoffRepeat p) s = .next s) ∧
      (∀ occ : BitVec 13,
        (s.rxOcc[p.val] ≤ occ.toNat → exec (.rxBufferOccupancyFall p occ) s = .next s) ∧
        (occ.toNat < s.rxOcc[p.val] →
          (pausing p = true → occ.toNat < size p - hdrm p - gap p → ∃ t, exec (.rxBufferOccupancyFall p occ) s = .next t ∧
            t.rxOcc = s.rxOcc.set p.val occ.toNat ∧ t.tx = s.tx ++ [.pfc p.val 0] ∧ Word.bit (t.reg .enHost 4) (8 + p.val) = false) ∧
          (pausing p = false ∨ size p - hdrm p - gap p ≤ occ.toNat → exec (.rxBufferOccupancyFall p occ) s =
            .next { s with rxOcc := s.rxOcc.set p.val occ.toNat })))) ∧
    (∀ (p : Fin 2) (f : Frame), (s.reg .injX 0).toNat % 2 = 0 →
      let b := portBlk p
      let good := f.fcsOk = true ∧ f.len.toNat ≤ 9216 ∧ f.fragment = false ∧ f.options = false ∧ f.pause = false ∧
        (f.dst.toNat = s.mac p ∨ f.dst.toNat = 2 ^ 48 - 1)
      (s.linkUp p = false → exec (.rxFrame p f) s = .next s) ∧
      (s.linkUp p = true → ¬ good → exec (.rxFrame p f) s = .next (s.bump b 0x80 1)) ∧
      (s.linkUp p = true → good → p = 1 →
        (∀ ip, f.kind = .arp ip →
          (s.reg b 0x10 = ip → ip ≠ 0 → exec (.rxFrame p f) s = .next (s.send p 0 (0, 0) 0 (.arp ip.toNat (s.mac p)))) ∧
          (s.reg b 0x10 ≠ ip ∨ ip = 0 → exec (.rxFrame p f) s = .next s)) ∧
        (∀ ip, f.kind = .neighbour ip → s.ip6 p = ip.toNat → ip ≠ 0 →
          exec (.rxFrame p f) s = .next (s.send p 0 (0, 0) 0 (.neighbour ip.toNat (s.mac p)))) ∧
        (∀ ip bs, f.kind = .echo ip bs → (s.ip6 p = ip.toNat ∧ ip ≠ 0 ∧ ip.toNat / 2 ^ 32 ≠ 0xFFFF) ∨
            (s.reg b 0x10 ≠ 0 ∧ ip.toNat = 0xFFFF * 2 ^ 32 + (s.reg b 0x10).toNat) →
          exec (.rxFrame p f) s = .next (s.send p 0 (0, 0) 0 (.echo bs))) ∧
        (∀ src dst port head, f.kind = .command src dst port head → s.ip6 p = dst.toNat → dst ≠ 0 → dst.toNat / 2 ^ 32 ≠ 0xFFFF →
          port.toNat = fieldOf (s.reg b 0x28) 15 0 → Word.bit (s.reg b 0) 1 = true →
          (s.peer p ≠ 0 ∧ src.toNat ≠ s.peer p ∨ leNat (head.take 2) ≠ 0x544B → exec (.rxFrame p f) s = .next (s.bump b 0x80 1))) ∧
        (f.kind = .other → exec (.rxFrame p f) s = .next s)) ∧
      (s.linkUp p = true → good → p = 0 →
        let k : Fin 8 := ⟨(f.prio.map (·.toNat)).getD 0 % 8, Nat.mod_lt _ (by decide)⟩
        let occ := s.rxOcc[k.val] + (f.len.toNat + 4095) / 4096
        (size k < occ → exec (.rxFrame p f) s = .next (s.bump b 0x80 1)) ∧
        (occ ≤ size k → f.kind = .other → ∃ t, exec (.rxFrame p f) s = .next t ∧ t.rxOcc = s.rxOcc.set k.val occ ∧
          t.setts = s.setts ∧ t.hbm = s.hbm ∧
          (lossless k = true → size k - hdrm k ≤ occ → pausing k = false → t.tx = s.tx ++ [.pfc k.val 0xFFFF] ∧
            Word.bit (t.reg .enHost 4) (8 + k.val) = true) ∧
          (lossless k = false ∨ occ < size k - hdrm k ∨ pausing k = true → s.sendsNothing t ∧ t.regs = s.regs)) ∧
        (∀ q : BitVec 10, occ ≤ size k → f.kind = .roce q true → lossless k = false → Word.bit (s.reg .enHost 0x54) 31 = true →
          let wait := fieldOf (s.reg .enHost 0x54) 15 0 * 1000
          (Tbl.find s.cnpAt q.toNat = none ∨ (∃ c, Tbl.find s.cnpAt q.toNat = some c ∧ c + wait ≤ s.cycle) →
            ∃ t, exec (.rxFrame p f) s = .next t ∧ s.sends t 0 ((s.qp q.toNat).dip, 4791) (.cnp q.toNat) ∧ Tbl.find t.cnpAt q.toNat = some s.cycle ∧
              t.reg .enHost 0x8C = BitVec.ofNat 32 (min 0xFFFFFFFF ((s.reg .enHost 0x8C).toNat + 1))) ∧
          (∀ c, Tbl.find s.cnpAt q.toNat = some c → s.cycle < c + wait → ∃ t, exec (.rxFrame p f) s = .next t ∧ s.sendsNothing t ∧ t.cnpAt = s.cnpAt))))

/-- Queue pairs and inbound RDMA (07 R188; 15 R370, R371, R375): a request to a queue pair that does not receive is left; one whose key or
range no region permits is refused and counted; a WRITE stores its bytes, a READ returns them, a SEND fills the next ring entry and
signals; an acknowledgement completes the oldest access whose request has left, a fatal NAK or the last retry moves the queue pair to ERROR; a CNP halves the
rate down to its minimum, recovery raises it up to 800 Gb/s. -/
def Obligations.QueuePairsAndInboundRdma : Prop :=
  ∀ (s : State) (q : BitVec 10),
    let c := s.qp q.toNat
    let on := c.st = 2 ∨ c.st = 3
    let refused : State := (s.sendRoce q.toNat (.ack q.toNat false [])).bump .enHost 0x94 1
    let permits (rkey va n : Nat) (bit : Nat) : Prop :=
      let o := 0x400 + 16 * (rkey / 2 ^ 24)
      let w := s.reg .enHost (o + 12)
      let base := (s.reg .enHost o).toNat + fieldOf (s.reg .enHost (o + 4)) 15 0 * 2 ^ 32
      let top := base + (s.reg .enHost (o + 8)).toNat * 4096
      rkey / 2 ^ 24 < 64 ∧ Word.bit w 31 = true ∧ Word.bit w bit = true ∧ fieldOf w 23 0 = rkey % 2 ^ 24 ∧ base ≤ va ∧ va + n ≤ top ∧
      (top ≤ 0x6000000000 ∨ 0x10000000000 ≤ base ∧ top ≤ 0x20000000000)
    (∀ (rkey : BitVec 32) (va : BitVec 64) (data : List (BitVec 8)),
      (¬ on → exec (.rdmaWriteInbound q rkey va data) s = .next s) ∧
      (on → ¬ permits rkey.toNat va.toNat data.length 30 → exec (.rdmaWriteInbound q rkey va data) s = .next refused) ∧
      (on → permits rkey.toNat va.toNat data.length 30 → ∃ t, exec (.rdmaWriteInbound q rkey va data) s = .next t ∧
        s.sends t 0 (c.dip, 4791) (.ack q.toNat true []) ∧ t.hbm = (s.writeMod none va.toNat data).2.hbm ∧
        t.burrow = (s.writeMod none va.toNat data).2.burrow ∧ t.setts = s.setts ∧ t.regs = s.regs ∧ t.qps = s.qps)) ∧
    (∀ (rkey : BitVec 32) (va : BitVec 64) (n : BitVec 32),
      (¬ on → exec (.rdmaReadInbound q rkey va n) s = .next s) ∧
      (on → ¬ permits rkey.toNat va.toNat n.toNat 29 → exec (.rdmaReadInbound q rkey va n) s = .next refused) ∧
      (on → permits rkey.toNat va.toNat n.toNat 29 → ∃ bs, (s.readMod none va.toNat n.toNat).1 = some bs ∧
        exec (.rdmaReadInbound q rkey va n) s = .next (s.sendRoce q.toNat (.ack q.toNat true bs)))) ∧
    (∀ data : List (BitVec 8),
      let a := c.rqBase + c.rqCount % c.rqSize * 4096
      let member := ∃ r : Fin 64,
        let o := 0x400 + 16 * r.val
        let w := s.reg .enHost (o + 12)
        let base := (s.reg .enHost o).toNat + fieldOf (s.reg .enHost (o + 4)) 15 0 * 2 ^ 32
        let top := base + (s.reg .enHost (o + 8)).toNat * 4096
        Word.bit w 31 = true ∧ Word.bit w 30 = true ∧ base ≤ a ∧ a + data.length ≤ top ∧
        (top ≤ 0x6000000000 ∨ 0x10000000000 ≤ base ∧ top ≤ 0x20000000000)
      (¬ on → exec (.sendInbound q data) s = .next s) ∧
      (on → (c.rqSize = 0 ∨ 4096 < data.length) → exec (.sendInbound q data) s = .next (s.sendRoce q.toNat (.ack q.toNat false []))) ∧
      (on → 0 < c.rqSize → data.length ≤ 4096 → (¬ member ∨ 0x6000000000 < a + 4096) → exec (.sendInbound q data) s = .next refused) ∧
      (on → 0 < c.rqSize → data.length ≤ 4096 → member → a + 4096 ≤ 0x6000000000 → ∃ t, exec (.sendInbound q data) s = .next t ∧
        t.hbm = s.hbm.store a data ∧ (t.qp q.toNat).rqCount = (c.rqCount + 1) % 2 ^ 32 ∧ s.sends t 0 (c.dip, 4791) (.ack q.toNat true []) ∧
        (c.rqSig = 0 → t.setts = s.setts ∧ t.xsig = s.xsig))) ∧
    ((∀ r ∈ s.roce, r.qp = q.toNat → r.sent = none) →
      (∀ nak data, exec (.roceAckReceived q nak data) s = .next s) ∧ exec (.qpAckTimeout q) s = .next s) ∧
    (∀ (r : RAcc), s.roce.find? (fun r => r.qp == q.toNat && r.sent.isSome) = some r →
      (∀ data, s.remoteHeld r = true → exec (.roceAckReceived q false data) s = .next s) ∧
      (∀ (data : List (BitVec 8)) (ch : Chan) (i : Nat), s.remoteHeld r = false → r.who = .burst ch i →
          (∀ x ∈ s.roce, x.qp = q.toNat → x.sent ≠ none) →
        (r.write = true → ∃ t, exec (.roceAckReceived q false data) s = .next t ∧ t.roce = s.roce.erase r ∧
          t.qp q.toNat = { c with tries := 0 } ∧ t.hbm = s.hbm ∧ t.setts = s.setts) ∧
        (∀ (a : Nat) (x : Xfer), r.write = false → r.dst = some (.hbm a) → (s.chan ch).xfer = some x → x.multi = false →
          ∃ t, exec (.roceAckReceived q false data) s = .next t ∧ t.roce = s.roce.erase r ∧
          t.qp q.toNat = { c with tries := 0 } ∧ t.hbm = s.hbm.store a (data.take r.n) ∧ t.burrow = s.burrow)) ∧
      (∀ (ch : Chan) (i : Nat), c.st ≠ 4 → s.roce = [r] → r.who = .burst ch i → (s.chan ch).xfer = none →
        (∀ data, exec (.roceAckReceived q true data) s = .next { s.setQp q.toNat { c with st := 4, tries := 0 } with roce := [] }) ∧
        (c.retry ≤ c.tries → exec (.qpAckTimeout q) s = .next { s.setQp q.toNat { c with st := 4, tries := 0 } with roce := [] })) ∧
      (c.tries < c.retry → ∃ t, exec (.qpAckTimeout q) s = .next t ∧ t.qp q.toNat = { c with tries := c.tries + 1 } ∧
        s.sends t 0 (c.dip, 4791) (.resend q.toNat) ∧ t.roce = s.roce)) ∧
    (s.linkUp 0 = false → exec (.cnpReceived q) s = .next s) ∧
    (s.linkUp 0 = true → ∃ t, exec (.cnpReceived q) s = .next t ∧
      t.reg .enHost 0x90 = BitVec.ofNat 32 (min 0xFFFFFFFF ((s.reg .enHost 0x90).toNat + 1)) ∧ (∀ m, m ≠ q.toNat → t.qp m = s.qp m) ∧
      (Word.bit (s.reg .enHost 0x54) 31 = false → t.qp q.toNat = c) ∧
      (Word.bit (s.reg .enHost 0x54) 31 = true →
        let low := fieldOf (s.reg .enHost 0x58) 31 20
        (c.rate ≤ low * 2 ^ (c.rateExp + 1) → t.qp q.toNat = { c with rate := low, rateExp := 0 }) ∧
        (low * 2 ^ (c.rateExp + 1) < c.rate → t.qp q.toNat = { c with rateExp := c.rateExp + 1 }))) ∧
    (Word.bit (s.reg .enHost 0x54) 31 = false → exec (.rateRecovery q) s = .next s) ∧
    (Word.bit (s.reg .enHost 0x54) 31 = true → ∃ t, exec (.rateRecovery q) s = .next t ∧ (∀ m, m ≠ q.toNat → t.qp m = s.qp m) ∧
      let r := c.rate + fieldOf (s.reg .enHost 0x58) 19 10 * 2 ^ c.rateExp
      (800 * 2 ^ c.rateExp ≤ r → t.qp q.toNat = { c with rate := 800, rateExp := 0 }) ∧
      (r < 800 * 2 ^ c.rateExp → t.qp q.toNat = { c with rate := r }) ∧ t.regs = s.regs)

/-- The Viaduct links (16 R378 to R382, R386): lane repair shifts by the one lane named, and two different lanes keep the port down; a
port that goes down makes one record, discards incomplete messages and ends the entries that route to it; a flit that fails is answered
with NAK and the eighth failure in a row retrains; flits in order are taken, credited and acknowledged, stale ones counted; a WRITE whose
HEAD names no receive window is discarded; a NAK resends
what is not acknowledged; a TAIL out of range halts its queue. -/
def Obligations.ViaductLinksCarryFlits : Prop :=
  (laneShift [] = some 17 ∧ (∀ (k : Fin 17) (ks : List (Fin 17)),
    ((∀ x ∈ ks, x = k) → laneShift (k :: ks) = some k.val) ∧ ((∃ x ∈ ks, x ≠ k) → laneShift (k :: ks) = none))) ∧
  ∀ (s : State) (p : Fin 8),
    let v := s.vport p
    let o := 0x100 + 0x20 * p.val
    let en := Word.bit (s.reg .vd o) 31
    let others (t : State) : Prop := ∀ j : Fin 8, j ≠ p → t.vport j = s.vport j
    let downed (t : State) : Prop := t.vport p = { VPort.reset with rxShift := v.rxShift, txShift := v.txShift } ∧
      (∃ (r : EvRec) (l : List EvRec), t.recs = s.recs ++ r :: l ∧ r.status = Code.busErr ∧ r.src = srcCode 3 0 p.val 18) ∧
      (∀ m ∈ t.vd.msgs, m.port = some p.val → m.full = true) ∧ (∀ r ∈ t.vd.run, r.port ≠ some p.val)
    (∀ (tx rx : List (Fin 17)) (c0 c1 c2 : BitVec 11),
      (en = false ∨ v.up = true → exec (.viaductPortTrain p tx rx c0 c1 c2) s = .next s) ∧
      (∀ a b : Nat, en = true → v.up = false → laneShift tx = some a → laneShift rx = some b → v.waiting = [] →
        ∃ t, exec (.viaductPortTrain p tx rx c0 c1 c2) s = .next t ∧ others t ∧
          t.vport p = { v with up := true, training := false, txShift := a, rxShift := b,
                               credits := if v.training then v.credits else #v[c0.toNat, c1.toNat, c2.toNat] } ∧
          t.tx = s.tx ++ v.held.map (fun f => Tx.viaduct p.val (leNat (f.2.take 2) / 4096) f.2) ∧
          t.reg .vd (o + 12) = (if v.held = [] then s.reg .vd (o + 12) else
            BitVec.ofNat 32 (min 0xFFFFFFFF ((s.reg .vd (o + 12)).toNat + v.held.length)))) ∧
      (en = true → v.up = false → (laneShift tx = none ∨ laneShift rx = none) →
        (v.training = false → exec (.viaductPortTrain p tx rx c0 c1 c2) s = .next s) ∧
        (v.training = true → ∃ t, exec (.viaductPortTrain p tx rx c0 c1 c2) s = .next t ∧ downed t))) ∧
    (v.up = false → v.training = false → exec (.viaductPortDown p) s = .next s) ∧
    (v.up = true ∨ v.training = true → ∃ t, exec (.viaductPortDown p) s = .next t ∧ downed t) ∧
    (∀ bytes : List (BitVec 8), v.up = false ∨ v.training = true → exec (.viaductFlitReceived p bytes) s = .next s) ∧
    (∀ bytes : List (BitVec 8), v.up = true → v.training = false → (s.reg .injX 0).toNat % 2 = 0 → v.waiting = [] →
      let f (o n : Nat) : Nat := leNat ((bytes.drop o).take n)
      let ty := f 0 2 / 4096
      let seq := f 0 2 % 4096
      let ack := f 2 2 % 4096
      let vc := f 5 1 % 4
      let src := f 6 2 % 1024
      let pay := (bytes.drop 12).take 240
      let inRx := s.rwinOk (eDst pay) (eLen pay)
      let bad := bytes.length ≠ 256 ∨ f 252 4 ≠ crc32 (bytes.take 252)
      let kept := v.held.filter (fun h => decide (2048 ≤ seqDist ack h.1))
      let idle (crvc crcnt ack : Nat) (nak : Bool) : Tx := .viaduct p.val 0 (flitBytes 0 0 crvc nak ack crcnt idleFlit)
      (bad → v.fails < 7 → ∃ t, exec (.viaductFlitReceived p bytes) s = .next t ∧ t.vport p = { v with fails := v.fails + 1 } ∧
        others t ∧ t.vd.msgs = s.vd.msgs ∧ t.tx = s.tx ++ [idle 0 0 v.rxAck true]) ∧
      (bad → 7 ≤ v.fails → ∃ t, exec (.viaductFlitReceived p bytes) s = .next t ∧ others t ∧ t.vd.msgs = s.vd.msgs ∧ t.tx = s.tx ∧
        t.vport p = { v with up := false, training := true, fails := 0, naks := 0, spoil := false } ∧
        t.reg .vd (o + 16) = BitVec.ofNat 32 (min 0xFFFFFFFF ((s.reg .vd (o + 16)).toNat + 1))) ∧
      (¬ bad → v.spoil = false →
        (ty = 0 → bitOf (f 2 2) 12 = false → f 2 2 / 2 ^ 13 % 4 = 3 → ∃ t, exec (.viaductFlitReceived p bytes) s = .next t ∧
          (t.vport p).held = kept ∧ (t.vport p).rxAck = v.rxAck ∧ (t.vport p).credits = v.credits ∧ t.tx = s.tx ∧ others t ∧
          t.vd.msgs = s.vd.msgs) ∧
        (ty = 0 → bitOf (f 2 2) 12 = true → kept ≠ [] → v.naks = 0 → ∃ t, exec (.viaductFlitReceived p bytes) s = .next t ∧
          t.tx = s.tx ++ kept.map (fun f => Tx.viaduct p.val (leNat (f.2.take 2) / 4096) f.2) ∧ (t.vport p).held = kept ∧
          t.reg .vd (o + 12) = BitVec.ofNat 32 (min 0xFFFFFFFF ((s.reg .vd (o + 12)).toNat + kept.length))) ∧
        (1 ≤ ty → ty ≤ 4 → vc < 3 → bitOf (f 2 2) 12 = false →
          (seqDist seq v.rxAck ≠ 1 → ∃ t, exec (.viaductFlitReceived p bytes) s = .next t ∧ (t.vport p).rxAck = v.rxAck ∧
            t.vd.msgs = s.vd.msgs ∧ t.tx = s.tx ++ [idle 0 0 v.rxAck true]) ∧
          (seqDist seq v.rxAck = 1 → ty = 1 → vc = 0 → inRx = false → s.rankGen src = f 5 1 / 4 % 16 → s.hosted (f 8 2 % 1024) = true →
            ∃ t, exec (.viaductFlitReceived p bytes) s = .next t ∧ (t.vport p).rxAck = seq ∧ t.vd.msgs = s.vd.msgs ++
              (if eLen pay = 0 then [] else [(⟨some p.val, (0, 0), src, f 8 2 % 1024, vc, pay.take 64, [], false, some .drop, 0, none⟩ : VMsg)])) ∧
          (seqDist seq v.rxAck = 1 → (ty = 1 → vc = 0 → inRx = true) →
            ∃ t, exec (.viaductFlitReceived p bytes) s = .next t ∧ (t.vport p).rxAck = seq ∧
            (t.vport p).fails = 0 ∧ t.tx = s.tx ++ [idle vc 1 seq false] ∧ others t ∧
            (s.rankGen src ≠ f 5 1 / 4 % 16 ∨ s.hosted (f 8 2 % 1024) = false → t.vd.msgs = s.vd.msgs ∧
              t.reg .vd 0x10 = BitVec.ofNat 32 (min 0xFFFFFFFF ((s.reg .vd 0x10).toNat + 1))) ∧
            (s.rankGen src = f 5 1 / 4 % 16 → s.hosted (f 8 2 % 1024) = true → t.reg .vd 0x10 = s.reg .vd 0x10 ∧
              (ty = 1 → t.vd.msgs = s.vd.msgs ++ [(⟨some p.val, (0, 0), src, f 8 2 % 1024, vc,
                pay.take 64, [], decide (eLen pay = 0), none, 0, none⟩ : VMsg)]) ∧
              (ty = 4 → t.vd.msgs = s.vd.msgs)))))) ∧
    (∀ q : Fin 32,
      let oq := 0x400 + 0x20 * q.val
      let size := fieldOf (s.reg .vd (oq + 8)) 16 0
      let a := (s.reg .vd (oq + 12)).toNat + fieldOf (s.reg .vd (oq + 16)) 15 0 * 2 ^ 32
      let tail := s.hbm.num a 4
      let far := size < (tail + 2 ^ 32 - s.wqHead q) % 2 ^ 32 ∨ size < (tail + 2 ^ 32 - s.vd.tails[q.val]) % 2 ^ 32
      (s.wqOn q = false → exec (.wqTailPoll q) s = .next s) ∧
      (s.wqOn q = true → inHbm a 4 = true → ¬ far → exec (.wqTailPoll q) s =
        .next (s.modVd (fun d => { d with tails := d.tails.set q.val tail }))) ∧
      (s.wqOn q = true → (inHbm a 4 = false ∨ far) → ∃ t, exec (.wqTailPoll q) s = .next t ∧ t.vd = s.vd ∧
        Word.bit (t.reg .vd (oq + 24)) 29 = true ∧ Word.bit (t.reg .vd (oq + 24)) 30 = true ∧ t.wqHead q = s.wqHead q ∧
        (∃ r : EvRec, t.recs = s.recs ++ [r] ∧ r.status = Code.bounds ∧ r.addr = a)))

/-- Work queues, messages and reduction gates (16 R382 to R384, R386 to R390): a queue gives up its entries in order; an entry without a
route or out of range completes with BOUNDS, one whose port is down with BUS_ERR, any other when it is answered; a WRITE lands whole, or not at all where it names no receive window or its memory fails it; a gate opens with the first contribution of its step, and closes when all are complete, at its deadline, or
at the end of its grace; a late contribution is added or dropped as the policy says. -/
def Obligations.WorkQueuesAndGates : Prop :=
  ∀ (s : State),
    (∀ q : Fin 32,
      let k := s.wqHead q
      let e := s.wqEntry q k
      let oq := 0x400 + 0x20 * q.val
      let ready := s.wqOn q = true ∧ k ≠ s.vd.tails[q.val] ∧ (q.val, k) ∉ s.vd.skip
      let ends (t : State) (st : Status) : Prop := t.reg .vd (oq + 20) = BitVec.ofNat 32 (k + 1) ∧
        fieldOf (t.reg .vd (oq + 24)) 7 0 = st ∧ (0x10 ≤ st → Word.bit (t.reg .vd (oq + 24)) 30 = true ∧
          ∃ r : EvRec, t.recs = s.recs ++ [r] ∧ r.status = st) ∧ (st < 0x10 → t.recs = s.recs) ∧ t.vd.run = s.vd.run ∧ t.vd.msgs = s.vd.msgs
      (∀ u : Sett, s.mayMismatch u = false) → ∀ flt : Option (BitVec 8),
      let cmds : List (Instr × Nat) := [(.write ⟨q, flt⟩, 1), (.contrib ⟨q, flt⟩, 2), (.arm q, 3)]
      (∀ c ∈ cmds, (s.wqOn q = false ∨ k = s.vd.tails[q.val]) → exec c.1 s = .next s) ∧
      (∀ c ∈ cmds, s.wqOn q = true → k ≠ s.vd.tails[q.val] → (q.val, k) ∈ s.vd.skip → s.rangeFrozen (eSrc e) (eLen e) = false →
        ∃ t, exec c.1 s = .next t ∧ t.reg .vd (oq + 20) = BitVec.ofNat 32 (k + 1) ∧ t.vd.skip = s.vd.skip.erase (q.val, k) ∧
          t.recs = s.recs ∧ t.hbm = s.hbm) ∧
      (∀ c ∈ cmds, ready → s.rangeFrozen (eSrc e) (eLen e) = false →
        (eOp e ≠ c.2 → 1 ≤ eOp e → eOp e ≤ 3 → exec c.1 s = .next s) ∧
        ((eOp e = c.2 ∨ eOp e = 0 ∨ 3 < eOp e) → s.cfgBad .vd = true → ∃ t, exec c.1 s = .next t ∧ ends t Code.cfgParity) ∧
        ((eOp e = 0 ∨ 3 < eOp e ∨ (eOp e = c.2 ∧ entryOk e = false)) → s.cfgBad .vd = false → ∃ t, exec c.1 s = .next t ∧ ends t Code.bounds)) ∧
      (∀ c ∈ [((.write ⟨q, flt⟩, 1, decide (1 ≤ eLen e) && decide (eLen e ≤ 2 ^ 30), 0) : Instr × Nat × Bool × Nat),
          (.contrib ⟨q, flt⟩, 2, eLen e % 4 == 0 && decide (eGate e < 64), 1)],
        ready → s.rangeFrozen (eSrc e) (eLen e) = false → eOp e = c.2.1 → entryOk e = true → s.cfgBad .vd = false →
        (c.2.2.1 = false ∨ s.vdRange (eSrc e) (eLen e) false = false → ∃ t, exec c.1 s = .next t ∧ ends t Code.bounds) ∧
        (∀ x : BitVec 8, c.2.2.1 = true → s.vdRange (eSrc e) (eLen e) false = true → flt = some x → memFaultOk (eSrc e) x.toNat = true →
          ∃ t, exec c.1 s = .next t ∧ ends t x.toNat) ∧
        (c.2.2.1 = true → s.vdRange (eSrc e) (eLen e) false = true → flt = none → ∃ bs, (s.readMod none (eSrc e) (eLen e)).1 = some bs ∧
          let m : VMsg := ⟨none, (q.val, k), s.rank0, eRank e, c.2.2.2, e, bs, true, none, 0, none⟩
          (s.route (eRank e) = none → ∃ t, exec c.1 s = .next t ∧ ends t Code.bounds) ∧
          (s.route (eRank e) = some none → ∃ t, exec c.1 s = .next t ∧ t.reg .vd (oq + 20) = BitVec.ofNat 32 (k + 1) ∧
            t.vd.run = s.vd.run ++ [⟨q.val, k, e, none⟩] ∧ t.tx = s.tx ∧
            (c.2.2.2 = 1 ∨ s.rwinOk (eDst e) (eLen e) = true → t.vd.msgs = s.vd.msgs ++ [m] ∧ t.vd.done = s.vd.done) ∧
            (c.2.2.2 = 0 → s.rwinOk (eDst e) (eLen e) = false → t.vd.msgs = s.vd.msgs ∧
              t.vd.done = s.vd.done ++ [(q.val, k, Code.bounds)])) ∧
          (∀ p : Fin 8, s.route (eRank e) = some (some p) →
            ((s.vport p).up = false → (s.vport p).training = false → ∃ t, exec c.1 s = .next t ∧ ends t Code.busErr) ∧
            ((s.vport p).up = true ∨ (s.vport p).training = true → ∃ t, exec c.1 s = .next t ∧
              t.vd.run = s.vd.run ++ [⟨q.val, k, e, some p.val⟩] ∧ t.vd.msgs = s.vd.msgs ∧
              ((s.vport p).training = true → (t.vport p).waiting = (s.vport p).waiting ++
                messageFlits c.2.2.2 s.rank0 (eRank e) (s.rankGen s.rank0) e bs ∧ t.tx = s.tx))))) ∧
      (ready → eOp e = 3 → entryOk e = true → s.cfgBad .vd = false →
        let a := eSrc e
        let g := gateIx (eGate e)
        let old := s.gate g
        let wrong := eRank e ≠ 0 ∨ 64 ≤ eGate e ∨ a % 64 ≠ 0 ∨ inHbm a 64 = false ∨ old.st = .opened ∨ old.st = .closing
        let new : Gate := { Gate.reset with
          st := .armed, step := eStep e, desc := s.hbm.load a 64,
          members := (List.range (blk (s.hbm.load a 64) 2 1)).map (fun j => s.hbm.num (blk (s.hbm.load a 64) 8 6 + 2 * j) 2),
          late := if (old.st = .closed ∧ old.step + 1 = eStep e) ∨ (old.st = .armed ∧ old.step = eStep e) then old.late else [] }
        (wrong → ∃ t, exec (.arm q) s = .next t ∧ ends t Code.bounds ∧ t.vd.gates = s.vd.gates) ∧
        (¬ wrong → ∀ st, s.armCheck new = st → (st ≠ Code.done → ∃ t, exec (.arm q) s = .next t ∧ ends t st ∧ t.vd.gates = s.vd.gates) ∧
          (st = Code.done → ∃ t, exec (.arm q) s = .next t ∧ ends t Code.done ∧ t.gate g = new ∧ ∀ j, j ≠ g → t.gate j = s.gate j)))) ∧
    ((∀ m ∈ s.vd.msgs, m.vc ≠ 0 ∨ m.full = false ∨ m.cls ≠ none) → exec .writeReceived s = .next s) ∧
    (∀ (m : VMsg), s.vd.msgs.find? (fun m => m.vc == 0 && m.full && m.cls.isNone) = some m → m.port = none →
      let a := eDst m.entry
      (s.rangeFrozen a (eLen m.entry) = true → exec .writeReceived s = .next s) ∧
      (s.rangeFrozen a (eLen m.entry) = false → (∀ u : Sett, s.mayMismatch u = false) →
        (∀ c : Nat, m.flt = some c → ∃ t, exec .writeReceived s = .next t ∧
          t.vd.msgs = s.vd.msgs.erase m ∧ t.vd.done = s.vd.done ++ [(m.orig.1, m.orig.2, c)] ∧ t.hbm = s.hbm ∧ t.burrow = s.burrow ∧
          t.setts = s.setts) ∧
        (m.flt = none → ∃ t, exec .writeReceived s = .next t ∧ t.vd.msgs = s.vd.msgs.erase m ∧
          t.vd.done = s.vd.done ++ [(m.orig.1, m.orig.2, Code.done)] ∧
          t.hbm = (s.writeMod none a m.data).2.hbm ∧ t.burrow = (s.writeMod none a m.data).2.burrow ∧
          (bitOf (blk m.entry 1 1) 1 = false → t.setts = (s.writeMod none a m.data).2.setts)))) ∧
    (∀ (q : Fin 32) (k : BitVec 32) (st : BitVec 8),
      ((∀ r ∈ s.vd.run, r.q ≠ q.val ∨ r.k ≠ k.toNat) → exec (.wqEntryComplete q k st) s = .next s) ∧
      (∀ (r : VRun) (c : Status), (∀ u : Sett, s.mayMismatch u = false) → s.vd.run.find? (fun r => r.q == q.val && r.k == k.toNat) = some r →
        ((∃ p, r.port = some p) ∧ c = st.toNat ∨
          r.port = none ∧ ∃ d, s.vd.done.find? (fun d => d.1 == q.val && d.2.1 == k.toNat) = some d ∧ d.2.2 = c ∧ c < 256) →
        ∃ t, exec (.wqEntryComplete q k st) s = .next t ∧ t.vd.run = s.vd.run.erase r ∧
          fieldOf (t.reg .vd (0x418 + 0x20 * q.val)) 7 0 = c ∧ (c < 0x10 → t.recs = s.recs) ∧
          (0x10 ≤ c → Word.bit (t.reg .vd (0x418 + 0x20 * q.val)) 30 = true ∧ ∃ e : EvRec, t.recs = s.recs ++ [e] ∧ e.status = c))) ∧
    ((∀ m ∈ s.vd.msgs, m.vc ≠ 1 ∨ m.cls ≠ none) → exec .contribOpen s = .next s) ∧
    (∀ (m : VMsg) (k : Nat), s.vd.msgs.find? (fun m => m.vc == 1 && m.cls.isNone) = some m → eGate m.entry < 64 →
      let g := gateIx (eGate m.entry)
      let x := s.gate g
      x.members.findIdx? (· == m.src) = some k → eLen m.entry = 4 * x.elems →
      (x.step = eStep m.entry → x.st = .armed → ∃ t, exec .contribOpen s = .next t ∧
        t.gate g = { x with st := .opened, openCyc := s.cycle, on := [(k, false)] } ∧ ({ m with cls := some (.onTime k) } : VMsg) ∈ t.vd.msgs) ∧
      (x.step = eStep m.entry → x.st = .opened → x.due = false → (∀ y ∈ x.on, y.1 ≠ k) → ∃ t, exec .contribOpen s = .next t ∧
        t.gate g = { x with on := x.on ++ [(k, false)] } ∧ ({ m with cls := some (.onTime k) } : VMsg) ∈ t.vd.msgs) ∧
      (x.step = eStep m.entry → x.st = .closed → bitOf (blk x.desc 1 1) 0 = false → (∀ y ∈ x.late, y.1 ≠ k) → ∃ t, exec .contribOpen s = .next t ∧
        t.gate g = { x with late := x.late ++ [(k, false)] } ∧ ({ m with cls := some (.late k true) } : VMsg) ∈ t.vd.msgs ∧
        (∃ r : EvRec, t.recs = s.recs ++ [r] ∧ r.status = Code.done ∧ r.step = eStep m.entry ∧ r.layer = g.val)) ∧
      ((x.step = eStep m.entry ∧ x.st = .closed ∧ bitOf (blk x.desc 1 1) 0 = true ∨ eStep m.entry + 1 < x.step) → x.st ≠ .idle → m.port = none →
        ∃ t, exec .contribOpen s = .next t ∧ t.vd.gates = s.vd.gates ∧ t.vd.done = s.vd.done ++ [(m.orig.1, m.orig.2, Code.lateDropped)] ∧
          t.reg .vd 0x0C = BitVec.ofNat 32 (min 0xFFFFFFFF ((s.reg .vd 0x0C).toNat + 1)) ∧
          (∃ r : EvRec, t.recs = s.recs ++ [r] ∧ r.status = Code.lateDropped ∧ r.step = eStep m.entry ∧ r.layer = g.val)) ∧
      (x.step < eStep m.entry → m.port = none → ∃ t, exec .contribOpen s = .next t ∧ t.vd.gates = s.vd.gates ∧
        t.vd.done = s.vd.done ++ [(m.orig.1, m.orig.2, Code.bounds)] ∧ t.recs = s.recs)) ∧
    ((∀ m ∈ s.vd.msgs, m.vc ≠ 1 ∨ m.cls = none ∨ m.full = false) → exec .contribComplete s = .next s) ∧
    (∀ (m : VMsg) (k : Nat), s.vd.msgs.find? (fun m => m.vc == 1 && m.cls.isSome && m.full) = some m → m.port = none →
      let g := gateIx (eGate m.entry)
      let x := s.gate g
      (m.cls = some (.onTime k) → ∃ t, exec .contribComplete s = .next t ∧ t.hbm = s.hbm.store (x.slot k) m.data ∧
        (⟨m.orig.1, m.orig.2, Code.done⟩ : Nat × Nat × Nat) ∈ t.vd.done ∧
        (x.st = .opened → (∀ y ∈ x.on, y.1 = k ∨ y.2 = true) → (x.on.length = x.nmem ∨ x.due = true) → (t.gate g).st = .closing ∧
          (t.gate g).closeCyc = s.cycle) ∧
        (x.st = .opened → (∃ y ∈ x.on, y.1 ≠ k ∧ y.2 = false) → (t.gate g).st = .opened)) ∧
      (m.cls = some (.late k true) → ∃ t, exec .contribComplete s = .next t ∧ t.hbm = s.hbm.store (x.lateSlot k) m.data ∧
        t.vd.done = s.vd.done ++ [(m.orig.1, m.orig.2, Code.done)] ∧
        t.reg .vd 0x08 = BitVec.ofNat 32 (min 0xFFFFFFFF ((s.reg .vd 0x08).toNat + 1)))) ∧
    (∀ g : Fin 64,
      let x := s.gate g
      (x.st ≠ .opened ∨ blk x.desc 48 4 = 0 → exec (.gateDeadline g) s = .next s) ∧
      (x.st = .opened → blk x.desc 48 4 ≠ 0 → ∃ t, exec (.gateDeadline g) s = .next t ∧ (t.gate g).due = true ∧
        ((∀ y ∈ x.on, y.2 = true) → (t.gate g).st = .closing ∧ (t.gate g).closeCyc = s.cycle) ∧
        ((∃ y ∈ x.on, y.2 = false) → (t.gate g).st = .opened ∧ t.vd.msgs = s.vd.msgs)) ∧
      (x.st ≠ .opened ∨ x.due = false → exec (.gateGraceLimit g) s = .next s) ∧
      (x.st = .opened → x.due = true → ∃ t, exec (.gateGraceLimit g) s = .next t ∧ (t.gate g).st = .closing ∧
        (t.gate g).cut = (x.on.filter (fun y => !y.2)).map (·.1) ∧ (t.gate g).on = x.on.filter (·.2) ∧ (t.gate g).closeCyc = s.cycle) ∧
      (∀ flt, x.st ≠ .closing → exec (.gateReductionDone g flt) s = .next s) ∧
      (∀ flt, x.st = .closing → ∃ t, exec (.gateReductionDone g flt) s = .next t ∧
        (t.gate g).st = (if bitOf (blk x.desc 1 1) 1 then .armed else .closed) ∧
        (t.gate g).step = (if bitOf (blk x.desc 1 1) 1 then (x.step + 1) % 2 ^ 32 else x.step) ∧
        (t.gate g).on = [] ∧ (t.gate g).cut = [] ∧ (t.gate g).due = false ∧ (∀ j, j ≠ g → t.gate j = s.gate j) ∧
        ((flt = none → s.cfgHalt = [] → t.recs = s.recs) ∧
          (flt = some 0x23 → ∃ r : EvRec, t.recs = s.recs ++ [r] ∧ r.status = 0x23 ∧ r.step = x.step ∧ r.layer = g.val))))

/-- Intake (14 R333, R334, R338 to R340, R343 to R350): a tail out of range is refused; the lowest idle core takes the next sample; a sample
that is refused or dropped is counted and recorded, a good one waits in staging for a slot of the batch; copies, the close and its
manifest, the consumer's count and the enable act as the chapter says; a write fault halts Intake. -/
def Obligations.IntakeMovesSamplesIntoBatches : Prop :=
  ∀ (s : State),
    let b := Blk.intake
    let head := (s.reg b 0x20).toNat
    let t0 := s.intake
    let up (t : State) (o : Nat) : Prop := t.reg b o = BitVec.ofNat 32 (min 0xFFFFFFFF ((s.reg b o).toNat + 1))
    let halts (t : State) (st : Status) : Prop := t.intake.halted = true ∧ t.intake.batch = none ∧ Irq.intake ∈ t.irqs ∧
      ∃ r : EvRec, t.recs = s.recs ++ [r] ∧ r.status = st
    (∀ v : BitVec 32,
      let d (x : Nat) : Nat := (x + 2 ^ 32 - head) % 2 ^ 32
      let bad := fieldOf (s.reg b 0x18) 16 0 < d v.toNat ∨ d v.toNat < d (s.reg b 0x1C).toNat
      (bad → exec (.inSubTail v) s = .next (s.setReg b 4 (s.reg b 4 ||| 8))) ∧
      (¬ bad → exec (.inSubTail v) s = .next (s.setReg b 0x1C v))) ∧
    (s.inEn = false ∨ t0.halted = true ∨ head = (s.reg b 0x1C).toNat → exec .sampleDispatch s = .next s) ∧
    (s.inEn = true → t0.halted = false → head ≠ (s.reg b 0x1C).toNat →
      let idle (c : Fin 8) : Prop := t0.cores[c.val] = none ∧ (t0.staged c.val).length < 2
      ((∀ c, ¬ idle c) → exec .sampleDispatch s = .next s) ∧
      (∀ c : Fin 8, idle c → (∀ d : Fin 8, d < c → ¬ idle d) →
        let a := s.inAddr 0x10 + 64 * (head % fieldOf (s.reg b 0x18) 16 0)
        ∃ (t : State) (j : InJob), exec .sampleDispatch s = .next t ∧ t.intake.cores = t0.cores.set c.val (some j) ∧ j.seq = head ∧
          (a < 0x6000000000 → j.desc = s.hbm.load a 64) ∧ (∀ o, s.place a false = some (.burrow o) → j.desc = s.burrow.load o 64) ∧
          j.prof = s.hbm.load (s.inAddr 0x24 + 64 * (bytesAt j.desc 5 1 % 16)) 64 ∧
          t.reg b 0x20 = BitVec.ofNat 32 (head + 1) ∧ t.hbm = s.hbm ∧ t.recs = s.recs)) ∧
    (∀ (c : Fin 8) (far : List (BitVec 8)) (flt wflt : Option (BitVec 8)), t0.cores[c.val] = none →
      exec (.sampleComplete c far flt wflt) s = .next s) ∧
    (∀ (c : Fin 8) (j : InJob) (far : List (BitVec 8)) (flt wflt : Option (BitVec 8)), t0.cores[c.val] = some j →
      let d := j.desc
      let ok := inFieldsOk d j.prof s.inSlotSize (fieldOf (s.reg b 0x48) 19 0 * 64)
      let src := s.inSource (bytesAt d 8 6) (bytesAt d 16 4)
      let s1 : State := { s with intake := { t0 with cores := t0.cores.set c.val none } }
      let codec := bytesAt d 4 1
      let bytes := (s1.inStream (bytesAt d 8 6) (bytesAt d 16 4) far).1
      let heads := Config.headers codec bytes
      let foreign := heads = [] ∨ ∃ h ∈ heads, supported codec h = false
      let big := ∃ h ∈ heads, fieldOf (s.reg b 0xC) 13 0 < h.w ∨ fieldOf (s.reg b 0xC) 29 16 < h.h
      let refused (st : Status) : Prop := ∃ t, exec (.sampleComplete c far flt wflt) s = .next t ∧ t.intake.cores = t0.cores.set c.val none ∧
        up t 0x7C ∧ t.intake.last = st ∧ t.hbm = s.hbm ∧ ∃ r : EvRec, t.recs = s.recs ++ [r] ∧ r.status = st ∧ r.layer = bytesAt d 0 4 % 65536
      let fs := (decodeStream codec c bytes (wantFrames d j.prof) State.reset).1
      let conc := (fs.map (fun f => (f.conc.eraseDups.filter (fun u => decide (u < f.units))).length)).foldl (· + ·) 0
      let total := (fs.map DecPic.units).foldl (· + ·) 0
      let keep := conc = 0 ∨ Word.bit (s.reg b 8) 0 = false ∧ conc * 256 ≤ fieldOf (s.reg b 8) 24 16 * total
      (ok = false → refused Code.bounds) ∧
      (ok = true → src ≠ Code.done → refused src) ∧
      (∀ f, ok = true → src = Code.done → flt = some f → refused (if f = 0x23 then 0x23 else Code.busErr)) ∧
      (ok = true → src = Code.done → flt = none → foreign → refused Code.streamCorrupt) ∧
      (ok = true → src = Code.done → flt = none → ¬ foreign → big → refused Code.dimClaim) ∧
      (ok = true → src = Code.done → flt = none → ¬ foreign → ¬ big → (s.reg .injX 0).toNat % 2 = 0 →
        (¬ keep → ∃ t, exec (.sampleComplete c far flt wflt) s = .next t ∧ t.intake.cores = t0.cores.set c.val none ∧ up t 0x78 ∧ t.hbm = s.hbm ∧
          ∃ r : EvRec, t.recs = s.recs ++ [r] ∧ r.status = Code.streamCorrupt) ∧
        (keep → (wflt = some 0x23 ∨ wflt = some 0x20) → ∃ t st, exec (.sampleComplete c far flt wflt) s = .next t ∧ halts t st ∧
          wflt = some (BitVec.ofNat 8 st)) ∧
        (keep → wflt = none → ∃ (t : State) (r : InReady), exec (.sampleComplete c far flt wflt) s = .next t ∧
          t.intake.cores = t0.cores.set c.val none ∧ r.core = c.val ∧ r.seq = j.seq ∧ r.id = bytesAt d 0 4 ∧ r.conc = conc ∧ r.total = total ∧
          r.status = (if conc = 0 then Code.done else Code.concealed) ∧ r.slot = (if (t0.staged c.val).contains 0 then 1 else 0) ∧
          (conc = 0 → t.recs = s.recs) ∧ (conc ≠ 0 → ∃ x : EvRec, t.recs = s.recs ++ [x] ∧ x.status = Code.concealed) ∧
          t.hbm = s.hbm.store (s.inStage c r.slot) (sampleTensor codec d j.prof fs) ∧ r.mask = packBits (sampleMask d j.prof fs) ∧
          (t0.ready = [] → (r ∈ t.intake.ready → t.reg b 0x70 = s.reg b 0x70 ∧ t.reg b 0x74 = s.reg b 0x74) ∧
            (r ∉ t.intake.ready → up t (if conc = 0 then 0x70 else 0x74))) ∧
          (r ∈ t.intake.ready ∨ ∃ w, t.intake.batch = some w ∧ (r, false) ∈ w.slots)))) ∧
    (∀ (c : Fin 8) (flt : Option (BitVec 8)),
      (t0.batch = none ∨ (∃ w, t0.batch = some w ∧ copySlot c.val w.slots 0 = none) → exec (.slotCopyDone c flt) s = .next s) ∧
      (∀ (w : InBatch) (i : Nat) (r : InReady), t0.batch = some w → copySlot c.val w.slots 0 = some i → w.slots[i]? = some (r, false) →
        (flt = some 0x23 ∨ flt = some 0x20 → ∃ t st, exec (.slotCopyDone c flt) s = .next t ∧ halts t st ∧ flt = some (BitVec.ofNat 8 st)) ∧
        (flt = none → ∃ (t : State) (w' : InBatch), exec (.slotCopyDone c flt) s = .next t ∧ t.intake.batch = some w' ∧ w'.slots[i]? = some (r, true) ∧
          t.hbm = (s.hbm.store (s.inBuf s.inProd + fieldOf (s.reg b 0x3C) 27 0 * 4096 + i * s.inSlotSize) (s.hbm.load (s.inStage c r.slot) r.size)).store
            (s.inBuf s.inProd + fieldOf (s.reg b 0x44) 27 0 * 4096 + i * (fieldOf (s.reg b 0x48) 19 0 * 64)) r.mask ∧ t.recs = s.recs))) ∧
    ((∀ w, t0.batch = some w → w.closing ≠ none) → exec .flush s = .next s) ∧
    (∀ w, t0.batch = some w → w.closing = none → exec .flush s =
      .next { s with intake := { t0 with batch := some { w with closing := some (1, s.cycle) } } }) ∧
    (∀ flt : Option (BitVec 8),
      (t0.batch = none ∨ (∃ w, t0.batch = some w ∧ (w.closing = none ∨ ∃ p ∈ w.slots, p.2 = false)) → exec (.batchClose flt) s = .next s) ∧
      (∀ w k, t0.batch = some w → w.closing = some k → (∀ p ∈ w.slots, p.2 = true) →
        (flt = some 0x23 ∨ flt = some 0x20 → ∃ t st, exec (.batchClose flt) s = .next t ∧ halts t st ∧ t.reg b 0x5C = s.reg b 0x5C ∧
          flt = some (BitVec.ofNat 8 st)) ∧
        (flt = none → ∃ t, exec (.batchClose flt) s = .next t ∧ t.reg b 0x5C = s.reg b 0x5C + 1 ∧ t.recs = s.recs ∧
          t.hbm = (s.putManifest w Code.done).hbm ∧ (t0.ready = [] → t.intake.batch = none) ∧
          (s.reg b 0x54 = 0 → t.setts = s.setts ∧ t.xsig = s.xsig)))) ∧
    (s.inEn = false → t0.busy = false → exec .consPoll s = .next s) ∧
    (s.inEn = true ∨ t0.busy = true →
      let c := s.hbm.num (s.inAddr 0x4C) 4
      let p := (s.inProd + 2 ^ 32 - c) % 2 ^ 32
      let mark := fieldOf (s.reg b 0x58) 6 0
      (s.inDepth < p → exec .consPoll s = .next (s.setReg b 4 (s.reg b 4 ||| 0x10))) ∧
      (p ≤ s.inDepth → ∃ t, exec .consPoll s = .next t ∧ t.intake.cons = c ∧ t.hbm = s.hbm ∧
        (mark ≤ s.inPrep → p < mark → Irq.intake ∈ t.irqs ∧ Word.bit (t.reg b 4) 2 = true) ∧
        (s.inPrep < mark ∨ mark ≤ p → t.irqs = s.irqs ∧ t.tx = s.tx ∧ t.reg b 4 = s.reg b 4))) ∧
    (s.inEn = true → exec (.intakeEn true) s = .next s) ∧
    (s.inEn = false →
      (s.inLayoutOk = false → exec (.intakeEn true) s = .next (s.setReg b 4 (s.reg b 4 ||| 0x20))) ∧
      (s.inLayoutOk = true → ∃ t, exec (.intakeEn true) s = .next t ∧ t.inEn = true ∧ t.reg b 0x5C = 0 ∧ t.intake.cons = 0 ∧
        t.intake.halted = false ∧ (t0.halted = true → t.intake.ready = [] ∧ t.intake.batch = none ∧ t.intake.lasts = []) ∧
        (t0.halted = false → t.intake = { t0 with cons := 0 }))) ∧
    (∃ t, exec (.intakeEn false) s = .next t ∧ t.inEn = false ∧ t.hbm = s.hbm ∧
      (t0.halted = true → t.intake = { t0 with ready := [], batch := none }) ∧
      (∀ w, t0.halted = false → t0.ready = [] → t0.lasts = [] → (∀ c : Fin 8, t0.cores[c.val] = none) → t0.batch = some w → w.closing = none →
        t.intake.batch = some { w with closing := some (3, s.cycle) }))

/-- Register accesses by address (17 R396 to R404; 00 R15): a reserved place answers BOUNDS; a write changes the RW bits, clears the W1C bits
it names and leaves every other register, on a staged register it changes the pending copy alone; an alias sets, clears or toggles RW bits;
an access to a frozen sett waits until it is accepted or withdrawn with BUS_ERR and a record. -/
def Obligations.RegisterWritesFollowTheirAccessCodes : Prop :=
  ∀ (s : State) (r : Requester) (a : BitVec 48) (v : BitVec 32),
    let ix := reqIx r
    let clear := (s.reg .injX 0).toNat % 2 = 0 ∧ s.acc = Vector.replicate 3 []
    (clear → regTarget a.toNat = none → ∃ t, exec (.registerWrite r a v) s = .next t ∧ t.rdata[ix.val] = (0, Code.bounds) ∧ t.regs = s.regs ∧
      t.setts = s.setts ∧ t.acc = s.acc) ∧
    (∀ (b : Blk) (o : Nat) (row : RegRow), clear → regTarget a.toNat = some (b, o, 0) → findRow o b.rows = some row →
      (b = .enHost ∨ b = .enMgmt ∨ (∃ h, b = .ht h) ∨ (∃ u, (b = .ve u ∨ b = .se u ∨ b = .pmS u) ∧ (s.sett u).freeze = none)) →
      let rw : Word := BitVec.ofNat 32 row.rw
      let w1c : Word := BitVec.ofNat 32 row.w1c
      let mix (old new : Word) : Word := (old &&& ~~~rw) ||| (new &&& rw)
      let wrote (i : Instr) (new : Word) (clr : Word) : Prop := ∃ t, exec i s = .next t ∧ t.rdata[ix.val] = (0, Code.done) ∧ t.acc = s.acc ∧
        t.setts = s.setts ∧ t.hbm = s.hbm ∧ t.reg b o = (if b.staged o then s.reg b o else mix (s.reg b o) new) &&& ~~~clr ∧
        t.regs.pending b o = (if b.staged o then mix (s.regs.pending b o) new else s.regs.pending b o) ∧
        (∀ (c : Blk) (p : Nat), c.key p ≠ b.key o → t.reg c p = s.reg c p ∧ t.regs.pending c p = s.regs.pending c p)
      let old := if b.staged o then s.regs.pending b o else s.view b o
      wrote (.registerWrite r a v) v (v &&& w1c) ∧
      (row.rw ≠ 0 → row.w1c = 0 → wrote (.aliasSet r a v) (old ||| v) 0 ∧ wrote (.aliasClear r a v) (old &&& ~~~v) 0 ∧
        wrote (.aliasToggle r a v) (old ^^^ v) 0) ∧
      (row.rw = 0 → ∀ i ∈ [Instr.aliasSet r a v, .aliasClear r a v, .aliasToggle r a v], ∃ t, exec i s = .next t ∧ t.regs = s.regs ∧
        t.rdata[ix.val] = (0, Code.done) ∧ t.setts = s.setts)) ∧
    (∀ (u : SettId) (o : Nat), clear → regTarget a.toNat = some (.sq u, o, 0) → (s.sett u).freeze = none →
      let w := s.sett u
      ∃ t, exec (.registerWrite r a v) s = .next t ∧ t.rdata[ix.val] = (0, Code.done) ∧ (∀ x, x ≠ u → t.sett x = s.sett x) ∧
        (o = 0x04 → t.sett u = { w with sticky := w.sticky &&& ~~~(v &&& 0x7800) }) ∧
        (o = 0x0C → (t.sett u).pc = if w.st = .run ∨ w.st = .wait then w.pc else v.toNat % 2 ^ 15) ∧
        (o = 0x18 → t.sett u = { w with step := v }) ∧
        (∀ n : Fin 32, o = 0x200 + 4 * n.val → t.sett u = { w with sig := w.sig.set n.val v, absSig := none }) ∧
        (∀ n : Fin 8, o = 0x180 + 4 * n.val → (t.sett u).cmp = w.cmp.set n.val (v &&& 0xFFFFFF0F)) ∧
        (∀ n : Fin 16, o = 0x100 + 4 * n.val → w.st = .idle → t.sett u = { w with ct := w.ct.set n.val v })) ∧
    (∀ (b : Blk) (o : Nat) (u : SettId), clear → regTarget a.toNat = some (b, o, 0) → b.sett? = some u → (s.sett u).freeze ≠ none →
      ∃ t, exec (.registerWrite r a v) s = .next t ∧ t.regs = s.regs ∧ t.setts = s.setts ∧ t.rdata = s.rdata ∧
        ∃ q : RegReq, t.acc[ix.val] = [q] ∧ q.addr = a.toNat ∧ q.vals = [v] ∧ q.issued = true) ∧
    (s.accOf r = [] → exec (.registerAccessAccepted r) s = .next s ∧ exec (.registerAccessTimeout r) s = .next s) ∧
    (∀ (q : RegReq) (rest : List RegReq), s.accOf r = q :: rest →
      (q.issued = false ∨ s.waits r q = true → exec (.registerAccessAccepted r) s = .next s) ∧
      (q.issued = false → exec (.registerAccessTimeout r) s = .next s) ∧
      (q.issued = true → rest = [] → q.link = none → ∃ t, exec (.registerAccessTimeout r) s = .next t ∧ t.accOf r = [] ∧
        t.rdata[ix.val] = (0, Code.busErr) ∧ t.regs = s.regs ∧ t.setts = s.setts ∧
        (∃ e : EvRec, t.recs = s.recs ++ [e] ∧ e.status = Code.busErr ∧ e.addr = q.addr ∧ e.src = srcCode 3 0 ix.val 6 ∧ e.step = 0xFFFFFFFF ∧
          e.layer = 0)) ∧
      (∀ (u : SettId), q.issued = true → s.waits r q = false → rest = [] → q.left = 1 → q.write = true → q.vals = [v] → q.link = none →
        q.status = Code.done → regTarget q.addr = some (.sq u, 0x18, 0) → ∃ t, exec (.registerAccessAccepted r) s = .next t ∧ t.accOf r = [] ∧
          t.rdata[ix.val] = (0, Code.done) ∧ t.sett u = { s.sett u with step := v }))

/-- Update strobes, configuration parity and the event log (17 R404 to R408, R411): a fire copies every pending value of the group's staged
registers, a fire of a busy group is held; a register whose parity fails is recorded once, counted, and halts its block; records are taken
in order, written to the ring and the head advances, and what finds no room is counted as lost. -/
def Obligations.StrobesParityAndTheLogWork : Prop :=
  ∀ (s : State),
    (∀ g : Fin 64,
      let copies (t : State) : Prop := ∀ (b : Blk) (o : Nat) (row : RegRow), b ∈ s.group g.val → findRow o b.rows = some row → b.staged o = true →
        t.reg b o &&& BitVec.ofNat 32 row.rw = s.regs.pending b o &&& BitVec.ofNat 32 row.rw
      (bitOf s.stbBusy g.val = false → ∃ t, exec (.pmStbFire (BitVec.ofNat 64 (2 ^ g.val))) s = .next t ∧ copies t ∧
        t.stbBusy = s.stbBusy ||| 2 ^ g.val ∧ t.stbHeld = s.stbHeld) ∧
      (bitOf s.stbBusy g.val = true → exec (.pmStbFire (BitVec.ofNat 64 (2 ^ g.val))) s = .next { s with stbHeld := s.stbHeld ||| 2 ^ g.val }) ∧
      (bitOf s.stbBusy g.val = false → exec (.heldStrobeFire g) s = .next s) ∧
      (bitOf s.stbBusy g.val = true → bitOf s.stbHeld g.val = false → exec (.heldStrobeFire g) s =
        .next { s with stbBusy := s.stbBusy ^^^ 2 ^ g.val }) ∧
      (bitOf s.stbBusy g.val = true → bitOf s.stbHeld g.val = true → ∃ t, exec (.heldStrobeFire g) s = .next t ∧ copies t ∧
        bitOf t.stbBusy g.val = true ∧ bitOf t.stbHeld g.val = false)) ∧
    (∀ (a : BitVec 48) (ups : List (BitVec 14 × Bool)),
      (regTarget a.toNat = none → exec (.configScrub a ups) s = .next s) ∧
      (∀ b o k u, regTarget a.toNat = some (b, o, k) → b.sett? = some u → (s.sett u).freeze ≠ none → exec (.configScrub a ups) s = .next s)) ∧
    (∀ (a : BitVec 48) (b : Blk) (o k : Nat), regTarget a.toNat = some (b, o, k) → (s.reg .injX 0).toNat % 2 = 0 →
      s.regs.badA = [] → s.regs.badP = [] →
      ((∀ u, b.sett? = some u → (s.sett u).freeze = none) → exec (.configScrub a []) s = .next s) ∧
      (∀ (u : SettId) (f : BitVec 14), b = .ve u → (f = 0x08 ∨ f = 0x0C) → (s.sett u).freeze = none → (s.sett u).st ≠ .halted →
        ∃ (t : State) (e : EvRec) (l : List EvRec), exec (.configScrub a [(f, false)]) s = .next t ∧ t.recs = s.recs ++ e :: l ∧
          e.status = Code.cfgParity ∧ e.inj = false ∧ e.addr = (Blk.ve u).addr f.toNat ∧ e.src = settSrc u 2 ∧
          Word.bit (t.reg (.ftS u) 0) 31 = true ∧
          t.reg (.ftS u) 4 = BitVec.ofNat 32 (min 0xFFFFFFFF ((s.reg (.ftS u) 4).toNat + 1)) ∧
          (t.sett u).st = .halted ∧ (t.sett u).lastFault = Code.cfgParity ∧
          (∀ w, w ≠ u → t.sett w = s.sett w)) ∧
      (∀ (h : Fin 8), b = .ht h → s.cfgBad b = false → ∃ (t : State) (e : EvRec), exec (.configScrub a [(0, false)]) s = .next t ∧
        t.recs = s.recs ++ [e] ∧ e.status = Code.cfgParity ∧ t.cfgBad b = true ∧ t.setts = s.setts ∧ t.hbm = s.hbm)) ∧
    (∀ u : Sett,
      ((s.sett u).freeze ≠ none → exec (.ftCfgpClr u) s = .next s) ∧
      ((s.sett u).freeze = none → ∃ t, exec (.ftCfgpClr u) s = .next t ∧ Word.bit (t.reg (.ftS u) 0) 31 = false ∧ t.setts = s.setts ∧
        (∀ i, i < 31 → Word.bit (t.reg (.ftS u) 0) i = Word.bit (s.reg (.ftS u) 0) i))) ∧
    (∀ src : BitVec 16, (∀ e ∈ s.recs, e.src ≠ src.toNat) → exec (.eventRecordArrival src) s = .next s) ∧
    (∀ (src : BitVec 16) (e : EvRec), s.recs.find? (fun r => r.src == src.toNat) = some e →
      let lost := BitVec.ofNat 32 (min 0xFFFFFFFF ((s.reg .ftX 0x28).toNat + 1))
      let seq := (s.logSeq + 1) % 2 ^ 32
      ∃ t, exec (.eventRecordArrival src) s = .next t ∧ t.recs = s.recs.erase e ∧ t.logSeq = seq ∧
        (s.logOn = false ∨ 256 ≤ s.logQ.length → t.logQ = s.logQ ∧ t.logCur = s.logCur ∧ t.reg .ftX 0x28 = lost ∧ t.logGap = true) ∧
        (s.logOn = true → s.logQ.length < 256 → s.logCur ≠ none → t.logQ = s.logQ ++ [(s.logSeq, e)] ∧ t.logCur = s.logCur) ∧
        (s.logOn = true → s.logQ = [] → s.logCur = none → s.logUsed < s.logSize → t.logQ = [] ∧ t.logCur = some (s.logSeq, e, s.logGap) ∧
          t.logGap = false) ∧
        (s.logOn = true → s.logQ = [] → s.logCur = none → s.logSize ≤ s.logUsed → t.logQ = [] ∧ t.logCur = none ∧ t.reg .ftX 0x28 = lost ∧
          t.logGap = true)) ∧
    (∀ ok, s.logCur = none → exec (.eventRecordWritten ok) s = .next s) ∧
    (∀ (n : Nat) (e : EvRec) (gap : Bool), s.logCur = some (n, e, gap) →
      let a := s.logBase + 64 * ((s.reg .ftX 0x1C).toNat % max 1 s.logSize)
      let fits := s.logBase % 4096 = 0 ∧ a + 64 ≤ 0x6000000000
      let mark := fieldOf (s.reg .ftX 0x24) 24 0
      (fits → ∃ t, exec (.eventRecordWritten true) s = .next t ∧
        t.hbm = s.hbm.store a (leBytes 1 e.status ++ leBytes 1 ((if e.inj then 1 else 0) + (if gap then 2 else 0)) ++ leBytes 2 e.src ++
          leBytes 4 e.step ++ leBytes 4 e.layer ++ leBytes 4 n ++ leBytes 8 e.cycle ++ leBytes 8 e.addr ++
          (e.detail ++ List.replicate 32 0).take 32) ∧
        t.reg .ftX 0x1C = s.reg .ftX 0x1C + 1 ∧ (s.logQ = [] → t.logCur = none ∧ t.reg .ftX 0x28 = s.reg .ftX 0x28) ∧
        (mark ≠ 0 → (s.reg .ftX 0x1C + 1 - s.reg .ftX 0x20).toNat = mark → Irq.logMark ∈ t.irqs ∧ Word.bit (t.reg .ftX 0x24) 30 = true)) ∧
      (∀ ok, (ok = false ∨ ¬ fits) → ∃ t, exec (.eventRecordWritten ok) s = .next t ∧ t.hbm = s.hbm ∧
        t.reg .ftX 0x1C = s.reg .ftX 0x1C ∧ Word.bit (t.reg .ftX 0x24) 29 = true ∧
        (s.logQ = [] → t.reg .ftX 0x28 = BitVec.ofNat 32 (min 0xFFFFFFFF ((s.reg .ftX 0x28).toNat + 1)) ∧ t.logGap = true)))

/-- Supply, resets, clock steps and the power and thermal loops (18 R416 to R424; 19 R435): a warning is recorded once and notified, and
holds every step at 0 where the slow-down is chosen; a reset leaves memory, fuses and the cause; the release is WAITSUP; a measurement
above the budget sets CAP_P to 0; a tick moves the caps by one, and acts on a temperature at the limit or the trip; steps fall at once and
rise with the rail. -/
def Obligations.SupplyResetsAndPowerLoops : Prop :=
  ∀ (s : State),
    let quiet := (s.reg .injX 0).toNat % 2 = 0
    let warn := Word.bit (s.reg .pmX 0) 31
    let cap := fieldOf (s.reg .pmX 8) 4 0
    let resets (t : State) (cause : Nat) (was : Bool) : Prop :=
      t.hbm = s.hbm ∧ t.burrow = s.burrow ∧ t.flash = s.flash ∧ t.tx = s.tx ∧ t.txWait = [] ∧ t.pending = s.pending ∧ t.pw.held = true ∧ t.setts = State.reset.setts ∧
      t.eps = State.reset.eps ∧ t.recs = [] ∧ t.irqs = [] ∧ t.sc.stage = .rom ∧ t.sc.m = List.replicate 64 0 ∧ t.sc.log = [] ∧ t.vd = State.reset.vd ∧
      t.intake = State.reset.intake ∧ t.reg .injX 0 = 0 ∧ Word.bit (t.reg .pmX 0) 31 = warn ∧
      t.reg .pmX 0x10 = BitVec.ofNat 32 (if was then min cause (fieldOf (s.reg .pmX 0x10) 3 0) else cause) ∧
      (s.sc.blow = none → t.sc.ctrs = s.sc.ctrs)
    (warn = true → exec .supplyWarning s = .next s) ∧
    (warn = false → ∃ t, exec .supplyWarning s = .next t ∧ Word.bit (t.reg .pmX 0) 31 = true ∧ Word.bit (t.reg .pmX 0) 30 = true ∧
      Irq.supply ∈ t.irqs ∧ (∃ e : EvRec, t.recs = s.recs ++ [e] ∧ e.status = Code.supplyWarn) ∧ t.hbm = s.hbm ∧
      (∀ ep : Fin 2, bitOf (s.eps[ep.val]).mask 4 = true → ∃ (f : EthFrame) (k : Nat), (.eth f ∈ t.tx ∨ f ∈ t.txWait) ∧ f.port = ep ∧
        f.body = .note 4 k Code.supplyWarn 0 s.cycle ∧ f.dip = leNat ((s.eps[ep.val]).naddr.take 16) ∧
        f.dport = leNat ((s.eps[ep.val]).naddr.drop 16)) ∧
      (Word.bit (s.reg .pmX 0) 29 = false → t.pw = s.pw) ∧
      (Word.bit (s.reg .pmX 0) 29 = true → t.pw.warnCap = true ∧ ∀ u : SettId, fieldOf (t.reg (.pmS u) 0) 20 16 = 0)) ∧
    (∃ t, exec .supplyWarningClear s = .next t ∧ Word.bit (t.reg .pmX 0) 31 = false ∧ t.pw = { s.pw with warnCap := false } ∧
      t.setts = s.setts ∧ t.recs = s.recs) ∧
    (∃ t, exec .supplyReset s = .next t ∧ resets t 1 s.pw.held) ∧ (∃ t, exec .overVoltageReset s = .next t ∧ resets t 2 s.pw.held) ∧
    (∃ t, exec .thermalTrip s = .next t ∧ resets t 3 s.pw.held) ∧ (∃ t, exec (.resetN true) s = .next t ∧ resets t 4 s.pw.held ∧ t.pw.pinLow = true) ∧
    (exec (.resetN false) s = .next { s with pw := { s.pw with pinLow := false } }) ∧
    (exec .memoryHoldLoss s = .next { s with hbm := [], burrow := [], pw := { s.pw with lost := true } }) ∧
    (s.pw.lost = false → exec .powerOnReset s = .next s) ∧
    (s.pw.lost = true → ∃ t, exec .powerOnReset s = .next t ∧ resets t 0 s.pw.held ∧ t.pw.lost = true) ∧
    (s.pw.held = false ∨ s.pw.pinLow = true → exec .resetRelease s = .next s) ∧
    (s.pw.held = true → s.pw.pinLow = false → ∃ t, exec .resetRelease s = .next t ∧ t.pw = { s.pw with held := false } ∧ t.sc.stage = .waitsup ∧
      Word.bit (t.reg .pmX 0x10) 8 = !s.pw.lost ∧ t.setts = s.setts ∧ t.hbm = s.hbm) ∧
    (∀ key : BitVec 16, (key ≠ 0xA5C3 → exec (.pmRstCtl key) s = .next s) ∧
      (key = 0xA5C3 → exec (.pmRstCtl key) s = .next { s with pw := { s.pw with swDue := true } })) ∧
    (s.pw.swDue = false → exec .softwareReset s = .next s) ∧
    (s.pw.swDue = true → ∃ t, exec .softwareReset s = .next t ∧ resets t 5 s.pw.held) ∧
    (∀ w vin : BitVec 16, quiet → ∃ t, exec (.powerMeasurement w vin) s = .next t ∧ fieldOf (t.reg .pmX 4) 15 0 = w.toNat ∧
      fieldOf (t.reg .pmX 0) 15 0 = vin.toNat ∧ t.recs = s.recs ∧ t.hbm = s.hbm ∧
      (s.pw.budget < (w.toNat : Int) → fieldOf (t.reg .pmX 8) 4 0 = 0 ∧ Word.bit (t.reg .pmX 8) 8 = true ∧
        ∀ u : SettId, fieldOf (t.reg (.pmS u) 0) 20 16 = 0) ∧
      ((w.toNat : Int) ≤ s.pw.budget → t.reg .pmX 8 = s.reg .pmX 8 ∧ ∀ u : SettId, t.reg (.pmS u) 0 = s.reg (.pmS u) 0)) ∧
    (∀ (avg : BitVec 16) (x : Temps), quiet → (∃ w ∈ x.setts ++ x.die ++ x.thehan ++ [x.xalor], 1840 ≤ signedOf 16 w.toNat) →
      ∃ t, exec (.powerLoopTick avg x) s = .next t ∧ resets t 3 s.pw.held) ∧
    (∀ (avg : BitVec 16) (x : Temps), quiet → (∀ w ∈ x.setts ++ x.die ++ x.thehan ++ [x.xalor], signedOf 16 w.toNat < 1840) → ∃ t, exec (.powerLoopTick avg x) s = .next t ∧
      let ticks := (avg.toNat :: s.pw.ticks).take 9
      let b : Int := min 2950 (26000 - ((ticks.foldl (· + ·) 0 : Nat) : Int))
      let target : Int := (fieldOf (s.reg .pmX 0xC) 23 16 : Nat) * 16
      let ofSetts (d : Fin 2) : List Int := (List.range x.setts.length).filterMap (fun k =>
        if k / 128 = d.val then (x.setts[k]?).map (fun w => signedOf 16 w.toNat) else none)
      let hot (d : Fin 2) : Int := max ((ofSetts d).foldl max
        (max (signedOf 16 (x.die.getD d.val 0).toNat) (signedOf 16 (x.thehan.getD d.val 0).toNat))) (signedOf 16 x.xalor.toNat)
      t.pw.ticks = ticks ∧ t.pw.budget = b ∧ fieldOf (t.reg .pmX 4) 31 16 = avg.toNat ∧ Word.bit (t.reg .pmX 8) 8 = false ∧
      (95 * b < 100 * (avg.toNat : Int) → fieldOf (t.reg .pmX 8) 4 0 = cap - 1) ∧
      (100 * (avg.toNat : Int) < 85 * b → fieldOf (t.reg .pmX 8) 4 0 = min 16 (cap + 1)) ∧
      (100 * (avg.toNat : Int) ≤ 95 * b → 85 * b ≤ 100 * (avg.toNat : Int) → fieldOf (t.reg .pmX 8) 4 0 = cap) ∧
      (∀ d : Fin 2,
        let old := fieldOf (s.reg (.pmD d) 0) 20 16
        (1680 ≤ hot d → fieldOf (t.reg (.pmD d) 0) 20 16 = 0) ∧
        (hot d < 1680 → target ≤ hot d → fieldOf (t.reg (.pmD d) 0) 20 16 = old - 1) ∧
        (hot d < 1680 → hot d < target - 32 → fieldOf (t.reg (.pmD d) 0) 20 16 = min 16 (old + 1)) ∧
        (hot d < 1680 → target - 32 ≤ hot d → hot d < target → fieldOf (t.reg (.pmD d) 0) 20 16 = old)) ∧
      (∀ u : SettId, fieldOf (t.reg (.pmS u) 0) 20 16 ≤ t.stepMax u)) ∧
    (∀ d : Fin 2, ∃ t, exec (.thermalLimit d) s = .next t ∧ fieldOf (t.reg (.pmD d) 0) 20 16 = 0 ∧
      (∀ u : SettId, dieOf u = d.val → fieldOf (t.reg (.pmS u) 0) 20 16 = 0) ∧ t.recs = s.recs ∧ t.setts = s.setts) ∧
    (∀ d : Fin 2, ∃ t, exec (.railSettled d) s = .next t ∧ t.setts = s.setts ∧
      (∀ u : SettId, dieOf u = d.val → fieldOf (t.reg (.pmS u) 0) 20 16 = max (s.curStep u) (s.stepMax u)) ∧
      (∀ u : SettId, dieOf u ≠ d.val → t.reg (.pmS u) 0 = s.reg (.pmS u) 0))

/-- Boot, measurement, debug policy and test access (18 R425 to R431; 19 R438): BRINGUP measures the ROM and the fuses; the first image that
verifies runs, else recovery waits for BOOT; a token opens debug or is recorded, and the nonce is renewed; counters advance only by the
management core; an extension is appended; an instruction outside the boundary-scan set selects BYPASS unless debug is open. -/
def Obligations.BootSecurityAndTestAccess : Prop :=
  ∀ (s : State),
    let reads (m : Mem) (base : Nat) : Reader := fun o n => m.load (base + o) n
    let runs (t : State) (rd : Reader) : Prop := t.sc.stage = .run ∧ t.sram = Mem.store [] 0 (rd 0 (8192 + leNat (rd 12 4))) ∧
      (s.sc.log.length < 256 → ∃ e : MeasEnt, t.sc.log = s.sc.log ++ [e] ∧ e.type = 3 ∧ e.svn = leNat (rd 8 4) ∧
        e.digest = shake256 (rd 0 2040) 64 ∧ t.sc.m = shake256 (s.sc.m ++ leBytes 2 3 ++ e.digest) 64)
    (s.pw.held = true ∨ s.warn = true ∨ (s.sc.stage ≠ .rom ∧ s.sc.stage ≠ .waitsup) → exec .waitsup s = .next s) ∧
    (s.pw.held = false → s.warn = false → (s.sc.stage = .rom ∨ s.sc.stage = .waitsup) → ∃ t, exec .waitsup s = .next t ∧
      t.sc.stage = .bringup ∧ t.sc.keyed = true ∧ t.setts = s.setts ∧ t.hbm = s.hbm ∧
      (s.sc.log.length < 255 → ∃ e f : MeasEnt, t.sc.log = s.sc.log ++ [e, f] ∧ e.type = 1 ∧ f.type = 2 ∧
        f.digest = shake256 (fuseMap ++ fuseSum s.sc.ctrs.toList) 64)) ∧
    (∀ errA errB : Bool,
      let va := verifyImage (reads s.flash 0) s.sc.ctrs[0]
      let vb := verifyImage (reads s.flash 0x2000000) s.sc.ctrs[0]
      (s.sc.stage ≠ .bringup → exec (.verify errA errB) s = .next s) ∧
      (s.sc.stage = .bringup →
        (errA = false → va = Code.done → ∃ t, exec (.verify errA errB) s = .next t ∧ runs t (reads s.flash 0) ∧ t.sc.slotB = s.sc.slotB) ∧
        ((errA = true ∨ va ≠ Code.done) → errB = false → vb = Code.done → ∃ t, exec (.verify errA errB) s = .next t ∧
          runs t (reads s.flash 0x2000000) ∧ t.sc.slotB = true ∧ t.sc.errA = (if errA then Code.busErr else va)) ∧
        ((errA = true ∨ va ≠ Code.done) → (errB = true ∨ vb ≠ Code.done) → ∃ t, exec (.verify errA errB) s = .next t ∧
          t.sc.stage = .recovery ∧ t.sc.errA = (if errA then Code.busErr else va) ∧ t.sc.errB = (if errB then Code.busErr else vb) ∧
          t.sram = s.sram ∧ t.sc.log = s.sc.log))) ∧
    (s.sc.stage ≠ .recovery → exec .scCtlBoot s = .next s) ∧
    (s.sc.stage = .recovery →
      let a := s.scAddr
      let v := verifyImage (reads s.hbm a) s.sc.ctrs[0]
      let inside := a % 4096 = 0 ∧ a + (8192 + leNat (s.hbm.load (a + 12) 4)) ≤ 0x6000000000
      (a % 4096 ≠ 0 → ∃ t, exec .scCtlBoot s = .next t ∧ t.sc = { s.sc with errA := Code.bounds }) ∧
      (inside → v ≠ Code.done → ∃ t, exec .scCtlBoot s = .next t ∧ t.sc = { s.sc with errA := v } ∧ t.sram = s.sram) ∧
      (inside → v = Code.done → ∃ t, exec .scCtlBoot s = .next t ∧ runs t (reads s.hbm a) ∧ t.sc.recovery = true)) ∧
    (s.sc.locked = true → exec .scCtlUnlock s = .next s) ∧
    (s.sc.locked = false → (s.reg .injX 0).toNat % 2 = 0 →
      let a := s.scAddr
      let good := a % 4096 = 0 ∧ a + 5389 ≤ 0x6000000000 ∧ s.tokenOk (reads s.hbm a) = true
      (good → ∃ t, exec .scCtlUnlock s = .next t ∧ t.sc.unlocked = true ∧ t.sc.nonce = s.freeCtr ∧ t.recs = s.recs ∧
        (s.sc.log.length < 256 → ∃ e : MeasEnt, t.sc.log = s.sc.log ++ [e] ∧ e.type = 4 ∧ e.digest = shake256 (s.hbm.load a 128) 64)) ∧
      (¬ good → ∃ t, exec .scCtlUnlock s = .next t ∧ t.sc.unlocked = s.sc.unlocked ∧ t.sc.nonce = s.freeCtr ∧ t.sc.log = s.sc.log ∧
        ∃ e : EvRec, t.recs = s.recs ++ [e] ∧ e.status = Code.authFail)) ∧
    (∀ (r : Requester) (k : Fin 4) (key : BitVec 16),
      (key ≠ 0x4B4C → exec (.scRbBump r k key) s = .next s) ∧
      (key = 0x4B4C → (r ≠ .mgmt ∨ s.warn = true ∨ s.sc.ctrs[k.val] = 64 ∨ s.sc.blow ≠ none ∨ s.sc.locked = true) →
        exec (.scRbBump r k key) s = .next (s.setReg .sc 0 (s.reg .sc 0 ||| 0x40000))) ∧
      (key = 0x4B4C → r = .mgmt → s.warn = false → s.sc.ctrs[k.val] ≠ 64 → s.sc.blow = none → s.sc.locked = false →
        exec (.scRbBump r k key) s = .next { s with sc := { s.sc with blow := some k } })) ∧
    (s.sc.blow = none → exec .counterAdvanceDone s = .next s) ∧
    (∀ k, s.sc.blow = some k → exec .counterAdvanceDone s =
      .next { s with sc := { s.sc with ctrs := s.sc.ctrs.set k.val (s.sc.ctrs[k.val] + 1), blow := none } }) ∧
    (∀ (r : Requester) (x : BitVec 16), (r ≠ .mgmt ∨ x.toNat < 0x100 → exec (.scExtCtl r x) s = .next s) ∧
      (r = .mgmt → 0x100 ≤ x.toNat →
        let d := (List.range 16).flatMap (fun i => leBytes 4 (s.reg .sc (0x80 + 4 * i)).toNat)
        (256 ≤ s.sc.log.length → exec (.scExtCtl r x) s = .next { s with sc := { s.sc with logFull := true } }) ∧
        (s.sc.log.length < 256 → exec (.scExtCtl r x) s = .next { s with sc := { s.sc with
          m := shake256 (s.sc.m ++ leBytes 2 x.toNat ++ d) 64, log := s.sc.log ++ [⟨x.toNat, 0, s.cycle, d⟩] } }))) ∧
    (∀ i : JtagInstr, exec (.jtagInstruction i) s = .next { s with jtag := some (match i with
      | .other ir => if s.debugOk then .other ir else .bypass
      | x => x) })

/-- Injection (17 R412): points act only while ALLOW is 1; a write of 1 is ignored unless the policy permits injection; clearing ALLOW
disarms every point of the module; a write to INJ_CTL with EN arms its point from the values written, without EN it disarms it (R413). -/
def Obligations.InjectionActsOnlyWhileAllowed : Prop :=
  ∀ (s : State),
    (∀ (b : Blk) (p : Nat) (sel : Nat → Bool) (k : Nat), (s.reg .injX 0).toNat % 2 = 0 → s.injStep b p sel k = (none, s)) ∧
    (s.injOk = false → exec (.injGlobalAllow true) s = .next s) ∧
    (s.injOk = true → ∃ t, exec (.injGlobalAllow true) s = .next t ∧ t.reg .injX 0 = 1 ∧ t.sc.injEver = true ∧ t.inj = s.inj ∧
      t.setts = s.setts ∧ (s.sc.injEver = true → t.sc = s.sc) ∧
      (s.sc.injEver = false → s.sc.log.length < 256 → ∃ e : MeasEnt, t.sc.log = s.sc.log ++ [e] ∧ e.type = 5)) ∧
    (∃ t, exec (.injGlobalAllow false) s = .next t ∧ t.reg .injX 0 = 0 ∧ t.inj = [] ∧ t.setts = s.setts ∧ t.sc = s.sc ∧
      (∀ (b : Blk) (p : Nat), ((∃ u, b = .injS u) ∧ p < 6 ∨ (∃ d, b = .injD d) ∧ p < 8 ∨ b = .injX ∧ (p < 11 ∨ 16 ≤ p ∧ p < 22)) →
        Word.bit (t.reg b (0x100 + 16 * p)) 31 = false ∧ Word.bit (t.reg b (0x100 + 16 * p)) 28 = false)) ∧
    (∀ (a : BitVec 48) (p : Fin 32) (v : BitVec 32),
      (regTarget a.toNat = none → exec (.injCtl a p v) s = .next s) ∧
      (∀ b o k, regTarget a.toNat = some (b, o, k) → b.hasPoint p.val = false → exec (.injCtl a p v) s = .next s) ∧
      (∀ b o k, regTarget a.toNat = some (b, o, k) → b.hasPoint p.val = true → (∀ u, b.sett? = some u → (s.sett u).freeze = none) →
        let at_ := 0x100 + 16 * p.val
        ∃ t, exec (.injCtl a p v) s = .next t ∧ t.setts = s.setts ∧ t.hbm = s.hbm ∧
          Word.bit (t.reg b at_) 31 = Word.bit v 31 ∧ Word.bit (t.reg b at_) 28 = Word.bit v 31 ∧
          fieldOf (t.reg b at_) 23 0 = fieldOf v 23 0 ∧ Word.bit (t.reg b at_) 30 = Word.bit v 30 ∧ Word.bit (t.reg b at_) 29 = Word.bit v 29 ∧
          (Word.bit v 31 = true → Tbl.find t.inj (b.key at_) = some (s.reg b (at_ + 4)).toNat) ∧
          (Word.bit v 31 = false → Tbl.find t.inj (b.key at_) = none)))
end

