-- ==== Sys2Proof/Laws/Crc.lean ====
section
/-!
SUPPORT. CRC-32 in parts: the register after a list of bytes, and how it continues.
-/
namespace Sys2Proof.Machine

/-- The register after some bytes, from a given register. -/
def crcFrom (c : BitVec 32) (bs : List Byte) : BitVec 32 := bs.foldl (fun c b => crcBits 8 (c ^^^ b.setWidth 32)) c

theorem crc32_eq (bs : List Byte) : crc32 bs = (crcFrom 0xFFFFFFFF#32 bs ^^^ 0xFFFFFFFF#32).toNat := rfl

@[simp] theorem crcFrom_nil (c : BitVec 32) : crcFrom c [] = c := rfl

theorem crcFrom_append (c : BitVec 32) (xs ys : List Byte) : crcFrom c (xs ++ ys) = crcFrom (crcFrom c xs) ys := List.foldl_append

theorem crc32_lt (bs : List Byte) : crc32 bs < 2 ^ 32 := BitVec.isLt _

end Sys2Proof.Machine
end

