-- ==== Sys2Proof/Laws/Mem.lean ====
section
/-!
SUPPORT. Laws of byte memories: every operation keeps the canonical form, a write is read back, other bytes stay.
-/
namespace Sys2Proof.Machine

theorem Mem.wfFrom_mono {m : Mem} : ∀ {a b : Nat}, b ≤ a → Mem.wfFrom a m = true → Mem.wfFrom b m = true := by
  cases m with
  | nil => intro a b _ _; rfl
  | cons c m =>
    obtain ⟨k, v⟩ := c
    intro a b hab h
    simp only [Mem.wfFrom, Bool.and_eq_true, decide_eq_true_eq] at h ⊢
    exact ⟨⟨by omega, h.1.2⟩, h.2⟩

/-- Leaving cells out keeps the form. -/
theorem Mem.wfFrom_filter (p : Host.Cell → Bool) : ∀ (m : Mem) (a : Nat), Mem.wfFrom a m = true → Mem.wfFrom a (m.filter p) = true := by
  intro m
  induction m with
  | nil => intro a _; rfl
  | cons c m ih =>
    obtain ⟨k, v⟩ := c
    intro a h
    simp only [Mem.wfFrom, Bool.and_eq_true, decide_eq_true_eq] at h
    rw [List.filter_cons]
    split
    · simp only [Mem.wfFrom, Bool.and_eq_true, decide_eq_true_eq]
      exact ⟨h.1, ih (k + 1) h.2⟩
    · exact Mem.wfFrom_mono (by omega) (ih (k + 1) h.2)

/-- Cells at or above a bound keep the form from that bound. -/
theorem Mem.wfFrom_above (b : Nat) : ∀ (m : Mem) (a : Nat), Mem.wfFrom a m = true →
    Mem.wfFrom b (m.filter (fun c => decide (b ≤ c.1))) = true := by
  intro m
  induction m with
  | nil => intro a _; rfl
  | cons c m ih =>
    obtain ⟨k, v⟩ := c
    intro a h
    simp only [Mem.wfFrom, Bool.and_eq_true, decide_eq_true_eq] at h
    rw [List.filter_cons]
    split
    · rename_i hb
      simp only [decide_eq_true_eq] at hb
      simp only [Mem.wfFrom, Bool.and_eq_true, decide_eq_true_eq]
      exact ⟨⟨hb, h.1.2⟩, Mem.wfFrom_filter _ m (k + 1) h.2⟩
    · exact ih (k + 1) h.2

/-- Two runs in the form, the second above the first. -/
theorem Mem.wfFrom_append (b : Nat) : ∀ (m n : Mem) (a : Nat), a ≤ b → Mem.wfFrom a m = true → (∀ c ∈ m, c.1 < b) →
    Mem.wfFrom b n = true → Mem.wfFrom a (m ++ n) = true := by
  intro m
  induction m with
  | nil => intro n a hab _ _ hn; exact Mem.wfFrom_mono hab hn
  | cons c m ih =>
    obtain ⟨k, v⟩ := c
    intro n a hab h hlt hn
    simp only [Mem.wfFrom, Bool.and_eq_true, decide_eq_true_eq] at h
    have hk : k < b := hlt (k, v) (by simp)
    simp only [List.cons_append, Mem.wfFrom, Bool.and_eq_true, decide_eq_true_eq]
    exact ⟨h.1, ih n (k + 1) (by omega) h.2 (fun c hc => hlt c (by simp [hc])) hn⟩

theorem Mem.wfFrom_cells : ∀ (bs : List Byte) (a : Nat), Mem.wfFrom a (Mem.cells a bs) = true := by
  intro bs
  induction bs with
  | nil => intro a; rfl
  | cons b bs ih =>
    intro a
    simp only [Mem.cells]
    split
    · exact Mem.wfFrom_mono (by omega) (ih (a + 1))
    · rename_i hb
      simp only [Mem.wfFrom, Bool.and_eq_true, decide_eq_true_eq]
      exact ⟨⟨Nat.le_refl a, hb⟩, ih (a + 1)⟩

theorem Mem.cells_lt : ∀ (bs : List Byte) (a : Nat), ∀ c ∈ Mem.cells a bs, c.1 < a + bs.length := by
  intro bs
  induction bs with
  | nil => intro a c hc; simp [Mem.cells] at hc
  | cons b bs ih =>
    intro a c hc
    simp only [Mem.cells] at hc
    split at hc
    · have := ih (a + 1) c hc; simp only [List.length_cons]; omega
    · rcases List.mem_cons.mp hc with h | h
      · subst h; simp only [List.length_cons]; omega
      · have := ih (a + 1) c h; simp only [List.length_cons]; omega

/-- A store keeps the canonical form. -/
theorem Mem.store_wf (m : Mem) (a : Nat) (bs : List Byte) (h : m.wf = true) : (m.store a bs).wf = true := by
  have h1 := Mem.wfFrom_append a (m.filter (fun c => decide (c.1 < a))) (Mem.cells a bs) 0 (by omega)
    (Mem.wfFrom_filter _ m 0 h) (by intro c hc; simpa using (List.mem_filter.mp hc).2) (Mem.wfFrom_cells bs a)
  exact Mem.wfFrom_append (a + bs.length) _ _ 0 (by omega) h1
    (by
      intro c hc
      rcases List.mem_append.mp hc with h | h
      · have := (List.mem_filter.mp h).2; simp only [decide_eq_true_eq] at this; omega
      · exact Mem.cells_lt bs a c h)
    (Mem.wfFrom_above (a + bs.length) m 0 h)

theorem Mem.write_wf (m : Mem) (a : Nat) (b : Byte) (h : m.wf = true) : (m.write a b).wf = true := Mem.store_wf m a [b] h

theorem Mem.putNum_wf (m : Mem) (a n v : Nat) (h : m.wf = true) : (m.putNum a n v).wf = true := Mem.store_wf m a _ h

theorem Mem.zero_wf (m : Mem) (a n : Nat) (h : m.wf = true) : (m.zero a n).wf = true := Mem.wfFrom_filter _ m 0 h

/-- A read looks in the first run, unless no cell there has the address. -/
theorem Mem.read_append (x : Nat) : ∀ (m n : Mem), (∀ c ∈ m, c.1 ≠ x) → Mem.read (m ++ n) x = Mem.read n x := by
  intro m
  induction m with
  | nil => intro n _; rfl
  | cons c m ih =>
    obtain ⟨k, v⟩ := c
    intro n h
    have hk : k ≠ x := h (k, v) (by simp)
    rw [List.cons_append, Mem.read, if_neg (Ne.symm hk)]
    exact ih n (fun c hc => h c (by simp [hc]))

/-- A read of a run that no later cell with the address matters to. -/
theorem Mem.read_append_left (x : Nat) : ∀ (m n : Mem), (∀ c ∈ n, c.1 ≠ x) → Mem.read (m ++ n) x = Mem.read m x := by
  intro m
  induction m with
  | nil =>
    intro n h
    have := Mem.read_append x n [] h
    simpa [Mem.read] using this
  | cons c m ih =>
    obtain ⟨k, v⟩ := c
    intro n h
    simp only [List.cons_append, Mem.read, ih n h]

theorem Mem.read_filter (x : Nat) (p : Host.Cell → Bool) : ∀ (m : Mem), (∀ v, p (x, v) = true) → Mem.read (m.filter p) x = Mem.read m x := by
  intro m h
  induction m with
  | nil => rfl
  | cons c m ih =>
    obtain ⟨k, v⟩ := c
    rw [List.filter_cons]
    split
    · simp only [Mem.read, ih]
    · rename_i hp
      have hk : x ≠ k := by
        intro e; subst e; exact hp (h v)
      rw [ih, Mem.read, if_neg hk]

theorem Mem.cells_ge : ∀ (bs : List Byte) (a : Nat), ∀ c ∈ Mem.cells a bs, a ≤ c.1 := by
  intro bs
  induction bs with
  | nil => intro a c hc; simp [Mem.cells] at hc
  | cons b bs ih =>
    intro a c hc
    simp only [Mem.cells] at hc
    split at hc
    · have := ih (a + 1) c hc; omega
    · rcases List.mem_cons.mp hc with h | h
      · subst h; exact Nat.le_refl a
      · have := ih (a + 1) c h; omega

/-- The cells of a block hold its bytes. -/
theorem Mem.read_cells : ∀ (bs : List Byte) (a i : Nat), Mem.read (Mem.cells a bs) (a + i) = bs.getD i 0 := by
  intro bs
  induction bs with
  | nil => intro a i; simp [Mem.cells, Mem.read]
  | cons b bs ih =>
    intro a i
    simp only [Mem.cells]
    cases i with
    | zero =>
      split
      · rename_i hb
        have : ∀ c ∈ Mem.cells (a + 1) bs, c.1 ≠ a := by
          intro c hc; have := Mem.cells_ge bs (a + 1) c hc; omega
        have h0 := Mem.read_append a (Mem.cells (a + 1) bs) [] this
        rw [List.append_nil] at h0
        simp [Mem.read, hb] at h0 ⊢
        exact h0
      · simp [Mem.read]
    | succ i =>
      have e : a + (i + 1) = a + 1 + i := by omega
      split
      · rw [e, ih (a + 1) i]; simp
      · rw [Mem.read, if_neg (by omega), e, ih (a + 1) i]; simp

/-- A byte inside a store reads as stored. -/
theorem Mem.read_store_in (m : Mem) (a : Nat) (bs : List Byte) (i : Nat) (h : i < bs.length) :
    (m.store a bs).read (a + i) = bs.getD i 0 := by
  unfold Mem.store
  rw [Mem.read_append_left]
  · rw [Mem.read_append]
    · exact Mem.read_cells bs a i
    · intro c hc; have := (List.mem_filter.mp hc).2; simp only [decide_eq_true_eq] at this; omega
  · intro c hc; have := (List.mem_filter.mp hc).2; simp only [decide_eq_true_eq] at this; omega

/-- A byte outside a store is unchanged. -/
theorem Mem.read_store_out (m : Mem) (a : Nat) (bs : List Byte) (x : Nat) (h : x < a ∨ a + bs.length ≤ x) :
    (m.store a bs).read x = m.read x := by
  unfold Mem.store
  have hc : ∀ c ∈ Mem.cells a bs, c.1 ≠ x := by
    intro c hc; have h1 := Mem.cells_ge bs a c hc; have h2 := Mem.cells_lt bs a c hc; omega
  rcases h with h | h
  · rw [Mem.read_append_left, Mem.read_append_left, Mem.read_filter]
    · intro v; simpa using h
    · exact hc
    · intro c hc; have := (List.mem_filter.mp hc).2; simp only [decide_eq_true_eq] at this; omega
  · rw [Mem.read_append, Mem.read_filter]
    · intro v; simpa using h
    · intro c hm
      rcases List.mem_append.mp hm with hm | hm
      · have := (List.mem_filter.mp hm).2; simp only [decide_eq_true_eq] at this; omega
      · exact hc c hm

end Sys2Proof.Machine
end

