-- ==== Sys2Proof/Laws/State.lean ====
section
/-!
SUPPORT. What each named update of State changes and keeps: one lemma per field per update.
-/
namespace Sys2Proof.Machine

@[simp] theorem State.modSett_self (s : State) (u : SettId) (f : SettSt → SettSt) : (s.modSett u f).sett u = f (s.sett u) := by
  simp [State.modSett, State.sett]

@[simp] theorem State.modSett_other (s : State) (u v : SettId) (f : SettSt → SettSt) (h : v ≠ u) :
    (s.modSett u f).sett v = s.sett v := by
  have : u.val ≠ v.val := fun e => h (Fin.ext e.symm)
  simp [State.modSett, State.sett, this]

@[simp] theorem State.modSett_pending (s : State) (u : SettId) (f : SettSt → SettSt) : (s.modSett u f).pending = s.pending := rfl
@[simp] theorem State.modSett_regs (s : State) (u : SettId) (f : SettSt → SettSt) : (s.modSett u f).regs = s.regs := rfl
@[simp] theorem State.modSett_hbm (s : State) (u : SettId) (f : SettSt → SettSt) : (s.modSett u f).hbm = s.hbm := rfl
@[simp] theorem State.modSett_burrow (s : State) (u : SettId) (f : SettSt → SettSt) : (s.modSett u f).burrow = s.burrow := rfl
@[simp] theorem State.modSett_remote (s : State) (u : SettId) (f : SettSt → SettSt) : (s.modSett u f).remote = s.remote := rfl
@[simp] theorem State.modSett_gtc (s : State) (u : SettId) (f : SettSt → SettSt) : (s.modSett u f).gtc = s.gtc := rfl
@[simp] theorem State.modSett_cfgHalt (s : State) (u : SettId) (f : SettSt → SettSt) : (s.modSett u f).cfgHalt = s.cfgHalt := rfl
@[simp] theorem State.modSett_recs (s : State) (u : SettId) (f : SettSt → SettSt) : (s.modSett u f).recs = s.recs := rfl
@[simp] theorem State.modSett_irqs (s : State) (u : SettId) (f : SettSt → SettSt) : (s.modSett u f).irqs = s.irqs := rfl
@[simp] theorem State.modSett_moves (s : State) (u : SettId) (f : SettSt → SettSt) : (s.modSett u f).moves = s.moves := rfl
@[simp] theorem State.modSett_kvReq (s : State) (u : SettId) (f : SettSt → SettSt) : (s.modSett u f).kvReq = s.kvReq := rfl
@[simp] theorem State.modSett_kvCursor (s : State) (u : SettId) (f : SettSt → SettSt) : (s.modSett u f).kvCursor = s.kvCursor := rfl
@[simp] theorem State.modSett_kvEvict (s : State) (u : SettId) (f : SettSt → SettSt) : (s.modSett u f).kvEvict = s.kvEvict := rfl
@[simp] theorem State.modSett_inj (s : State) (u : SettId) (f : SettSt → SettSt) : (s.modSett u f).inj = s.inj := rfl
@[simp] theorem State.modSett_xsig (s : State) (u : SettId) (f : SettSt → SettSt) : (s.modSett u f).xsig = s.xsig := rfl
@[simp] theorem State.modSett_xch (s : State) (u : SettId) (f : SettSt → SettSt) : (s.modSett u f).xch = s.xch := rfl
@[simp] theorem State.modSett_pkts (s : State) (u : SettId) (f : SettSt → SettSt) : (s.modSett u f).pkts = s.pkts := rfl
@[simp] theorem State.modSett_trOrd (s : State) (u : SettId) (f : SettSt → SettSt) : (s.modSett u f).trOrd = s.trOrd := rfl
@[simp] theorem State.modSett_mcast (s : State) (u : SettId) (f : SettSt → SettSt) : (s.modSett u f).mcast = s.mcast := rfl
@[simp] theorem State.modSett_eps (s : State) (u : SettId) (f : SettSt → SettSt) : (s.modSett u f).eps = s.eps := rfl
@[simp] theorem State.modSett_qps (s : State) (u : SettId) (f : SettSt → SettSt) : (s.modSett u f).qps = s.qps := rfl
@[simp] theorem State.modSett_roce (s : State) (u : SettId) (f : SettSt → SettSt) : (s.modSett u f).roce = s.roce := rfl
@[simp] theorem State.modSett_mems (s : State) (u : SettId) (f : SettSt → SettSt) : (s.modSett u f).mems = s.mems := rfl
@[simp] theorem State.modSett_rxOcc (s : State) (u : SettId) (f : SettSt → SettSt) : (s.modSett u f).rxOcc = s.rxOcc := rfl
@[simp] theorem State.modSett_pause (s : State) (u : SettId) (f : SettSt → SettSt) : (s.modSett u f).pause = s.pause := rfl
@[simp] theorem State.modSett_cnpAt (s : State) (u : SettId) (f : SettSt → SettSt) : (s.modSett u f).cnpAt = s.cnpAt := rfl
@[simp] theorem State.modSett_rdata (s : State) (u : SettId) (f : SettSt → SettSt) : (s.modSett u f).rdata = s.rdata := rfl
@[simp] theorem State.modSett_acc (s : State) (u : SettId) (f : SettSt → SettSt) : (s.modSett u f).acc = s.acc := rfl
@[simp] theorem State.modSett_accOrd (s : State) (u : SettId) (f : SettSt → SettSt) : (s.modSett u f).accOrd = s.accOrd := rfl
@[simp] theorem State.modSett_latch (s : State) (u : SettId) (f : SettSt → SettSt) : (s.modSett u f).latch = s.latch := rfl
@[simp] theorem State.modSett_stbBusy (s : State) (u : SettId) (f : SettSt → SettSt) : (s.modSett u f).stbBusy = s.stbBusy := rfl
@[simp] theorem State.modSett_stbHeld (s : State) (u : SettId) (f : SettSt → SettSt) : (s.modSett u f).stbHeld = s.stbHeld := rfl
@[simp] theorem State.modSett_logQ (s : State) (u : SettId) (f : SettSt → SettSt) : (s.modSett u f).logQ = s.logQ := rfl
@[simp] theorem State.modSett_logCur (s : State) (u : SettId) (f : SettSt → SettSt) : (s.modSett u f).logCur = s.logCur := rfl
@[simp] theorem State.modSett_logSeq (s : State) (u : SettId) (f : SettSt → SettSt) : (s.modSett u f).logSeq = s.logSeq := rfl
@[simp] theorem State.modSett_logGap (s : State) (u : SettId) (f : SettSt → SettSt) : (s.modSett u f).logGap = s.logGap := rfl
@[simp] theorem State.modSett_load (s : State) (u : SettId) (f : SettSt → SettSt) : (s.modSett u f).load = s.load := rfl
@[simp] theorem State.modSett_hin (s : State) (u : SettId) (f : SettSt → SettSt) : (s.modSett u f).hin = s.hin := rfl
@[simp] theorem State.modSett_hcmds (s : State) (u : SettId) (f : SettSt → SettSt) : (s.modSett u f).hcmds = s.hcmds := rfl
@[simp] theorem State.modSett_hnext (s : State) (u : SettId) (f : SettSt → SettSt) : (s.modSett u f).hnext = s.hnext := rfl
@[simp] theorem State.modSett_hq (s : State) (u : SettId) (f : SettSt → SettSt) : (s.modSett u f).hq = s.hq := rfl
@[simp] theorem State.modSett_hwait (s : State) (u : SettId) (f : SettSt → SettSt) : (s.modSett u f).hwait = s.hwait := rfl
@[simp] theorem State.modSett_hflt (s : State) (u : SettId) (f : SettSt → SettSt) : (s.modSett u f).hflt = s.hflt := rfl
@[simp] theorem State.modSett_intake (s : State) (u : SettId) (f : SettSt → SettSt) : (s.modSett u f).intake = s.intake := rfl
@[simp] theorem State.modSett_vd (s : State) (u : SettId) (f : SettSt → SettSt) : (s.modSett u f).vd = s.vd := rfl
@[simp] theorem State.modSett_pw (s : State) (u : SettId) (f : SettSt → SettSt) : (s.modSett u f).pw = s.pw := rfl
@[simp] theorem State.modSett_sc (s : State) (u : SettId) (f : SettSt → SettSt) : (s.modSett u f).sc = s.sc := rfl
@[simp] theorem State.modSett_flash (s : State) (u : SettId) (f : SettSt → SettSt) : (s.modSett u f).flash = s.flash := rfl
@[simp] theorem State.modSett_sram (s : State) (u : SettId) (f : SettSt → SettSt) : (s.modSett u f).sram = s.sram := rfl
@[simp] theorem State.modSett_jtag (s : State) (u : SettId) (f : SettSt → SettSt) : (s.modSett u f).jtag = s.jtag := rfl
@[simp] theorem State.modSett_tx (s : State) (u : SettId) (f : SettSt → SettSt) : (s.modSett u f).tx = s.tx := rfl
@[simp] theorem State.modSett_txWait (s : State) (u : SettId) (f : SettSt → SettSt) : (s.modSett u f).txWait = s.txWait := rfl
@[simp] theorem State.modSett_cycle (s : State) (u : SettId) (f : SettSt → SettSt) : (s.modSett u f).cycle = s.cycle := rfl
@[simp] theorem State.modSett_freeCtr (s : State) (u : SettId) (f : SettSt → SettSt) : (s.modSett u f).freeCtr = s.freeCtr := rfl

@[simp] theorem State.setReg_pending (s : State) (b : Blk) (o : Nat) (v : Word) : (s.setReg b o v).pending = s.pending := rfl
@[simp] theorem State.setReg_setts (s : State) (b : Blk) (o : Nat) (v : Word) : (s.setReg b o v).setts = s.setts := rfl
@[simp] theorem State.setReg_hbm (s : State) (b : Blk) (o : Nat) (v : Word) : (s.setReg b o v).hbm = s.hbm := rfl
@[simp] theorem State.setReg_burrow (s : State) (b : Blk) (o : Nat) (v : Word) : (s.setReg b o v).burrow = s.burrow := rfl
@[simp] theorem State.setReg_remote (s : State) (b : Blk) (o : Nat) (v : Word) : (s.setReg b o v).remote = s.remote := rfl
@[simp] theorem State.setReg_gtc (s : State) (b : Blk) (o : Nat) (v : Word) : (s.setReg b o v).gtc = s.gtc := rfl
@[simp] theorem State.setReg_cfgHalt (s : State) (b : Blk) (o : Nat) (v : Word) : (s.setReg b o v).cfgHalt = s.cfgHalt := rfl
@[simp] theorem State.setReg_recs (s : State) (b : Blk) (o : Nat) (v : Word) : (s.setReg b o v).recs = s.recs := rfl
@[simp] theorem State.setReg_irqs (s : State) (b : Blk) (o : Nat) (v : Word) : (s.setReg b o v).irqs = s.irqs := rfl
@[simp] theorem State.setReg_moves (s : State) (b : Blk) (o : Nat) (v : Word) : (s.setReg b o v).moves = s.moves := rfl
@[simp] theorem State.setReg_kvReq (s : State) (b : Blk) (o : Nat) (v : Word) : (s.setReg b o v).kvReq = s.kvReq := rfl
@[simp] theorem State.setReg_kvCursor (s : State) (b : Blk) (o : Nat) (v : Word) : (s.setReg b o v).kvCursor = s.kvCursor := rfl
@[simp] theorem State.setReg_kvEvict (s : State) (b : Blk) (o : Nat) (v : Word) : (s.setReg b o v).kvEvict = s.kvEvict := rfl
@[simp] theorem State.setReg_inj (s : State) (b : Blk) (o : Nat) (v : Word) : (s.setReg b o v).inj = s.inj := rfl
@[simp] theorem State.setReg_xsig (s : State) (b : Blk) (o : Nat) (v : Word) : (s.setReg b o v).xsig = s.xsig := rfl
@[simp] theorem State.setReg_xch (s : State) (b : Blk) (o : Nat) (v : Word) : (s.setReg b o v).xch = s.xch := rfl
@[simp] theorem State.setReg_pkts (s : State) (b : Blk) (o : Nat) (v : Word) : (s.setReg b o v).pkts = s.pkts := rfl
@[simp] theorem State.setReg_trOrd (s : State) (b : Blk) (o : Nat) (v : Word) : (s.setReg b o v).trOrd = s.trOrd := rfl
@[simp] theorem State.setReg_mcast (s : State) (b : Blk) (o : Nat) (v : Word) : (s.setReg b o v).mcast = s.mcast := rfl
@[simp] theorem State.setReg_eps (s : State) (b : Blk) (o : Nat) (v : Word) : (s.setReg b o v).eps = s.eps := rfl
@[simp] theorem State.setReg_qps (s : State) (b : Blk) (o : Nat) (v : Word) : (s.setReg b o v).qps = s.qps := rfl
@[simp] theorem State.setReg_roce (s : State) (b : Blk) (o : Nat) (v : Word) : (s.setReg b o v).roce = s.roce := rfl
@[simp] theorem State.setReg_mems (s : State) (b : Blk) (o : Nat) (v : Word) : (s.setReg b o v).mems = s.mems := rfl
@[simp] theorem State.setReg_rxOcc (s : State) (b : Blk) (o : Nat) (v : Word) : (s.setReg b o v).rxOcc = s.rxOcc := rfl
@[simp] theorem State.setReg_pause (s : State) (b : Blk) (o : Nat) (v : Word) : (s.setReg b o v).pause = s.pause := rfl
@[simp] theorem State.setReg_cnpAt (s : State) (b : Blk) (o : Nat) (v : Word) : (s.setReg b o v).cnpAt = s.cnpAt := rfl
@[simp] theorem State.setReg_rdata (s : State) (b : Blk) (o : Nat) (v : Word) : (s.setReg b o v).rdata = s.rdata := rfl
@[simp] theorem State.setReg_acc (s : State) (b : Blk) (o : Nat) (v : Word) : (s.setReg b o v).acc = s.acc := rfl
@[simp] theorem State.setReg_accOrd (s : State) (b : Blk) (o : Nat) (v : Word) : (s.setReg b o v).accOrd = s.accOrd := rfl
@[simp] theorem State.setReg_latch (s : State) (b : Blk) (o : Nat) (v : Word) : (s.setReg b o v).latch = s.latch := rfl
@[simp] theorem State.setReg_stbBusy (s : State) (b : Blk) (o : Nat) (v : Word) : (s.setReg b o v).stbBusy = s.stbBusy := rfl
@[simp] theorem State.setReg_stbHeld (s : State) (b : Blk) (o : Nat) (v : Word) : (s.setReg b o v).stbHeld = s.stbHeld := rfl
@[simp] theorem State.setReg_logQ (s : State) (b : Blk) (o : Nat) (v : Word) : (s.setReg b o v).logQ = s.logQ := rfl
@[simp] theorem State.setReg_logCur (s : State) (b : Blk) (o : Nat) (v : Word) : (s.setReg b o v).logCur = s.logCur := rfl
@[simp] theorem State.setReg_logSeq (s : State) (b : Blk) (o : Nat) (v : Word) : (s.setReg b o v).logSeq = s.logSeq := rfl
@[simp] theorem State.setReg_logGap (s : State) (b : Blk) (o : Nat) (v : Word) : (s.setReg b o v).logGap = s.logGap := rfl
@[simp] theorem State.setReg_load (s : State) (b : Blk) (o : Nat) (v : Word) : (s.setReg b o v).load = s.load := rfl
@[simp] theorem State.setReg_hin (s : State) (b : Blk) (o : Nat) (v : Word) : (s.setReg b o v).hin = s.hin := rfl
@[simp] theorem State.setReg_hcmds (s : State) (b : Blk) (o : Nat) (v : Word) : (s.setReg b o v).hcmds = s.hcmds := rfl
@[simp] theorem State.setReg_hnext (s : State) (b : Blk) (o : Nat) (v : Word) : (s.setReg b o v).hnext = s.hnext := rfl
@[simp] theorem State.setReg_hq (s : State) (b : Blk) (o : Nat) (v : Word) : (s.setReg b o v).hq = s.hq := rfl
@[simp] theorem State.setReg_hwait (s : State) (b : Blk) (o : Nat) (v : Word) : (s.setReg b o v).hwait = s.hwait := rfl
@[simp] theorem State.setReg_hflt (s : State) (b : Blk) (o : Nat) (v : Word) : (s.setReg b o v).hflt = s.hflt := rfl
@[simp] theorem State.setReg_intake (s : State) (b : Blk) (o : Nat) (v : Word) : (s.setReg b o v).intake = s.intake := rfl
@[simp] theorem State.setReg_vd (s : State) (b : Blk) (o : Nat) (v : Word) : (s.setReg b o v).vd = s.vd := rfl
@[simp] theorem State.setReg_pw (s : State) (b : Blk) (o : Nat) (v : Word) : (s.setReg b o v).pw = s.pw := rfl
@[simp] theorem State.setReg_sc (s : State) (b : Blk) (o : Nat) (v : Word) : (s.setReg b o v).sc = s.sc := rfl
@[simp] theorem State.setReg_flash (s : State) (b : Blk) (o : Nat) (v : Word) : (s.setReg b o v).flash = s.flash := rfl
@[simp] theorem State.setReg_sram (s : State) (b : Blk) (o : Nat) (v : Word) : (s.setReg b o v).sram = s.sram := rfl
@[simp] theorem State.setReg_jtag (s : State) (b : Blk) (o : Nat) (v : Word) : (s.setReg b o v).jtag = s.jtag := rfl
@[simp] theorem State.setReg_tx (s : State) (b : Blk) (o : Nat) (v : Word) : (s.setReg b o v).tx = s.tx := rfl
@[simp] theorem State.setReg_txWait (s : State) (b : Blk) (o : Nat) (v : Word) : (s.setReg b o v).txWait = s.txWait := rfl
@[simp] theorem State.setReg_cycle (s : State) (b : Blk) (o : Nat) (v : Word) : (s.setReg b o v).cycle = s.cycle := rfl
@[simp] theorem State.setReg_freeCtr (s : State) (b : Blk) (o : Nat) (v : Word) : (s.setReg b o v).freeCtr = s.freeCtr := rfl

@[simp] theorem State.post_pending (s : State) (r : EvRec) : (s.post r).pending = s.pending := rfl
@[simp] theorem State.post_setts (s : State) (r : EvRec) : (s.post r).setts = s.setts := rfl
@[simp] theorem State.post_regs (s : State) (r : EvRec) : (s.post r).regs = s.regs := rfl
@[simp] theorem State.post_hbm (s : State) (r : EvRec) : (s.post r).hbm = s.hbm := rfl
@[simp] theorem State.post_burrow (s : State) (r : EvRec) : (s.post r).burrow = s.burrow := rfl
@[simp] theorem State.post_remote (s : State) (r : EvRec) : (s.post r).remote = s.remote := rfl
@[simp] theorem State.post_gtc (s : State) (r : EvRec) : (s.post r).gtc = s.gtc := rfl
@[simp] theorem State.post_cfgHalt (s : State) (r : EvRec) : (s.post r).cfgHalt = s.cfgHalt := rfl
@[simp] theorem State.post_irqs (s : State) (r : EvRec) : (s.post r).irqs = s.irqs := rfl
@[simp] theorem State.post_moves (s : State) (r : EvRec) : (s.post r).moves = s.moves := rfl
@[simp] theorem State.post_kvReq (s : State) (r : EvRec) : (s.post r).kvReq = s.kvReq := rfl
@[simp] theorem State.post_kvCursor (s : State) (r : EvRec) : (s.post r).kvCursor = s.kvCursor := rfl
@[simp] theorem State.post_kvEvict (s : State) (r : EvRec) : (s.post r).kvEvict = s.kvEvict := rfl
@[simp] theorem State.post_inj (s : State) (r : EvRec) : (s.post r).inj = s.inj := rfl
@[simp] theorem State.post_xsig (s : State) (r : EvRec) : (s.post r).xsig = s.xsig := rfl
@[simp] theorem State.post_xch (s : State) (r : EvRec) : (s.post r).xch = s.xch := rfl
@[simp] theorem State.post_pkts (s : State) (r : EvRec) : (s.post r).pkts = s.pkts := rfl
@[simp] theorem State.post_trOrd (s : State) (r : EvRec) : (s.post r).trOrd = s.trOrd := rfl
@[simp] theorem State.post_mcast (s : State) (r : EvRec) : (s.post r).mcast = s.mcast := rfl
@[simp] theorem State.post_eps (s : State) (r : EvRec) : (s.post r).eps = s.eps := rfl
@[simp] theorem State.post_qps (s : State) (r : EvRec) : (s.post r).qps = s.qps := rfl
@[simp] theorem State.post_roce (s : State) (r : EvRec) : (s.post r).roce = s.roce := rfl
@[simp] theorem State.post_mems (s : State) (r : EvRec) : (s.post r).mems = s.mems := rfl
@[simp] theorem State.post_rxOcc (s : State) (r : EvRec) : (s.post r).rxOcc = s.rxOcc := rfl
@[simp] theorem State.post_pause (s : State) (r : EvRec) : (s.post r).pause = s.pause := rfl
@[simp] theorem State.post_cnpAt (s : State) (r : EvRec) : (s.post r).cnpAt = s.cnpAt := rfl
@[simp] theorem State.post_rdata (s : State) (r : EvRec) : (s.post r).rdata = s.rdata := rfl
@[simp] theorem State.post_acc (s : State) (r : EvRec) : (s.post r).acc = s.acc := rfl
@[simp] theorem State.post_accOrd (s : State) (r : EvRec) : (s.post r).accOrd = s.accOrd := rfl
@[simp] theorem State.post_latch (s : State) (r : EvRec) : (s.post r).latch = s.latch := rfl
@[simp] theorem State.post_stbBusy (s : State) (r : EvRec) : (s.post r).stbBusy = s.stbBusy := rfl
@[simp] theorem State.post_stbHeld (s : State) (r : EvRec) : (s.post r).stbHeld = s.stbHeld := rfl
@[simp] theorem State.post_logQ (s : State) (r : EvRec) : (s.post r).logQ = s.logQ := rfl
@[simp] theorem State.post_logCur (s : State) (r : EvRec) : (s.post r).logCur = s.logCur := rfl
@[simp] theorem State.post_logSeq (s : State) (r : EvRec) : (s.post r).logSeq = s.logSeq := rfl
@[simp] theorem State.post_logGap (s : State) (r : EvRec) : (s.post r).logGap = s.logGap := rfl
@[simp] theorem State.post_load (s : State) (r : EvRec) : (s.post r).load = s.load := rfl
@[simp] theorem State.post_hin (s : State) (r : EvRec) : (s.post r).hin = s.hin := rfl
@[simp] theorem State.post_hcmds (s : State) (r : EvRec) : (s.post r).hcmds = s.hcmds := rfl
@[simp] theorem State.post_hnext (s : State) (r : EvRec) : (s.post r).hnext = s.hnext := rfl
@[simp] theorem State.post_hq (s : State) (r : EvRec) : (s.post r).hq = s.hq := rfl
@[simp] theorem State.post_hwait (s : State) (r : EvRec) : (s.post r).hwait = s.hwait := rfl
@[simp] theorem State.post_hflt (s : State) (r : EvRec) : (s.post r).hflt = s.hflt := rfl
@[simp] theorem State.post_intake (s : State) (r : EvRec) : (s.post r).intake = s.intake := rfl
@[simp] theorem State.post_vd (s : State) (r : EvRec) : (s.post r).vd = s.vd := rfl
@[simp] theorem State.post_pw (s : State) (r : EvRec) : (s.post r).pw = s.pw := rfl
@[simp] theorem State.post_sc (s : State) (r : EvRec) : (s.post r).sc = s.sc := rfl
@[simp] theorem State.post_flash (s : State) (r : EvRec) : (s.post r).flash = s.flash := rfl
@[simp] theorem State.post_sram (s : State) (r : EvRec) : (s.post r).sram = s.sram := rfl
@[simp] theorem State.post_jtag (s : State) (r : EvRec) : (s.post r).jtag = s.jtag := rfl
@[simp] theorem State.post_tx (s : State) (r : EvRec) : (s.post r).tx = s.tx := rfl
@[simp] theorem State.post_txWait (s : State) (r : EvRec) : (s.post r).txWait = s.txWait := rfl
@[simp] theorem State.post_cycle (s : State) (r : EvRec) : (s.post r).cycle = s.cycle := rfl
@[simp] theorem State.post_freeCtr (s : State) (r : EvRec) : (s.post r).freeCtr = s.freeCtr := rfl

@[simp] theorem State.emit_pending (s : State) (t : Tx) : (s.emit t).pending = s.pending := rfl
@[simp] theorem State.emit_setts (s : State) (t : Tx) : (s.emit t).setts = s.setts := rfl
@[simp] theorem State.emit_regs (s : State) (t : Tx) : (s.emit t).regs = s.regs := rfl
@[simp] theorem State.emit_hbm (s : State) (t : Tx) : (s.emit t).hbm = s.hbm := rfl
@[simp] theorem State.emit_burrow (s : State) (t : Tx) : (s.emit t).burrow = s.burrow := rfl
@[simp] theorem State.emit_remote (s : State) (t : Tx) : (s.emit t).remote = s.remote := rfl
@[simp] theorem State.emit_gtc (s : State) (t : Tx) : (s.emit t).gtc = s.gtc := rfl
@[simp] theorem State.emit_cfgHalt (s : State) (t : Tx) : (s.emit t).cfgHalt = s.cfgHalt := rfl
@[simp] theorem State.emit_recs (s : State) (t : Tx) : (s.emit t).recs = s.recs := rfl
@[simp] theorem State.emit_irqs (s : State) (t : Tx) : (s.emit t).irqs = s.irqs := rfl
@[simp] theorem State.emit_moves (s : State) (t : Tx) : (s.emit t).moves = s.moves := rfl
@[simp] theorem State.emit_kvReq (s : State) (t : Tx) : (s.emit t).kvReq = s.kvReq := rfl
@[simp] theorem State.emit_kvCursor (s : State) (t : Tx) : (s.emit t).kvCursor = s.kvCursor := rfl
@[simp] theorem State.emit_kvEvict (s : State) (t : Tx) : (s.emit t).kvEvict = s.kvEvict := rfl
@[simp] theorem State.emit_inj (s : State) (t : Tx) : (s.emit t).inj = s.inj := rfl
@[simp] theorem State.emit_xsig (s : State) (t : Tx) : (s.emit t).xsig = s.xsig := rfl
@[simp] theorem State.emit_xch (s : State) (t : Tx) : (s.emit t).xch = s.xch := rfl
@[simp] theorem State.emit_pkts (s : State) (t : Tx) : (s.emit t).pkts = s.pkts := rfl
@[simp] theorem State.emit_trOrd (s : State) (t : Tx) : (s.emit t).trOrd = s.trOrd := rfl
@[simp] theorem State.emit_mcast (s : State) (t : Tx) : (s.emit t).mcast = s.mcast := rfl
@[simp] theorem State.emit_eps (s : State) (t : Tx) : (s.emit t).eps = s.eps := rfl
@[simp] theorem State.emit_qps (s : State) (t : Tx) : (s.emit t).qps = s.qps := rfl
@[simp] theorem State.emit_roce (s : State) (t : Tx) : (s.emit t).roce = s.roce := rfl
@[simp] theorem State.emit_mems (s : State) (t : Tx) : (s.emit t).mems = s.mems := rfl
@[simp] theorem State.emit_rxOcc (s : State) (t : Tx) : (s.emit t).rxOcc = s.rxOcc := rfl
@[simp] theorem State.emit_pause (s : State) (t : Tx) : (s.emit t).pause = s.pause := rfl
@[simp] theorem State.emit_cnpAt (s : State) (t : Tx) : (s.emit t).cnpAt = s.cnpAt := rfl
@[simp] theorem State.emit_rdata (s : State) (t : Tx) : (s.emit t).rdata = s.rdata := rfl
@[simp] theorem State.emit_acc (s : State) (t : Tx) : (s.emit t).acc = s.acc := rfl
@[simp] theorem State.emit_accOrd (s : State) (t : Tx) : (s.emit t).accOrd = s.accOrd := rfl
@[simp] theorem State.emit_latch (s : State) (t : Tx) : (s.emit t).latch = s.latch := rfl
@[simp] theorem State.emit_stbBusy (s : State) (t : Tx) : (s.emit t).stbBusy = s.stbBusy := rfl
@[simp] theorem State.emit_stbHeld (s : State) (t : Tx) : (s.emit t).stbHeld = s.stbHeld := rfl
@[simp] theorem State.emit_logQ (s : State) (t : Tx) : (s.emit t).logQ = s.logQ := rfl
@[simp] theorem State.emit_logCur (s : State) (t : Tx) : (s.emit t).logCur = s.logCur := rfl
@[simp] theorem State.emit_logSeq (s : State) (t : Tx) : (s.emit t).logSeq = s.logSeq := rfl
@[simp] theorem State.emit_logGap (s : State) (t : Tx) : (s.emit t).logGap = s.logGap := rfl
@[simp] theorem State.emit_load (s : State) (t : Tx) : (s.emit t).load = s.load := rfl
@[simp] theorem State.emit_hin (s : State) (t : Tx) : (s.emit t).hin = s.hin := rfl
@[simp] theorem State.emit_hcmds (s : State) (t : Tx) : (s.emit t).hcmds = s.hcmds := rfl
@[simp] theorem State.emit_hnext (s : State) (t : Tx) : (s.emit t).hnext = s.hnext := rfl
@[simp] theorem State.emit_hq (s : State) (t : Tx) : (s.emit t).hq = s.hq := rfl
@[simp] theorem State.emit_hwait (s : State) (t : Tx) : (s.emit t).hwait = s.hwait := rfl
@[simp] theorem State.emit_hflt (s : State) (t : Tx) : (s.emit t).hflt = s.hflt := rfl
@[simp] theorem State.emit_intake (s : State) (t : Tx) : (s.emit t).intake = s.intake := rfl
@[simp] theorem State.emit_vd (s : State) (t : Tx) : (s.emit t).vd = s.vd := rfl
@[simp] theorem State.emit_pw (s : State) (t : Tx) : (s.emit t).pw = s.pw := rfl
@[simp] theorem State.emit_sc (s : State) (t : Tx) : (s.emit t).sc = s.sc := rfl
@[simp] theorem State.emit_flash (s : State) (t : Tx) : (s.emit t).flash = s.flash := rfl
@[simp] theorem State.emit_sram (s : State) (t : Tx) : (s.emit t).sram = s.sram := rfl
@[simp] theorem State.emit_jtag (s : State) (t : Tx) : (s.emit t).jtag = s.jtag := rfl
@[simp] theorem State.emit_txWait (s : State) (t : Tx) : (s.emit t).txWait = s.txWait := rfl
@[simp] theorem State.emit_cycle (s : State) (t : Tx) : (s.emit t).cycle = s.cycle := rfl
@[simp] theorem State.emit_freeCtr (s : State) (t : Tx) : (s.emit t).freeCtr = s.freeCtr := rfl

@[simp] theorem State.modEp_pending (s : State) (ep : Fin 2) (f : EpSt → EpSt) : (s.modEp ep f).pending = s.pending := rfl
@[simp] theorem State.modEp_setts (s : State) (ep : Fin 2) (f : EpSt → EpSt) : (s.modEp ep f).setts = s.setts := rfl
@[simp] theorem State.modEp_regs (s : State) (ep : Fin 2) (f : EpSt → EpSt) : (s.modEp ep f).regs = s.regs := rfl
@[simp] theorem State.modEp_hbm (s : State) (ep : Fin 2) (f : EpSt → EpSt) : (s.modEp ep f).hbm = s.hbm := rfl
@[simp] theorem State.modEp_burrow (s : State) (ep : Fin 2) (f : EpSt → EpSt) : (s.modEp ep f).burrow = s.burrow := rfl
@[simp] theorem State.modEp_remote (s : State) (ep : Fin 2) (f : EpSt → EpSt) : (s.modEp ep f).remote = s.remote := rfl
@[simp] theorem State.modEp_gtc (s : State) (ep : Fin 2) (f : EpSt → EpSt) : (s.modEp ep f).gtc = s.gtc := rfl
@[simp] theorem State.modEp_cfgHalt (s : State) (ep : Fin 2) (f : EpSt → EpSt) : (s.modEp ep f).cfgHalt = s.cfgHalt := rfl
@[simp] theorem State.modEp_recs (s : State) (ep : Fin 2) (f : EpSt → EpSt) : (s.modEp ep f).recs = s.recs := rfl
@[simp] theorem State.modEp_irqs (s : State) (ep : Fin 2) (f : EpSt → EpSt) : (s.modEp ep f).irqs = s.irqs := rfl
@[simp] theorem State.modEp_moves (s : State) (ep : Fin 2) (f : EpSt → EpSt) : (s.modEp ep f).moves = s.moves := rfl
@[simp] theorem State.modEp_kvReq (s : State) (ep : Fin 2) (f : EpSt → EpSt) : (s.modEp ep f).kvReq = s.kvReq := rfl
@[simp] theorem State.modEp_kvCursor (s : State) (ep : Fin 2) (f : EpSt → EpSt) : (s.modEp ep f).kvCursor = s.kvCursor := rfl
@[simp] theorem State.modEp_kvEvict (s : State) (ep : Fin 2) (f : EpSt → EpSt) : (s.modEp ep f).kvEvict = s.kvEvict := rfl
@[simp] theorem State.modEp_inj (s : State) (ep : Fin 2) (f : EpSt → EpSt) : (s.modEp ep f).inj = s.inj := rfl
@[simp] theorem State.modEp_xsig (s : State) (ep : Fin 2) (f : EpSt → EpSt) : (s.modEp ep f).xsig = s.xsig := rfl
@[simp] theorem State.modEp_xch (s : State) (ep : Fin 2) (f : EpSt → EpSt) : (s.modEp ep f).xch = s.xch := rfl
@[simp] theorem State.modEp_pkts (s : State) (ep : Fin 2) (f : EpSt → EpSt) : (s.modEp ep f).pkts = s.pkts := rfl
@[simp] theorem State.modEp_trOrd (s : State) (ep : Fin 2) (f : EpSt → EpSt) : (s.modEp ep f).trOrd = s.trOrd := rfl
@[simp] theorem State.modEp_mcast (s : State) (ep : Fin 2) (f : EpSt → EpSt) : (s.modEp ep f).mcast = s.mcast := rfl
@[simp] theorem State.modEp_qps (s : State) (ep : Fin 2) (f : EpSt → EpSt) : (s.modEp ep f).qps = s.qps := rfl
@[simp] theorem State.modEp_roce (s : State) (ep : Fin 2) (f : EpSt → EpSt) : (s.modEp ep f).roce = s.roce := rfl
@[simp] theorem State.modEp_mems (s : State) (ep : Fin 2) (f : EpSt → EpSt) : (s.modEp ep f).mems = s.mems := rfl
@[simp] theorem State.modEp_rxOcc (s : State) (ep : Fin 2) (f : EpSt → EpSt) : (s.modEp ep f).rxOcc = s.rxOcc := rfl
@[simp] theorem State.modEp_pause (s : State) (ep : Fin 2) (f : EpSt → EpSt) : (s.modEp ep f).pause = s.pause := rfl
@[simp] theorem State.modEp_cnpAt (s : State) (ep : Fin 2) (f : EpSt → EpSt) : (s.modEp ep f).cnpAt = s.cnpAt := rfl
@[simp] theorem State.modEp_rdata (s : State) (ep : Fin 2) (f : EpSt → EpSt) : (s.modEp ep f).rdata = s.rdata := rfl
@[simp] theorem State.modEp_acc (s : State) (ep : Fin 2) (f : EpSt → EpSt) : (s.modEp ep f).acc = s.acc := rfl
@[simp] theorem State.modEp_accOrd (s : State) (ep : Fin 2) (f : EpSt → EpSt) : (s.modEp ep f).accOrd = s.accOrd := rfl
@[simp] theorem State.modEp_latch (s : State) (ep : Fin 2) (f : EpSt → EpSt) : (s.modEp ep f).latch = s.latch := rfl
@[simp] theorem State.modEp_stbBusy (s : State) (ep : Fin 2) (f : EpSt → EpSt) : (s.modEp ep f).stbBusy = s.stbBusy := rfl
@[simp] theorem State.modEp_stbHeld (s : State) (ep : Fin 2) (f : EpSt → EpSt) : (s.modEp ep f).stbHeld = s.stbHeld := rfl
@[simp] theorem State.modEp_logQ (s : State) (ep : Fin 2) (f : EpSt → EpSt) : (s.modEp ep f).logQ = s.logQ := rfl
@[simp] theorem State.modEp_logCur (s : State) (ep : Fin 2) (f : EpSt → EpSt) : (s.modEp ep f).logCur = s.logCur := rfl
@[simp] theorem State.modEp_logSeq (s : State) (ep : Fin 2) (f : EpSt → EpSt) : (s.modEp ep f).logSeq = s.logSeq := rfl
@[simp] theorem State.modEp_logGap (s : State) (ep : Fin 2) (f : EpSt → EpSt) : (s.modEp ep f).logGap = s.logGap := rfl
@[simp] theorem State.modEp_load (s : State) (ep : Fin 2) (f : EpSt → EpSt) : (s.modEp ep f).load = s.load := rfl
@[simp] theorem State.modEp_hin (s : State) (ep : Fin 2) (f : EpSt → EpSt) : (s.modEp ep f).hin = s.hin := rfl
@[simp] theorem State.modEp_hcmds (s : State) (ep : Fin 2) (f : EpSt → EpSt) : (s.modEp ep f).hcmds = s.hcmds := rfl
@[simp] theorem State.modEp_hnext (s : State) (ep : Fin 2) (f : EpSt → EpSt) : (s.modEp ep f).hnext = s.hnext := rfl
@[simp] theorem State.modEp_hq (s : State) (ep : Fin 2) (f : EpSt → EpSt) : (s.modEp ep f).hq = s.hq := rfl
@[simp] theorem State.modEp_hwait (s : State) (ep : Fin 2) (f : EpSt → EpSt) : (s.modEp ep f).hwait = s.hwait := rfl
@[simp] theorem State.modEp_hflt (s : State) (ep : Fin 2) (f : EpSt → EpSt) : (s.modEp ep f).hflt = s.hflt := rfl
@[simp] theorem State.modEp_intake (s : State) (ep : Fin 2) (f : EpSt → EpSt) : (s.modEp ep f).intake = s.intake := rfl
@[simp] theorem State.modEp_vd (s : State) (ep : Fin 2) (f : EpSt → EpSt) : (s.modEp ep f).vd = s.vd := rfl
@[simp] theorem State.modEp_pw (s : State) (ep : Fin 2) (f : EpSt → EpSt) : (s.modEp ep f).pw = s.pw := rfl
@[simp] theorem State.modEp_sc (s : State) (ep : Fin 2) (f : EpSt → EpSt) : (s.modEp ep f).sc = s.sc := rfl
@[simp] theorem State.modEp_flash (s : State) (ep : Fin 2) (f : EpSt → EpSt) : (s.modEp ep f).flash = s.flash := rfl
@[simp] theorem State.modEp_sram (s : State) (ep : Fin 2) (f : EpSt → EpSt) : (s.modEp ep f).sram = s.sram := rfl
@[simp] theorem State.modEp_jtag (s : State) (ep : Fin 2) (f : EpSt → EpSt) : (s.modEp ep f).jtag = s.jtag := rfl
@[simp] theorem State.modEp_tx (s : State) (ep : Fin 2) (f : EpSt → EpSt) : (s.modEp ep f).tx = s.tx := rfl
@[simp] theorem State.modEp_txWait (s : State) (ep : Fin 2) (f : EpSt → EpSt) : (s.modEp ep f).txWait = s.txWait := rfl
@[simp] theorem State.modEp_cycle (s : State) (ep : Fin 2) (f : EpSt → EpSt) : (s.modEp ep f).cycle = s.cycle := rfl
@[simp] theorem State.modEp_freeCtr (s : State) (ep : Fin 2) (f : EpSt → EpSt) : (s.modEp ep f).freeCtr = s.freeCtr := rfl

@[simp] theorem State.putHbm_pending (s : State) (a : Nat) (bs : List Byte) : (s.putHbm a bs).pending = s.pending := rfl
@[simp] theorem State.putHbm_setts (s : State) (a : Nat) (bs : List Byte) : (s.putHbm a bs).setts = s.setts := rfl
@[simp] theorem State.putHbm_regs (s : State) (a : Nat) (bs : List Byte) : (s.putHbm a bs).regs = s.regs := rfl
@[simp] theorem State.putHbm_burrow (s : State) (a : Nat) (bs : List Byte) : (s.putHbm a bs).burrow = s.burrow := rfl
@[simp] theorem State.putHbm_remote (s : State) (a : Nat) (bs : List Byte) : (s.putHbm a bs).remote = s.remote := rfl
@[simp] theorem State.putHbm_gtc (s : State) (a : Nat) (bs : List Byte) : (s.putHbm a bs).gtc = s.gtc := rfl
@[simp] theorem State.putHbm_cfgHalt (s : State) (a : Nat) (bs : List Byte) : (s.putHbm a bs).cfgHalt = s.cfgHalt := rfl
@[simp] theorem State.putHbm_recs (s : State) (a : Nat) (bs : List Byte) : (s.putHbm a bs).recs = s.recs := rfl
@[simp] theorem State.putHbm_irqs (s : State) (a : Nat) (bs : List Byte) : (s.putHbm a bs).irqs = s.irqs := rfl
@[simp] theorem State.putHbm_moves (s : State) (a : Nat) (bs : List Byte) : (s.putHbm a bs).moves = s.moves := rfl
@[simp] theorem State.putHbm_kvReq (s : State) (a : Nat) (bs : List Byte) : (s.putHbm a bs).kvReq = s.kvReq := rfl
@[simp] theorem State.putHbm_kvCursor (s : State) (a : Nat) (bs : List Byte) : (s.putHbm a bs).kvCursor = s.kvCursor := rfl
@[simp] theorem State.putHbm_kvEvict (s : State) (a : Nat) (bs : List Byte) : (s.putHbm a bs).kvEvict = s.kvEvict := rfl
@[simp] theorem State.putHbm_inj (s : State) (a : Nat) (bs : List Byte) : (s.putHbm a bs).inj = s.inj := rfl
@[simp] theorem State.putHbm_xsig (s : State) (a : Nat) (bs : List Byte) : (s.putHbm a bs).xsig = s.xsig := rfl
@[simp] theorem State.putHbm_xch (s : State) (a : Nat) (bs : List Byte) : (s.putHbm a bs).xch = s.xch := rfl
@[simp] theorem State.putHbm_pkts (s : State) (a : Nat) (bs : List Byte) : (s.putHbm a bs).pkts = s.pkts := rfl
@[simp] theorem State.putHbm_trOrd (s : State) (a : Nat) (bs : List Byte) : (s.putHbm a bs).trOrd = s.trOrd := rfl
@[simp] theorem State.putHbm_mcast (s : State) (a : Nat) (bs : List Byte) : (s.putHbm a bs).mcast = s.mcast := rfl
@[simp] theorem State.putHbm_eps (s : State) (a : Nat) (bs : List Byte) : (s.putHbm a bs).eps = s.eps := rfl
@[simp] theorem State.putHbm_qps (s : State) (a : Nat) (bs : List Byte) : (s.putHbm a bs).qps = s.qps := rfl
@[simp] theorem State.putHbm_roce (s : State) (a : Nat) (bs : List Byte) : (s.putHbm a bs).roce = s.roce := rfl
@[simp] theorem State.putHbm_mems (s : State) (a : Nat) (bs : List Byte) : (s.putHbm a bs).mems = s.mems := rfl
@[simp] theorem State.putHbm_rxOcc (s : State) (a : Nat) (bs : List Byte) : (s.putHbm a bs).rxOcc = s.rxOcc := rfl
@[simp] theorem State.putHbm_pause (s : State) (a : Nat) (bs : List Byte) : (s.putHbm a bs).pause = s.pause := rfl
@[simp] theorem State.putHbm_cnpAt (s : State) (a : Nat) (bs : List Byte) : (s.putHbm a bs).cnpAt = s.cnpAt := rfl
@[simp] theorem State.putHbm_rdata (s : State) (a : Nat) (bs : List Byte) : (s.putHbm a bs).rdata = s.rdata := rfl
@[simp] theorem State.putHbm_acc (s : State) (a : Nat) (bs : List Byte) : (s.putHbm a bs).acc = s.acc := rfl
@[simp] theorem State.putHbm_accOrd (s : State) (a : Nat) (bs : List Byte) : (s.putHbm a bs).accOrd = s.accOrd := rfl
@[simp] theorem State.putHbm_latch (s : State) (a : Nat) (bs : List Byte) : (s.putHbm a bs).latch = s.latch := rfl
@[simp] theorem State.putHbm_stbBusy (s : State) (a : Nat) (bs : List Byte) : (s.putHbm a bs).stbBusy = s.stbBusy := rfl
@[simp] theorem State.putHbm_stbHeld (s : State) (a : Nat) (bs : List Byte) : (s.putHbm a bs).stbHeld = s.stbHeld := rfl
@[simp] theorem State.putHbm_logQ (s : State) (a : Nat) (bs : List Byte) : (s.putHbm a bs).logQ = s.logQ := rfl
@[simp] theorem State.putHbm_logCur (s : State) (a : Nat) (bs : List Byte) : (s.putHbm a bs).logCur = s.logCur := rfl
@[simp] theorem State.putHbm_logSeq (s : State) (a : Nat) (bs : List Byte) : (s.putHbm a bs).logSeq = s.logSeq := rfl
@[simp] theorem State.putHbm_logGap (s : State) (a : Nat) (bs : List Byte) : (s.putHbm a bs).logGap = s.logGap := rfl
@[simp] theorem State.putHbm_load (s : State) (a : Nat) (bs : List Byte) : (s.putHbm a bs).load = s.load := rfl
@[simp] theorem State.putHbm_hin (s : State) (a : Nat) (bs : List Byte) : (s.putHbm a bs).hin = s.hin := rfl
@[simp] theorem State.putHbm_hcmds (s : State) (a : Nat) (bs : List Byte) : (s.putHbm a bs).hcmds = s.hcmds := rfl
@[simp] theorem State.putHbm_hnext (s : State) (a : Nat) (bs : List Byte) : (s.putHbm a bs).hnext = s.hnext := rfl
@[simp] theorem State.putHbm_hq (s : State) (a : Nat) (bs : List Byte) : (s.putHbm a bs).hq = s.hq := rfl
@[simp] theorem State.putHbm_hwait (s : State) (a : Nat) (bs : List Byte) : (s.putHbm a bs).hwait = s.hwait := rfl
@[simp] theorem State.putHbm_hflt (s : State) (a : Nat) (bs : List Byte) : (s.putHbm a bs).hflt = s.hflt := rfl
@[simp] theorem State.putHbm_intake (s : State) (a : Nat) (bs : List Byte) : (s.putHbm a bs).intake = s.intake := rfl
@[simp] theorem State.putHbm_vd (s : State) (a : Nat) (bs : List Byte) : (s.putHbm a bs).vd = s.vd := rfl
@[simp] theorem State.putHbm_pw (s : State) (a : Nat) (bs : List Byte) : (s.putHbm a bs).pw = s.pw := rfl
@[simp] theorem State.putHbm_sc (s : State) (a : Nat) (bs : List Byte) : (s.putHbm a bs).sc = s.sc := rfl
@[simp] theorem State.putHbm_flash (s : State) (a : Nat) (bs : List Byte) : (s.putHbm a bs).flash = s.flash := rfl
@[simp] theorem State.putHbm_sram (s : State) (a : Nat) (bs : List Byte) : (s.putHbm a bs).sram = s.sram := rfl
@[simp] theorem State.putHbm_jtag (s : State) (a : Nat) (bs : List Byte) : (s.putHbm a bs).jtag = s.jtag := rfl
@[simp] theorem State.putHbm_tx (s : State) (a : Nat) (bs : List Byte) : (s.putHbm a bs).tx = s.tx := rfl
@[simp] theorem State.putHbm_txWait (s : State) (a : Nat) (bs : List Byte) : (s.putHbm a bs).txWait = s.txWait := rfl
@[simp] theorem State.putHbm_cycle (s : State) (a : Nat) (bs : List Byte) : (s.putHbm a bs).cycle = s.cycle := rfl
@[simp] theorem State.putHbm_freeCtr (s : State) (a : Nat) (bs : List Byte) : (s.putHbm a bs).freeCtr = s.freeCtr := rfl

@[simp] theorem State.setQp_pending (s : State) (n : Nat) (q : Qp) : (s.setQp n q).pending = s.pending := rfl
@[simp] theorem State.setQp_setts (s : State) (n : Nat) (q : Qp) : (s.setQp n q).setts = s.setts := rfl
@[simp] theorem State.setQp_regs (s : State) (n : Nat) (q : Qp) : (s.setQp n q).regs = s.regs := rfl
@[simp] theorem State.setQp_hbm (s : State) (n : Nat) (q : Qp) : (s.setQp n q).hbm = s.hbm := rfl
@[simp] theorem State.setQp_burrow (s : State) (n : Nat) (q : Qp) : (s.setQp n q).burrow = s.burrow := rfl
@[simp] theorem State.setQp_remote (s : State) (n : Nat) (q : Qp) : (s.setQp n q).remote = s.remote := rfl
@[simp] theorem State.setQp_gtc (s : State) (n : Nat) (q : Qp) : (s.setQp n q).gtc = s.gtc := rfl
@[simp] theorem State.setQp_cfgHalt (s : State) (n : Nat) (q : Qp) : (s.setQp n q).cfgHalt = s.cfgHalt := rfl
@[simp] theorem State.setQp_recs (s : State) (n : Nat) (q : Qp) : (s.setQp n q).recs = s.recs := rfl
@[simp] theorem State.setQp_irqs (s : State) (n : Nat) (q : Qp) : (s.setQp n q).irqs = s.irqs := rfl
@[simp] theorem State.setQp_moves (s : State) (n : Nat) (q : Qp) : (s.setQp n q).moves = s.moves := rfl
@[simp] theorem State.setQp_kvReq (s : State) (n : Nat) (q : Qp) : (s.setQp n q).kvReq = s.kvReq := rfl
@[simp] theorem State.setQp_kvCursor (s : State) (n : Nat) (q : Qp) : (s.setQp n q).kvCursor = s.kvCursor := rfl
@[simp] theorem State.setQp_kvEvict (s : State) (n : Nat) (q : Qp) : (s.setQp n q).kvEvict = s.kvEvict := rfl
@[simp] theorem State.setQp_inj (s : State) (n : Nat) (q : Qp) : (s.setQp n q).inj = s.inj := rfl
@[simp] theorem State.setQp_xsig (s : State) (n : Nat) (q : Qp) : (s.setQp n q).xsig = s.xsig := rfl
@[simp] theorem State.setQp_xch (s : State) (n : Nat) (q : Qp) : (s.setQp n q).xch = s.xch := rfl
@[simp] theorem State.setQp_pkts (s : State) (n : Nat) (q : Qp) : (s.setQp n q).pkts = s.pkts := rfl
@[simp] theorem State.setQp_trOrd (s : State) (n : Nat) (q : Qp) : (s.setQp n q).trOrd = s.trOrd := rfl
@[simp] theorem State.setQp_mcast (s : State) (n : Nat) (q : Qp) : (s.setQp n q).mcast = s.mcast := rfl
@[simp] theorem State.setQp_eps (s : State) (n : Nat) (q : Qp) : (s.setQp n q).eps = s.eps := rfl
@[simp] theorem State.setQp_roce (s : State) (n : Nat) (q : Qp) : (s.setQp n q).roce = s.roce := rfl
@[simp] theorem State.setQp_mems (s : State) (n : Nat) (q : Qp) : (s.setQp n q).mems = s.mems := rfl
@[simp] theorem State.setQp_rxOcc (s : State) (n : Nat) (q : Qp) : (s.setQp n q).rxOcc = s.rxOcc := rfl
@[simp] theorem State.setQp_pause (s : State) (n : Nat) (q : Qp) : (s.setQp n q).pause = s.pause := rfl
@[simp] theorem State.setQp_cnpAt (s : State) (n : Nat) (q : Qp) : (s.setQp n q).cnpAt = s.cnpAt := rfl
@[simp] theorem State.setQp_rdata (s : State) (n : Nat) (q : Qp) : (s.setQp n q).rdata = s.rdata := rfl
@[simp] theorem State.setQp_acc (s : State) (n : Nat) (q : Qp) : (s.setQp n q).acc = s.acc := rfl
@[simp] theorem State.setQp_accOrd (s : State) (n : Nat) (q : Qp) : (s.setQp n q).accOrd = s.accOrd := rfl
@[simp] theorem State.setQp_latch (s : State) (n : Nat) (q : Qp) : (s.setQp n q).latch = s.latch := rfl
@[simp] theorem State.setQp_stbBusy (s : State) (n : Nat) (q : Qp) : (s.setQp n q).stbBusy = s.stbBusy := rfl
@[simp] theorem State.setQp_stbHeld (s : State) (n : Nat) (q : Qp) : (s.setQp n q).stbHeld = s.stbHeld := rfl
@[simp] theorem State.setQp_logQ (s : State) (n : Nat) (q : Qp) : (s.setQp n q).logQ = s.logQ := rfl
@[simp] theorem State.setQp_logCur (s : State) (n : Nat) (q : Qp) : (s.setQp n q).logCur = s.logCur := rfl
@[simp] theorem State.setQp_logSeq (s : State) (n : Nat) (q : Qp) : (s.setQp n q).logSeq = s.logSeq := rfl
@[simp] theorem State.setQp_logGap (s : State) (n : Nat) (q : Qp) : (s.setQp n q).logGap = s.logGap := rfl
@[simp] theorem State.setQp_load (s : State) (n : Nat) (q : Qp) : (s.setQp n q).load = s.load := rfl
@[simp] theorem State.setQp_hin (s : State) (n : Nat) (q : Qp) : (s.setQp n q).hin = s.hin := rfl
@[simp] theorem State.setQp_hcmds (s : State) (n : Nat) (q : Qp) : (s.setQp n q).hcmds = s.hcmds := rfl
@[simp] theorem State.setQp_hnext (s : State) (n : Nat) (q : Qp) : (s.setQp n q).hnext = s.hnext := rfl
@[simp] theorem State.setQp_hq (s : State) (n : Nat) (q : Qp) : (s.setQp n q).hq = s.hq := rfl
@[simp] theorem State.setQp_hwait (s : State) (n : Nat) (q : Qp) : (s.setQp n q).hwait = s.hwait := rfl
@[simp] theorem State.setQp_hflt (s : State) (n : Nat) (q : Qp) : (s.setQp n q).hflt = s.hflt := rfl
@[simp] theorem State.setQp_intake (s : State) (n : Nat) (q : Qp) : (s.setQp n q).intake = s.intake := rfl
@[simp] theorem State.setQp_vd (s : State) (n : Nat) (q : Qp) : (s.setQp n q).vd = s.vd := rfl
@[simp] theorem State.setQp_pw (s : State) (n : Nat) (q : Qp) : (s.setQp n q).pw = s.pw := rfl
@[simp] theorem State.setQp_sc (s : State) (n : Nat) (q : Qp) : (s.setQp n q).sc = s.sc := rfl
@[simp] theorem State.setQp_flash (s : State) (n : Nat) (q : Qp) : (s.setQp n q).flash = s.flash := rfl
@[simp] theorem State.setQp_sram (s : State) (n : Nat) (q : Qp) : (s.setQp n q).sram = s.sram := rfl
@[simp] theorem State.setQp_jtag (s : State) (n : Nat) (q : Qp) : (s.setQp n q).jtag = s.jtag := rfl
@[simp] theorem State.setQp_tx (s : State) (n : Nat) (q : Qp) : (s.setQp n q).tx = s.tx := rfl
@[simp] theorem State.setQp_txWait (s : State) (n : Nat) (q : Qp) : (s.setQp n q).txWait = s.txWait := rfl
@[simp] theorem State.setQp_cycle (s : State) (n : Nat) (q : Qp) : (s.setQp n q).cycle = s.cycle := rfl
@[simp] theorem State.setQp_freeCtr (s : State) (n : Nat) (q : Qp) : (s.setQp n q).freeCtr = s.freeCtr := rfl

@[simp] theorem State.modPw_pending (s : State) (f : PwSt → PwSt) : (s.modPw f).pending = s.pending := rfl
@[simp] theorem State.modPw_setts (s : State) (f : PwSt → PwSt) : (s.modPw f).setts = s.setts := rfl
@[simp] theorem State.modPw_regs (s : State) (f : PwSt → PwSt) : (s.modPw f).regs = s.regs := rfl
@[simp] theorem State.modPw_hbm (s : State) (f : PwSt → PwSt) : (s.modPw f).hbm = s.hbm := rfl
@[simp] theorem State.modPw_burrow (s : State) (f : PwSt → PwSt) : (s.modPw f).burrow = s.burrow := rfl
@[simp] theorem State.modPw_remote (s : State) (f : PwSt → PwSt) : (s.modPw f).remote = s.remote := rfl
@[simp] theorem State.modPw_gtc (s : State) (f : PwSt → PwSt) : (s.modPw f).gtc = s.gtc := rfl
@[simp] theorem State.modPw_cfgHalt (s : State) (f : PwSt → PwSt) : (s.modPw f).cfgHalt = s.cfgHalt := rfl
@[simp] theorem State.modPw_recs (s : State) (f : PwSt → PwSt) : (s.modPw f).recs = s.recs := rfl
@[simp] theorem State.modPw_irqs (s : State) (f : PwSt → PwSt) : (s.modPw f).irqs = s.irqs := rfl
@[simp] theorem State.modPw_moves (s : State) (f : PwSt → PwSt) : (s.modPw f).moves = s.moves := rfl
@[simp] theorem State.modPw_kvReq (s : State) (f : PwSt → PwSt) : (s.modPw f).kvReq = s.kvReq := rfl
@[simp] theorem State.modPw_kvCursor (s : State) (f : PwSt → PwSt) : (s.modPw f).kvCursor = s.kvCursor := rfl
@[simp] theorem State.modPw_kvEvict (s : State) (f : PwSt → PwSt) : (s.modPw f).kvEvict = s.kvEvict := rfl
@[simp] theorem State.modPw_inj (s : State) (f : PwSt → PwSt) : (s.modPw f).inj = s.inj := rfl
@[simp] theorem State.modPw_xsig (s : State) (f : PwSt → PwSt) : (s.modPw f).xsig = s.xsig := rfl
@[simp] theorem State.modPw_xch (s : State) (f : PwSt → PwSt) : (s.modPw f).xch = s.xch := rfl
@[simp] theorem State.modPw_pkts (s : State) (f : PwSt → PwSt) : (s.modPw f).pkts = s.pkts := rfl
@[simp] theorem State.modPw_trOrd (s : State) (f : PwSt → PwSt) : (s.modPw f).trOrd = s.trOrd := rfl
@[simp] theorem State.modPw_mcast (s : State) (f : PwSt → PwSt) : (s.modPw f).mcast = s.mcast := rfl
@[simp] theorem State.modPw_eps (s : State) (f : PwSt → PwSt) : (s.modPw f).eps = s.eps := rfl
@[simp] theorem State.modPw_qps (s : State) (f : PwSt → PwSt) : (s.modPw f).qps = s.qps := rfl
@[simp] theorem State.modPw_roce (s : State) (f : PwSt → PwSt) : (s.modPw f).roce = s.roce := rfl
@[simp] theorem State.modPw_mems (s : State) (f : PwSt → PwSt) : (s.modPw f).mems = s.mems := rfl
@[simp] theorem State.modPw_rxOcc (s : State) (f : PwSt → PwSt) : (s.modPw f).rxOcc = s.rxOcc := rfl
@[simp] theorem State.modPw_pause (s : State) (f : PwSt → PwSt) : (s.modPw f).pause = s.pause := rfl
@[simp] theorem State.modPw_cnpAt (s : State) (f : PwSt → PwSt) : (s.modPw f).cnpAt = s.cnpAt := rfl
@[simp] theorem State.modPw_rdata (s : State) (f : PwSt → PwSt) : (s.modPw f).rdata = s.rdata := rfl
@[simp] theorem State.modPw_acc (s : State) (f : PwSt → PwSt) : (s.modPw f).acc = s.acc := rfl
@[simp] theorem State.modPw_accOrd (s : State) (f : PwSt → PwSt) : (s.modPw f).accOrd = s.accOrd := rfl
@[simp] theorem State.modPw_latch (s : State) (f : PwSt → PwSt) : (s.modPw f).latch = s.latch := rfl
@[simp] theorem State.modPw_stbBusy (s : State) (f : PwSt → PwSt) : (s.modPw f).stbBusy = s.stbBusy := rfl
@[simp] theorem State.modPw_stbHeld (s : State) (f : PwSt → PwSt) : (s.modPw f).stbHeld = s.stbHeld := rfl
@[simp] theorem State.modPw_logQ (s : State) (f : PwSt → PwSt) : (s.modPw f).logQ = s.logQ := rfl
@[simp] theorem State.modPw_logCur (s : State) (f : PwSt → PwSt) : (s.modPw f).logCur = s.logCur := rfl
@[simp] theorem State.modPw_logSeq (s : State) (f : PwSt → PwSt) : (s.modPw f).logSeq = s.logSeq := rfl
@[simp] theorem State.modPw_logGap (s : State) (f : PwSt → PwSt) : (s.modPw f).logGap = s.logGap := rfl
@[simp] theorem State.modPw_load (s : State) (f : PwSt → PwSt) : (s.modPw f).load = s.load := rfl
@[simp] theorem State.modPw_hin (s : State) (f : PwSt → PwSt) : (s.modPw f).hin = s.hin := rfl
@[simp] theorem State.modPw_hcmds (s : State) (f : PwSt → PwSt) : (s.modPw f).hcmds = s.hcmds := rfl
@[simp] theorem State.modPw_hnext (s : State) (f : PwSt → PwSt) : (s.modPw f).hnext = s.hnext := rfl
@[simp] theorem State.modPw_hq (s : State) (f : PwSt → PwSt) : (s.modPw f).hq = s.hq := rfl
@[simp] theorem State.modPw_hwait (s : State) (f : PwSt → PwSt) : (s.modPw f).hwait = s.hwait := rfl
@[simp] theorem State.modPw_hflt (s : State) (f : PwSt → PwSt) : (s.modPw f).hflt = s.hflt := rfl
@[simp] theorem State.modPw_intake (s : State) (f : PwSt → PwSt) : (s.modPw f).intake = s.intake := rfl
@[simp] theorem State.modPw_vd (s : State) (f : PwSt → PwSt) : (s.modPw f).vd = s.vd := rfl
@[simp] theorem State.modPw_sc (s : State) (f : PwSt → PwSt) : (s.modPw f).sc = s.sc := rfl
@[simp] theorem State.modPw_flash (s : State) (f : PwSt → PwSt) : (s.modPw f).flash = s.flash := rfl
@[simp] theorem State.modPw_sram (s : State) (f : PwSt → PwSt) : (s.modPw f).sram = s.sram := rfl
@[simp] theorem State.modPw_jtag (s : State) (f : PwSt → PwSt) : (s.modPw f).jtag = s.jtag := rfl
@[simp] theorem State.modPw_tx (s : State) (f : PwSt → PwSt) : (s.modPw f).tx = s.tx := rfl
@[simp] theorem State.modPw_txWait (s : State) (f : PwSt → PwSt) : (s.modPw f).txWait = s.txWait := rfl
@[simp] theorem State.modPw_cycle (s : State) (f : PwSt → PwSt) : (s.modPw f).cycle = s.cycle := rfl
@[simp] theorem State.modPw_freeCtr (s : State) (f : PwSt → PwSt) : (s.modPw f).freeCtr = s.freeCtr := rfl

@[simp] theorem State.modSc_pending (s : State) (f : ScSt → ScSt) : (s.modSc f).pending = s.pending := rfl
@[simp] theorem State.modSc_setts (s : State) (f : ScSt → ScSt) : (s.modSc f).setts = s.setts := rfl
@[simp] theorem State.modSc_regs (s : State) (f : ScSt → ScSt) : (s.modSc f).regs = s.regs := rfl
@[simp] theorem State.modSc_hbm (s : State) (f : ScSt → ScSt) : (s.modSc f).hbm = s.hbm := rfl
@[simp] theorem State.modSc_burrow (s : State) (f : ScSt → ScSt) : (s.modSc f).burrow = s.burrow := rfl
@[simp] theorem State.modSc_remote (s : State) (f : ScSt → ScSt) : (s.modSc f).remote = s.remote := rfl
@[simp] theorem State.modSc_gtc (s : State) (f : ScSt → ScSt) : (s.modSc f).gtc = s.gtc := rfl
@[simp] theorem State.modSc_cfgHalt (s : State) (f : ScSt → ScSt) : (s.modSc f).cfgHalt = s.cfgHalt := rfl
@[simp] theorem State.modSc_recs (s : State) (f : ScSt → ScSt) : (s.modSc f).recs = s.recs := rfl
@[simp] theorem State.modSc_irqs (s : State) (f : ScSt → ScSt) : (s.modSc f).irqs = s.irqs := rfl
@[simp] theorem State.modSc_moves (s : State) (f : ScSt → ScSt) : (s.modSc f).moves = s.moves := rfl
@[simp] theorem State.modSc_kvReq (s : State) (f : ScSt → ScSt) : (s.modSc f).kvReq = s.kvReq := rfl
@[simp] theorem State.modSc_kvCursor (s : State) (f : ScSt → ScSt) : (s.modSc f).kvCursor = s.kvCursor := rfl
@[simp] theorem State.modSc_kvEvict (s : State) (f : ScSt → ScSt) : (s.modSc f).kvEvict = s.kvEvict := rfl
@[simp] theorem State.modSc_inj (s : State) (f : ScSt → ScSt) : (s.modSc f).inj = s.inj := rfl
@[simp] theorem State.modSc_xsig (s : State) (f : ScSt → ScSt) : (s.modSc f).xsig = s.xsig := rfl
@[simp] theorem State.modSc_xch (s : State) (f : ScSt → ScSt) : (s.modSc f).xch = s.xch := rfl
@[simp] theorem State.modSc_pkts (s : State) (f : ScSt → ScSt) : (s.modSc f).pkts = s.pkts := rfl
@[simp] theorem State.modSc_trOrd (s : State) (f : ScSt → ScSt) : (s.modSc f).trOrd = s.trOrd := rfl
@[simp] theorem State.modSc_mcast (s : State) (f : ScSt → ScSt) : (s.modSc f).mcast = s.mcast := rfl
@[simp] theorem State.modSc_eps (s : State) (f : ScSt → ScSt) : (s.modSc f).eps = s.eps := rfl
@[simp] theorem State.modSc_qps (s : State) (f : ScSt → ScSt) : (s.modSc f).qps = s.qps := rfl
@[simp] theorem State.modSc_roce (s : State) (f : ScSt → ScSt) : (s.modSc f).roce = s.roce := rfl
@[simp] theorem State.modSc_mems (s : State) (f : ScSt → ScSt) : (s.modSc f).mems = s.mems := rfl
@[simp] theorem State.modSc_rxOcc (s : State) (f : ScSt → ScSt) : (s.modSc f).rxOcc = s.rxOcc := rfl
@[simp] theorem State.modSc_pause (s : State) (f : ScSt → ScSt) : (s.modSc f).pause = s.pause := rfl
@[simp] theorem State.modSc_cnpAt (s : State) (f : ScSt → ScSt) : (s.modSc f).cnpAt = s.cnpAt := rfl
@[simp] theorem State.modSc_rdata (s : State) (f : ScSt → ScSt) : (s.modSc f).rdata = s.rdata := rfl
@[simp] theorem State.modSc_acc (s : State) (f : ScSt → ScSt) : (s.modSc f).acc = s.acc := rfl
@[simp] theorem State.modSc_accOrd (s : State) (f : ScSt → ScSt) : (s.modSc f).accOrd = s.accOrd := rfl
@[simp] theorem State.modSc_latch (s : State) (f : ScSt → ScSt) : (s.modSc f).latch = s.latch := rfl
@[simp] theorem State.modSc_stbBusy (s : State) (f : ScSt → ScSt) : (s.modSc f).stbBusy = s.stbBusy := rfl
@[simp] theorem State.modSc_stbHeld (s : State) (f : ScSt → ScSt) : (s.modSc f).stbHeld = s.stbHeld := rfl
@[simp] theorem State.modSc_logQ (s : State) (f : ScSt → ScSt) : (s.modSc f).logQ = s.logQ := rfl
@[simp] theorem State.modSc_logCur (s : State) (f : ScSt → ScSt) : (s.modSc f).logCur = s.logCur := rfl
@[simp] theorem State.modSc_logSeq (s : State) (f : ScSt → ScSt) : (s.modSc f).logSeq = s.logSeq := rfl
@[simp] theorem State.modSc_logGap (s : State) (f : ScSt → ScSt) : (s.modSc f).logGap = s.logGap := rfl
@[simp] theorem State.modSc_load (s : State) (f : ScSt → ScSt) : (s.modSc f).load = s.load := rfl
@[simp] theorem State.modSc_hin (s : State) (f : ScSt → ScSt) : (s.modSc f).hin = s.hin := rfl
@[simp] theorem State.modSc_hcmds (s : State) (f : ScSt → ScSt) : (s.modSc f).hcmds = s.hcmds := rfl
@[simp] theorem State.modSc_hnext (s : State) (f : ScSt → ScSt) : (s.modSc f).hnext = s.hnext := rfl
@[simp] theorem State.modSc_hq (s : State) (f : ScSt → ScSt) : (s.modSc f).hq = s.hq := rfl
@[simp] theorem State.modSc_hwait (s : State) (f : ScSt → ScSt) : (s.modSc f).hwait = s.hwait := rfl
@[simp] theorem State.modSc_hflt (s : State) (f : ScSt → ScSt) : (s.modSc f).hflt = s.hflt := rfl
@[simp] theorem State.modSc_intake (s : State) (f : ScSt → ScSt) : (s.modSc f).intake = s.intake := rfl
@[simp] theorem State.modSc_vd (s : State) (f : ScSt → ScSt) : (s.modSc f).vd = s.vd := rfl
@[simp] theorem State.modSc_pw (s : State) (f : ScSt → ScSt) : (s.modSc f).pw = s.pw := rfl
@[simp] theorem State.modSc_flash (s : State) (f : ScSt → ScSt) : (s.modSc f).flash = s.flash := rfl
@[simp] theorem State.modSc_sram (s : State) (f : ScSt → ScSt) : (s.modSc f).sram = s.sram := rfl
@[simp] theorem State.modSc_jtag (s : State) (f : ScSt → ScSt) : (s.modSc f).jtag = s.jtag := rfl
@[simp] theorem State.modSc_tx (s : State) (f : ScSt → ScSt) : (s.modSc f).tx = s.tx := rfl
@[simp] theorem State.modSc_txWait (s : State) (f : ScSt → ScSt) : (s.modSc f).txWait = s.txWait := rfl
@[simp] theorem State.modSc_cycle (s : State) (f : ScSt → ScSt) : (s.modSc f).cycle = s.cycle := rfl
@[simp] theorem State.modSc_freeCtr (s : State) (f : ScSt → ScSt) : (s.modSc f).freeCtr = s.freeCtr := rfl

@[simp] theorem State.modVd_pending (s : State) (f : VdSt → VdSt) : (s.modVd f).pending = s.pending := rfl
@[simp] theorem State.modVd_setts (s : State) (f : VdSt → VdSt) : (s.modVd f).setts = s.setts := rfl
@[simp] theorem State.modVd_regs (s : State) (f : VdSt → VdSt) : (s.modVd f).regs = s.regs := rfl
@[simp] theorem State.modVd_hbm (s : State) (f : VdSt → VdSt) : (s.modVd f).hbm = s.hbm := rfl
@[simp] theorem State.modVd_burrow (s : State) (f : VdSt → VdSt) : (s.modVd f).burrow = s.burrow := rfl
@[simp] theorem State.modVd_remote (s : State) (f : VdSt → VdSt) : (s.modVd f).remote = s.remote := rfl
@[simp] theorem State.modVd_gtc (s : State) (f : VdSt → VdSt) : (s.modVd f).gtc = s.gtc := rfl
@[simp] theorem State.modVd_cfgHalt (s : State) (f : VdSt → VdSt) : (s.modVd f).cfgHalt = s.cfgHalt := rfl
@[simp] theorem State.modVd_recs (s : State) (f : VdSt → VdSt) : (s.modVd f).recs = s.recs := rfl
@[simp] theorem State.modVd_irqs (s : State) (f : VdSt → VdSt) : (s.modVd f).irqs = s.irqs := rfl
@[simp] theorem State.modVd_moves (s : State) (f : VdSt → VdSt) : (s.modVd f).moves = s.moves := rfl
@[simp] theorem State.modVd_kvReq (s : State) (f : VdSt → VdSt) : (s.modVd f).kvReq = s.kvReq := rfl
@[simp] theorem State.modVd_kvCursor (s : State) (f : VdSt → VdSt) : (s.modVd f).kvCursor = s.kvCursor := rfl
@[simp] theorem State.modVd_kvEvict (s : State) (f : VdSt → VdSt) : (s.modVd f).kvEvict = s.kvEvict := rfl
@[simp] theorem State.modVd_inj (s : State) (f : VdSt → VdSt) : (s.modVd f).inj = s.inj := rfl
@[simp] theorem State.modVd_xsig (s : State) (f : VdSt → VdSt) : (s.modVd f).xsig = s.xsig := rfl
@[simp] theorem State.modVd_xch (s : State) (f : VdSt → VdSt) : (s.modVd f).xch = s.xch := rfl
@[simp] theorem State.modVd_pkts (s : State) (f : VdSt → VdSt) : (s.modVd f).pkts = s.pkts := rfl
@[simp] theorem State.modVd_trOrd (s : State) (f : VdSt → VdSt) : (s.modVd f).trOrd = s.trOrd := rfl
@[simp] theorem State.modVd_mcast (s : State) (f : VdSt → VdSt) : (s.modVd f).mcast = s.mcast := rfl
@[simp] theorem State.modVd_eps (s : State) (f : VdSt → VdSt) : (s.modVd f).eps = s.eps := rfl
@[simp] theorem State.modVd_qps (s : State) (f : VdSt → VdSt) : (s.modVd f).qps = s.qps := rfl
@[simp] theorem State.modVd_roce (s : State) (f : VdSt → VdSt) : (s.modVd f).roce = s.roce := rfl
@[simp] theorem State.modVd_mems (s : State) (f : VdSt → VdSt) : (s.modVd f).mems = s.mems := rfl
@[simp] theorem State.modVd_rxOcc (s : State) (f : VdSt → VdSt) : (s.modVd f).rxOcc = s.rxOcc := rfl
@[simp] theorem State.modVd_pause (s : State) (f : VdSt → VdSt) : (s.modVd f).pause = s.pause := rfl
@[simp] theorem State.modVd_cnpAt (s : State) (f : VdSt → VdSt) : (s.modVd f).cnpAt = s.cnpAt := rfl
@[simp] theorem State.modVd_rdata (s : State) (f : VdSt → VdSt) : (s.modVd f).rdata = s.rdata := rfl
@[simp] theorem State.modVd_acc (s : State) (f : VdSt → VdSt) : (s.modVd f).acc = s.acc := rfl
@[simp] theorem State.modVd_accOrd (s : State) (f : VdSt → VdSt) : (s.modVd f).accOrd = s.accOrd := rfl
@[simp] theorem State.modVd_latch (s : State) (f : VdSt → VdSt) : (s.modVd f).latch = s.latch := rfl
@[simp] theorem State.modVd_stbBusy (s : State) (f : VdSt → VdSt) : (s.modVd f).stbBusy = s.stbBusy := rfl
@[simp] theorem State.modVd_stbHeld (s : State) (f : VdSt → VdSt) : (s.modVd f).stbHeld = s.stbHeld := rfl
@[simp] theorem State.modVd_logQ (s : State) (f : VdSt → VdSt) : (s.modVd f).logQ = s.logQ := rfl
@[simp] theorem State.modVd_logCur (s : State) (f : VdSt → VdSt) : (s.modVd f).logCur = s.logCur := rfl
@[simp] theorem State.modVd_logSeq (s : State) (f : VdSt → VdSt) : (s.modVd f).logSeq = s.logSeq := rfl
@[simp] theorem State.modVd_logGap (s : State) (f : VdSt → VdSt) : (s.modVd f).logGap = s.logGap := rfl
@[simp] theorem State.modVd_load (s : State) (f : VdSt → VdSt) : (s.modVd f).load = s.load := rfl
@[simp] theorem State.modVd_hin (s : State) (f : VdSt → VdSt) : (s.modVd f).hin = s.hin := rfl
@[simp] theorem State.modVd_hcmds (s : State) (f : VdSt → VdSt) : (s.modVd f).hcmds = s.hcmds := rfl
@[simp] theorem State.modVd_hnext (s : State) (f : VdSt → VdSt) : (s.modVd f).hnext = s.hnext := rfl
@[simp] theorem State.modVd_hq (s : State) (f : VdSt → VdSt) : (s.modVd f).hq = s.hq := rfl
@[simp] theorem State.modVd_hwait (s : State) (f : VdSt → VdSt) : (s.modVd f).hwait = s.hwait := rfl
@[simp] theorem State.modVd_hflt (s : State) (f : VdSt → VdSt) : (s.modVd f).hflt = s.hflt := rfl
@[simp] theorem State.modVd_intake (s : State) (f : VdSt → VdSt) : (s.modVd f).intake = s.intake := rfl
@[simp] theorem State.modVd_pw (s : State) (f : VdSt → VdSt) : (s.modVd f).pw = s.pw := rfl
@[simp] theorem State.modVd_sc (s : State) (f : VdSt → VdSt) : (s.modVd f).sc = s.sc := rfl
@[simp] theorem State.modVd_flash (s : State) (f : VdSt → VdSt) : (s.modVd f).flash = s.flash := rfl
@[simp] theorem State.modVd_sram (s : State) (f : VdSt → VdSt) : (s.modVd f).sram = s.sram := rfl
@[simp] theorem State.modVd_jtag (s : State) (f : VdSt → VdSt) : (s.modVd f).jtag = s.jtag := rfl
@[simp] theorem State.modVd_tx (s : State) (f : VdSt → VdSt) : (s.modVd f).tx = s.tx := rfl
@[simp] theorem State.modVd_txWait (s : State) (f : VdSt → VdSt) : (s.modVd f).txWait = s.txWait := rfl
@[simp] theorem State.modVd_cycle (s : State) (f : VdSt → VdSt) : (s.modVd f).cycle = s.cycle := rfl
@[simp] theorem State.modVd_freeCtr (s : State) (f : VdSt → VdSt) : (s.modVd f).freeCtr = s.freeCtr := rfl

@[simp] theorem State.idle_pending (s : State) : s.idle.pending = s.pending := rfl
@[simp] theorem State.idle_setts (s : State) : s.idle.setts = s.setts := rfl
@[simp] theorem State.idle_regs (s : State) : s.idle.regs = s.regs := rfl
@[simp] theorem State.idle_hbm (s : State) : s.idle.hbm = s.hbm := rfl
@[simp] theorem State.idle_burrow (s : State) : s.idle.burrow = s.burrow := rfl
@[simp] theorem State.idle_remote (s : State) : s.idle.remote = s.remote := rfl
@[simp] theorem State.idle_gtc (s : State) : s.idle.gtc = s.gtc := rfl
@[simp] theorem State.idle_cfgHalt (s : State) : s.idle.cfgHalt = s.cfgHalt := rfl
@[simp] theorem State.idle_recs (s : State) : s.idle.recs = s.recs := rfl
@[simp] theorem State.idle_irqs (s : State) : s.idle.irqs = s.irqs := rfl
@[simp] theorem State.idle_moves (s : State) : s.idle.moves = s.moves := rfl
@[simp] theorem State.idle_kvReq (s : State) : s.idle.kvReq = s.kvReq := rfl
@[simp] theorem State.idle_kvCursor (s : State) : s.idle.kvCursor = s.kvCursor := rfl
@[simp] theorem State.idle_kvEvict (s : State) : s.idle.kvEvict = s.kvEvict := rfl
@[simp] theorem State.idle_inj (s : State) : s.idle.inj = s.inj := rfl
@[simp] theorem State.idle_xsig (s : State) : s.idle.xsig = s.xsig := rfl
@[simp] theorem State.idle_xch (s : State) : s.idle.xch = s.xch := rfl
@[simp] theorem State.idle_pkts (s : State) : s.idle.pkts = s.pkts := rfl
@[simp] theorem State.idle_trOrd (s : State) : s.idle.trOrd = s.trOrd := rfl
@[simp] theorem State.idle_mcast (s : State) : s.idle.mcast = s.mcast := rfl
@[simp] theorem State.idle_eps (s : State) : s.idle.eps = s.eps := rfl
@[simp] theorem State.idle_qps (s : State) : s.idle.qps = s.qps := rfl
@[simp] theorem State.idle_roce (s : State) : s.idle.roce = s.roce := rfl
@[simp] theorem State.idle_mems (s : State) : s.idle.mems = s.mems := rfl
@[simp] theorem State.idle_rxOcc (s : State) : s.idle.rxOcc = s.rxOcc := rfl
@[simp] theorem State.idle_pause (s : State) : s.idle.pause = s.pause := rfl
@[simp] theorem State.idle_cnpAt (s : State) : s.idle.cnpAt = s.cnpAt := rfl
@[simp] theorem State.idle_rdata (s : State) : s.idle.rdata = s.rdata := rfl
@[simp] theorem State.idle_acc (s : State) : s.idle.acc = s.acc := rfl
@[simp] theorem State.idle_accOrd (s : State) : s.idle.accOrd = s.accOrd := rfl
@[simp] theorem State.idle_latch (s : State) : s.idle.latch = s.latch := rfl
@[simp] theorem State.idle_stbBusy (s : State) : s.idle.stbBusy = s.stbBusy := rfl
@[simp] theorem State.idle_stbHeld (s : State) : s.idle.stbHeld = s.stbHeld := rfl
@[simp] theorem State.idle_logQ (s : State) : s.idle.logQ = s.logQ := rfl
@[simp] theorem State.idle_logCur (s : State) : s.idle.logCur = s.logCur := rfl
@[simp] theorem State.idle_logSeq (s : State) : s.idle.logSeq = s.logSeq := rfl
@[simp] theorem State.idle_logGap (s : State) : s.idle.logGap = s.logGap := rfl
@[simp] theorem State.idle_load (s : State) : s.idle.load = s.load := rfl
@[simp] theorem State.idle_hin (s : State) : s.idle.hin = s.hin := rfl
@[simp] theorem State.idle_hcmds (s : State) : s.idle.hcmds = s.hcmds := rfl
@[simp] theorem State.idle_hnext (s : State) : s.idle.hnext = s.hnext := rfl
@[simp] theorem State.idle_hq (s : State) : s.idle.hq = s.hq := rfl
@[simp] theorem State.idle_hwait (s : State) : s.idle.hwait = s.hwait := rfl
@[simp] theorem State.idle_hflt (s : State) : s.idle.hflt = s.hflt := rfl
@[simp] theorem State.idle_intake (s : State) : s.idle.intake = s.intake := rfl
@[simp] theorem State.idle_vd (s : State) : s.idle.vd = s.vd := rfl
@[simp] theorem State.idle_pw (s : State) : s.idle.pw = s.pw := rfl
@[simp] theorem State.idle_sc (s : State) : s.idle.sc = s.sc := rfl
@[simp] theorem State.idle_flash (s : State) : s.idle.flash = s.flash := rfl
@[simp] theorem State.idle_sram (s : State) : s.idle.sram = s.sram := rfl
@[simp] theorem State.idle_jtag (s : State) : s.idle.jtag = s.jtag := rfl
@[simp] theorem State.idle_tx (s : State) : s.idle.tx = s.tx := rfl
@[simp] theorem State.idle_txWait (s : State) : s.idle.txWait = s.txWait := rfl
@[simp] theorem State.idle_freeCtr (s : State) : s.idle.freeCtr = s.freeCtr := rfl

@[simp] theorem State.idle_cycle (s : State) : s.idle.cycle = s.cycle + 1 := rfl

end Sys2Proof.Machine
end

