-- ==== Sys2Proof/Laws/Regs.lean ====
section
/-!
SUPPORT. Sparse tables and the register file: what a write gives to a read.
-/
namespace Sys2Proof.Machine

theorem Tbl.find_append {α : Type} (t r : Tbl α) (k : Nat) :
    Tbl.find (t ++ r) k = (match Tbl.find t k with
      | some v => some v
      | none => Tbl.find r k) := by
  induction t with
  | nil => rfl
  | cons c t ih =>
    obtain ⟨a, v⟩ := c
    simp only [List.cons_append, Tbl.find]
    split
    · rfl
    · exact ih

theorem Tbl.find_filter {α : Type} (p : Nat → Bool) (t : Tbl α) (k : Nat) :
    Tbl.find (t.filter (fun c => p c.1)) k = if p k then Tbl.find t k else none := by
  induction t with
  | nil => simp [Tbl.find]
  | cons c t ih =>
    obtain ⟨a, v⟩ := c
    by_cases hp : p a = true
    · rw [List.filter_cons_of_pos (by simpa using hp)]
      simp only [Tbl.find]
      by_cases hk : k = a
      · subst hk; simp [hp]
      · simp only [if_neg hk, ih]
    · rw [List.filter_cons_of_neg (by simpa using hp), ih]
      simp only [Tbl.find]
      by_cases hk : k = a
      · subst hk; simp [hp]
      · simp only [if_neg hk]

/-- A key that is set is found. -/
theorem Tbl.find_put_same {α : Type} (t : Tbl α) (k : Nat) (v : α) : Tbl.find (Tbl.put t k v) k = some v := by
  unfold Tbl.put
  have h := Tbl.find_filter (fun a => decide (a < k)) t k
  simp only [Nat.lt_irrefl, decide_false, Bool.false_eq_true, if_false] at h
  rw [Tbl.find_append, h]
  simp [Tbl.find]

/-- Setting one key leaves every other. -/
theorem Tbl.find_put_other {α : Type} (t : Tbl α) {k j : Nat} (v : α) (h : j ≠ k) : Tbl.find (Tbl.put t k v) j = Tbl.find t j := by
  unfold Tbl.put
  have h1 := Tbl.find_filter (fun a => decide (a < k)) t j
  have h2 := Tbl.find_filter (fun a => decide (k < a)) t j
  rw [Tbl.find_append, h1]
  simp only [Tbl.find, if_neg h]
  rw [h2]
  rcases Nat.lt_or_gt_of_ne h with h' | h'
  · simp only [h', decide_true, if_true, Nat.not_lt.mpr (Nat.le_of_lt h'), decide_false, Bool.false_eq_true, if_false]
    cases Tbl.find t j <;> rfl
  · simp [h', Nat.not_lt.mpr (Nat.le_of_lt h')]

theorem Tbl.find_drop_same {α : Type} (t : Tbl α) (k : Nat) : Tbl.find (Tbl.drop t k) k = none := by
  have h := Tbl.find_filter (fun a => decide (a ≠ k)) t k
  simpa [Tbl.drop] using h

theorem Tbl.find_drop_other {α : Type} (t : Tbl α) {k j : Nat} (h : j ≠ k) : Tbl.find (Tbl.drop t k) j = Tbl.find t j := by
  have h' := Tbl.find_filter (fun a => decide (a ≠ k)) t j
  simpa [Tbl.drop, h] using h'

/-- Reading a table after a write: the key written. -/
@[simp] theorem Tbl.get_set_same {α : Type} [DecidableEq α] (t : Tbl α) (k : Nat) (v d : α) : Tbl.get (Tbl.set t k v d) k d = v := by
  unfold Tbl.get Tbl.set
  split
  · rename_i h; rw [Tbl.find_drop_same, h]; rfl
  · rw [Tbl.find_put_same]; rfl

/-- Reading a table after a write: any other key. -/
theorem Tbl.get_set_other {α : Type} [DecidableEq α] (t : Tbl α) {k j : Nat} (v d x : α) (h : j ≠ k) :
    Tbl.get (Tbl.set t k v d) j x = Tbl.get t j x := by
  unfold Tbl.get Tbl.set
  split
  · rw [Tbl.find_drop_other t h]
  · rw [Tbl.find_put_other t v h]

/-- A register reads as it was written. -/
@[simp] theorem State.reg_setReg (s : State) (b : Blk) (o : Nat) (v : Word) : (s.setReg b o v).reg b o = v := by
  simp [State.setReg, State.reg, RegFile.get, RegFile.set]

/-- A write leaves a register of another address as it was. -/
theorem State.reg_setReg_ne (s : State) {b c : Blk} {o p : Nat} (v : Word) (h : c.key p ≠ b.key o) :
    (s.setReg b o v).reg c p = s.reg c p := by
  simp only [State.setReg, State.reg, RegFile.get, RegFile.set]
  exact Tbl.get_set_other _ _ _ _ h

@[simp] theorem State.reg_orReg (s : State) (b : Blk) (o : Nat) (m : Word) : (s.orReg b o m).reg b o = s.reg b o ||| m := by
  simp [State.orReg]

theorem State.reg_orReg_ne (s : State) {b c : Blk} {o p : Nat} (m : Word) (h : c.key p ≠ b.key o) :
    (s.orReg b o m).reg c p = s.reg c p := State.reg_setReg_ne s _ h

theorem State.reg_putBit_ne (s : State) {b c : Blk} {o p i : Nat} (v : Bool) (h : c.key p ≠ b.key o) :
    (s.putBit b o i v).reg c p = s.reg c p := State.reg_setReg_ne s _ h

theorem State.reg_bump_ne (s : State) {b c : Blk} {o p n : Nat} (h : c.key p ≠ b.key o) :
    (s.bump b o n).reg c p = s.reg c p := State.reg_setReg_ne s _ h

@[simp] theorem State.reg_bump (s : State) (b : Blk) (o n : Nat) :
    (s.bump b o n).reg b o = BitVec.ofNat 32 (satAdd (s.reg b o).toNat n) := by
  simp [State.bump]

end Sys2Proof.Machine
end

