-- ==== Sys2Proof/Laws/Sequencer.lean ====
section
/-!
SUPPORT. What the sequencer's shared operations do: one lemma per operation, for callers that do not unfold it.
-/
namespace Sys2Proof.Machine

/-- Two changes of one sett are one change. -/
theorem modSett_modSett (s : State) (u : SettId) (f g : SettSt → SettSt) :
    (s.modSett u f).modSett u g = s.modSett u (fun t => g (f t)) := by
  simp [State.modSett]

/-- The parts of `canIssue`. -/
theorem canIssue_parts {s : State} {u : SettId} (h : s.canIssue u = true) :
    (s.sett u).issuing = true ∧ s.countDue u = false ∧ (s.sett u).pc < s.regionWords u ∧ s.mayMismatch u = false ∧
      (s.sett u).stepReq = false := by
  simp only [State.canIssue, Bool.and_eq_true, Bool.not_eq_true', decide_eq_true_eq] at h
  exact ⟨h.1.1.1.1, h.1.1.1.2, h.1.1.2, h.1.2, h.2⟩

theorem canIssue_stepReq {s : State} {u : SettId} (h : s.canIssue u = true) : (s.sett u).stepReq = false :=
  (canIssue_parts h).2.2.2.2

/-- A sett that can issue carries out the instruction. -/
theorem seqStep_can {s : State} {u : SettId} (h : s.canIssue u = true) (more : List Reads) (f : State → State) :
    s.seqStep u more f = f s := by
  obtain ⟨h1, h2, h3, h4, _⟩ := canIssue_parts h
  simp only [SettSt.issuing, Bool.and_eq_true, beq_iff_eq, Option.isNone_iff_eq_none] at h1
  simp [State.seqStep, h1, h2, Nat.not_le.mpr h3, State.consumeSq, h4]

/-- A sett that does not run, holds issue, or whose count break is due, ignores an instruction. -/
theorem seqStep_held {s : State} {u : SettId} (h : (s.sett u).st ≠ .run ∨ (s.sett u).hold ≠ .none ∨ s.countDue u = true)
    (more : List Reads) (f : State → State) : s.seqStep u more f = s := by
  rcases h with h | h | h <;> simp [State.seqStep, h]

/-- A frozen sett whose words are good ignores an instruction. -/
theorem seqStep_frozen {s : State} {u : SettId} (h : (s.sett u).freeze.isSome = true) (hm : s.mayMismatch u = false)
    (more : List Reads) (f : State → State) : s.seqStep u more f = s := by
  simp [State.seqStep, State.consumeSq, h, hm]

/-- A fetch beyond the region halts with BOUNDS. -/
theorem seqStep_beyond {s : State} {u : SettId} (h1 : (s.sett u).issuing = true) (h2 : s.countDue u = false)
    (h3 : s.regionWords u ≤ (s.sett u).pc) (more : List Reads) (f : State → State) :
    s.seqStep u more f = s.haltSett u Code.bounds 0 2 (s.sett u).pc := by
  simp only [SettSt.issuing, Bool.and_eq_true, beq_iff_eq, Option.isNone_iff_eq_none] at h1
  simp [State.seqStep, h1, h2, h3]

/-- No break follows an instruction unless a tag or STEP asks for one. -/
theorem afterIssue_noStep {s : State} {u : SettId} (ix : Nat) (h : (s.sett u).stepReq = false) :
    s.afterIssue u ix false = s := by
  simp [State.afterIssue, h]

@[simp] theorem exitLoop_stepReq (t : SettSt) : t.exitLoop.stepReq = t.stepReq := by
  unfold SettSt.exitLoop; split
  · rfl
  · dsimp only; split <;> rfl

@[simp] theorem advance_stepReq (t : SettSt) : t.advance.stepReq = t.stepReq := by
  unfold SettSt.advance
  dsimp only
  split
  · rfl
  · split
    · split
      · rfl
      · rw [exitLoop_stepReq]
    · rfl

@[simp] theorem putCt_stepReq (t : SettSt) (n : BitVec 4) (v : Word) : (t.putCt n v).stepReq = t.stepReq := by
  unfold SettSt.putCt; split <;> rfl

@[simp] theorem leaveLoops_stepReq (n tgt : Nat) (t : SettSt) : (t.leaveLoops n tgt).stepReq = t.stepReq := by
  induction n generalizing t with
  | zero => rfl
  | succ n ih =>
    unfold SettSt.leaveLoops
    split
    · rfl
    · split
      · rfl
      · rw [ih, exitLoop_stepReq]

/-- A sequencer instruction that falls through. -/
theorem plain_can {s : State} {u : SettId} (h : s.canIssue u = true) (f : SettSt → SettSt)
    (hf : (f (s.sett u)).stepReq = (s.sett u).stepReq) :
    s.plain u f = s.modSett u (fun t => ((f t).advance).spend 1) := by
  unfold State.plain
  rw [seqStep_can h, afterIssue_noStep]
  simp [SettSt.spend, hf, canIssue_stepReq h]

/-- A word with a reserved field. -/
theorem badWord_can {s : State} {u : SettId} (h : s.canIssue u = true) (e : Nat) :
    s.badWord u e = s.haltSett u Code.planMismatch e 2 (s.sett u).pc := by
  simp [State.badWord, seqStep_can h]

/-- A frame is sent, or waits for its priority; nothing else changes. -/
theorem send_shape (s : State) (p : Fin 2) (prio : Nat) (dst : Nat × Nat) (sport : Nat) (b : EthBody) :
    ∃ x w, s.send p prio dst sport b = { s with tx := x, txWait := w } := by
  unfold State.send
  dsimp only
  split
  · exact ⟨_, _, rfl⟩
  · exact ⟨_, _, rfl⟩

/-- A notification changes the endpoints and what is sent, nothing else. -/
theorem notify_shape (s : State) (ep : Fin 2) (event status arg : Nat) :
    ∃ e x w, s.notify ep event status arg = { s with eps := e, tx := x, txWait := w } := by
  unfold State.notify State.sendCt
  dsimp only
  split
  · obtain ⟨x, w, h⟩ := send_shape _ ep _ _ _ _
    exact ⟨_, x, w, h⟩
  · exact ⟨s.eps, s.tx, s.txWait, rfl⟩

theorem notifyBoth_shape (s : State) (event status arg : Nat) :
    ∃ e x w, s.notifyBoth event status arg = { s with eps := e, tx := x, txWait := w } := by
  obtain ⟨e, x, w, h⟩ := notify_shape s 0 event status arg
  obtain ⟨e', x', w', h'⟩ := notify_shape { s with eps := e, tx := x, txWait := w } 1 event status arg
  exact ⟨e', x', w', by rw [State.notifyBoth, h, h']⟩

/-- What a halt makes of its sett (04 R128). -/
def SettSt.haltAs (t : SettSt) (status : Nat) (w : Word) : SettSt :=
  { t with st := .halted, hold := .none, held := 0, stepReq := false, haltInfo := w, lastFault := status,
           eng := t.eng.map Eng.abortQueue, ch := t.ch.map DmaCh.abort }

/-- The record that a halt writes. -/
def State.haltRec (s : State) (u : SettId) (status : Nat) (w : Word) (inj : Bool) : EvRec :=
  { status := status, inj := inj, src := settSrc u 0, step := (s.sett u).step.toNat, layer := (s.sett u).layer, cycle := s.cycle,
    addr := 0, detail := leBytes 4 w.toNat }

/-- A sett that is halted already keeps everything. -/
theorem haltSett_halted {s : State} {u : SettId} (h : (s.sett u).st = .halted) (status engine cause ix : Nat) (inj : Bool) :
    s.haltSett u status engine cause ix inj = s := by
  simp [State.haltSett, h]

/-- Any other sett halts, with one record and, for a fault, the endpoints notified. -/
theorem haltSett_shape {s : State} {u : SettId} (h : (s.sett u).st ≠ .halted) (status engine cause ix : Nat) (inj : Bool) :
    ∃ e x w, s.haltSett u status engine cause ix inj =
      { s.modSett u (fun t => t.haltAs status (haltWord status engine cause ix)) with
          recs := s.recs ++ [s.haltRec u status (haltWord status engine cause ix) inj], eps := e, tx := x, txWait := w } := by
  have key : ∀ s2, s2 = { s.modSett u (fun t => t.haltAs status (haltWord status engine cause ix)) with
      recs := s.recs ++ [s.haltRec u status (haltWord status engine cause ix) inj] } →
      ∃ e x w, (if cause = 2 then s2.notifyBoth 3 status (dieOf u * 256 + numOf u) else s2) =
      { s.modSett u (fun t => t.haltAs status (haltWord status engine cause ix)) with
          recs := s.recs ++ [s.haltRec u status (haltWord status engine cause ix) inj], eps := e, tx := x, txWait := w } := by
    rintro s2 rfl
    split
    · obtain ⟨e, x, w, h⟩ := notifyBoth_shape _ _ _ _
      exact ⟨e, x, w, h⟩
    · exact ⟨_, _, _, rfl⟩
  unfold State.haltSett
  rw [if_neg h]
  apply key
  simp only [State.postSett, State.post, State.haltRec, State.modSett_self]
  rfl

end Sys2Proof.Machine
end

