-- ==== Sys2Proof/Laws/Vector.lean ====
section
/-!
SUPPORT. What the completion of a vector command does to its flags and captures.
-/
namespace Sys2Proof.Machine
/-- Two offsets of one VE block below 0x1000 are different keys. -/
theorem ve_key_ne (u : SettId) {o p : Nat} (h : p ≠ o) (ho : o < 0x1000) (hp : p < 0x1000) : (Blk.ve u).key p ≠ (Blk.ve u).key o := by
  unfold Blk.key
  have e1 : o / 0x1000 = 0 := Nat.div_eq_of_lt ho
  have e2 : p / 0x1000 = 0 := Nat.div_eq_of_lt hp
  rw [e1, e2, Nat.mod_eq_of_lt ho, Nat.mod_eq_of_lt hp]
  omega

theorem veFlag_flags (s : State) (u : SettId) (bit c i seq : Nat) (idx : Option Nat) (hc : c ≠ 4) (hi : i ≠ 4) (hc' : c < 0x1000) (hi' : i < 0x1000)
    (hb : bit < 32) :
    (s.veFlag u bit c i seq idx).reg (.ve u) 0x04 = s.reg (.ve u) 0x04 ||| (if idx.isSome then BitVec.ofNat 32 (2 ^ bit) else 0) := by
  cases idx with
  | none => simp [State.veFlag]
  | some j =>
    simp only [State.veFlag, Option.isSome_some, if_true]
    split
    · rename_i h
      apply BitVec.eq_of_getLsbD_eq
      intro k hk
      by_cases hkb : k = bit
      · subst hkb
        simp only [Word.bit] at h
        simp [BitVec.getLsbD_or, h]
      · simp only [BitVec.getLsbD_or, BitVec.getLsbD_ofNat, Nat.testBit_two_pow]; simp [Ne.symm hkb]
    · rw [State.reg_setReg_ne _ _ (ve_key_ne u hi.symm hi' (by omega)), State.reg_setReg_ne _ _ (ve_key_ne u hc.symm hc' (by omega)), State.reg_orReg]

theorem veFlag_other (s : State) (u : SettId) (bit c i seq : Nat) (idx : Option Nat) {o : Nat} (h4 : o ≠ 4) (hc : o ≠ c) (hi : o ≠ i)
    (ho : o < 0x1000) (hc' : c < 0x1000) (hi' : i < 0x1000) : (s.veFlag u bit c i seq idx).reg (.ve u) o = s.reg (.ve u) o := by
  cases idx with
  | none => rfl
  | some j =>
    simp only [State.veFlag]
    split
    · rfl
    · rw [State.reg_setReg_ne _ _ (ve_key_ne u hi hi' ho), State.reg_setReg_ne _ _ (ve_key_ne u hc hc' ho),
        State.reg_orReg_ne _ _ (ve_key_ne u h4 (by omega) ho)]

theorem veFlag_capture (s : State) (u : SettId) (bit c i seq j : Nat) (hci : c ≠ i) (hc' : c < 0x1000) (hi' : i < 0x1000)
    (hb : Word.bit (s.reg (.ve u) 0x04) bit = false) :
    (s.veFlag u bit c i seq (some j)).reg (.ve u) c = BitVec.ofNat 32 seq ∧
    (s.veFlag u bit c i seq (some j)).reg (.ve u) i = BitVec.ofNat 32 j := by
  simp only [State.veFlag, hb]
  refine ⟨?_, ?_⟩
  · simp only [Bool.false_eq_true, if_false]
    rw [State.reg_setReg_ne _ _ (ve_key_ne u hci hi' hc'), State.reg_setReg]
  · simp only [Bool.false_eq_true, if_false, State.reg_setReg]

theorem veFlag_setts (s : State) (u : SettId) (bit c i seq : Nat) (idx : Option Nat) : (s.veFlag u bit c i seq idx).setts = s.setts ∧
    (s.veFlag u bit c i seq idx).hbm = s.hbm := by
  cases idx with
  | none => exact ⟨rfl, rfl⟩
  | some j => simp only [State.veFlag]; split <;> exact ⟨rfl, rfl⟩

/-- What a vector command that is done does: its sett forgets the note, VE_SEQ counts, and nothing outside the sett's VE block changes. -/
theorem veDone_sett (s : State) (u : SettId) (n : Nat) :
    (s.veDone u n).sett u = { s.sett u with veDue := (s.sett u).veDue.filter (fun w => w.issue != n) } ∧
    (∀ v, v ≠ u → (s.veDone u n).sett v = s.sett v) ∧ (s.veDone u n).hbm = s.hbm ∧
    (s.veDone u n).reg (.ve u) 0x10 = s.reg (.ve u) 0x10 + 1 := by
  have aux : ∀ s1 : State, s1.setts = s.setts → s1.hbm = s.hbm →
      let s2 := (s1.modSett u (fun t => { t with veDue := t.veDue.filter (fun w => w.issue != n) })).setReg (.ve u) 0x10 (s.reg (.ve u) 0x10 + 1)
      s2.sett u = { s.sett u with veDue := (s.sett u).veDue.filter (fun w => w.issue != n) } ∧
      (∀ v, v ≠ u → s2.sett v = s.sett v) ∧ s2.hbm = s.hbm ∧ s2.reg (.ve u) 0x10 = s.reg (.ve u) 0x10 + 1 := by
    intro s1 h1 h2
    have h3 : ∀ v, s1.sett v = s.sett v := fun v => by simp only [State.sett, h1]
    refine ⟨?_, fun v hv => ?_, h2, State.reg_setReg _ _ _ _⟩
    · have : (s1.modSett u (fun t => { t with veDue := t.veDue.filter (fun w => w.issue != n) })).sett u = _ := State.modSett_self s1 u _
      rw [h3] at this; exact this
    · have := State.modSett_other s1 u v (fun t => { t with veDue := t.veDue.filter (fun w => w.issue != n) }) hv
      rw [h3] at this; exact this
  unfold State.veDone
  split
  · refine aux _ ?_ ?_
    · exact ((veFlag_setts _ _ _ _ _ _ _).1).trans ((veFlag_setts _ _ _ _ _ _ _).1)
    · exact ((veFlag_setts _ _ _ _ _ _ _).2).trans ((veFlag_setts _ _ _ _ _ _ _).2)
  · exact aux s rfl rfl

/-- The flags and captures a vector command that is done leaves (10 R258). -/
theorem veDone_flags (s : State) (u : SettId) (n : Nat) (w : VeNote) (h : (s.sett u).veDue.find? (fun w => w.issue == n) = some w) :
    let s' := s.veDone u n
    let flags := s.reg (.ve u) 0x04
    s'.reg (.ve u) 0x04 = flags ||| (if w.nan.isSome then 1 else 0) ||| (if w.sat.isSome then 2 else 0) ||| BitVec.ofNat 32 w.bits ∧
    (∀ i : Nat, w.nan = some i → Word.bit flags 0 = false →
      s'.reg (.ve u) 0x14 = s.reg (.ve u) 0x10 ∧ s'.reg (.ve u) 0x18 = BitVec.ofNat 32 i) ∧
    (∀ i : Nat, w.sat = some i → Word.bit flags 1 = false →
      s'.reg (.ve u) 0x1C = s.reg (.ve u) 0x10 ∧ s'.reg (.ve u) 0x20 = BitVec.ofNat 32 i) := by
  intro s' flags
  let q := (s.reg (.ve u) 0x10).toNat
  let a := s.veFlag u 0 0x14 0x18 q w.nan
  let b := a.veFlag u 1 0x1C 0x20 q w.sat
  have hr : ∀ o, o ≠ 0x10 → o ≠ 4 → o < 0x1000 → s'.reg (.ve u) o = b.reg (.ve u) o := by
    intro o h1 h2 h3
    simp only [s', State.veDone, h]
    rw [State.reg_setReg_ne _ _ (ve_key_ne u h1 (by omega) h3)]
    exact State.reg_orReg_ne _ _ (ve_key_ne u h2 (by omega) h3)
  have h4 : s'.reg (.ve u) 4 = b.reg (.ve u) 4 ||| BitVec.ofNat 32 w.bits := by
    simp only [s', State.veDone, h]
    rw [State.reg_setReg_ne _ _ (ve_key_ne u (by omega) (by omega) (by omega))]
    exact State.reg_orReg _ _ _ _
  have ha : a.reg (.ve u) 4 = flags ||| (if w.nan.isSome then 1 else 0) := veFlag_flags _ _ _ _ _ _ _ (by omega) (by omega) (by omega) (by omega) (by omega)
  have hb : b.reg (.ve u) 4 = a.reg (.ve u) 4 ||| (if w.sat.isSome then 2 else 0) := veFlag_flags _ _ _ _ _ _ _ (by omega) (by omega) (by omega) (by omega) (by omega)
  have hq : BitVec.ofNat 32 q = s.reg (.ve u) 0x10 := by simp [q]
  refine ⟨by rw [h4, hb, ha], fun i hi hf => ?_, fun i hi hf => ?_⟩
  · have hc := veFlag_capture s u 0 0x14 0x18 q i (by omega) (by omega) (by omega) hf
    rw [hr _ (by omega) (by omega) (by omega), hr _ (by omega) (by omega) (by omega)]
    have k1 : b.reg (.ve u) 0x14 = a.reg (.ve u) 0x14 :=
      veFlag_other _ _ _ _ _ _ _ (by omega) (by omega) (by omega) (by omega) (by omega) (by omega)
    have k2 : b.reg (.ve u) 0x18 = a.reg (.ve u) 0x18 :=
      veFlag_other _ _ _ _ _ _ _ (by omega) (by omega) (by omega) (by omega) (by omega) (by omega)
    rw [k1, k2]
    simp only [a, hi]
    exact ⟨hc.1.trans hq, hc.2⟩
  · have hf' : Word.bit (a.reg (.ve u) 4) 1 = false := by
      rw [ha]; simp only [Word.bit] at hf ⊢
      rw [BitVec.getLsbD_or, hf]; split <;> rfl
    have hc := veFlag_capture a u 1 0x1C 0x20 q i (by omega) (by omega) (by omega) hf'
    rw [hr _ (by omega) (by omega) (by omega), hr _ (by omega) (by omega) (by omega)]
    simp only [b, hi]
    exact ⟨hc.1.trans hq, hc.2⟩
end Sys2Proof.Machine
end

