-- ==== Sys2Proof/Tests/Slice0.lean ====
section
/-!
SUPPORT. Tests of the model: words written out from the spec's encodings, ill-formed terms refused, one-step runs on small states with
results worked out from the spec's tables, and for each statement with hypotheses a state and operands that meet them (`wit_`).
-/
namespace Sys2Proof.Tests
set_option Elab.async false
open Sys2Proof Sys2Proof.Machine

/-! ## Words (05 Tables 05-2 to 05-7, 05-10) -/

/-- 05 Table 05-10, word 0: LI CT4, 0x0800_0000. -/
theorem test_decode_li : decodeWord 0 0x0080040008000000 = some (.li 0 4 0x08000000) := by decide +kernel

/-- The MMA and the CVT of the worked example. -/
theorem test_decode_mma_cvt :
    decodeWord 0 0x1000010004010C40 = some (.mma 0 ⟨false, 0, false, 0⟩ 0x400 0x401 3 false false 4) ∧
    decodeWord 0 0x1042710080000C00 = some (.cvt 0 ⟨false, 0, true, 7⟩ 0x402 0 false 3) := by decide +kernel

/-- A WAITS of SIG7 by 1, and the same word with the reserved amount 0. -/
theorem test_decode_waits :
    decodeWord 0 0x0280038000000001 = some (.waits 0 7 false false 0 1) ∧ decodeWord 0 0x0280038000000000 = none := by decide +kernel

/-- A reserved bit, and an OP that engine 0 does not define. -/
theorem test_decode_refuses : decodeWord 0 0x0000000000000001 = none ∧ decodeWord 0 0x0400000000000000 = none := by decide +kernel

/-- ENG 11 is not decoded further: every bit is kept. -/
theorem test_decode_absent : decodeWord 3 0xB000000000000005 = some (.engineAbsent 3 11 0 ⟨false, 0, false, 0⟩ 5) := by decide +kernel

/-! ## Ill-formed terms, each refused by `wf` (05 R133, Tables 05-2 to 05-7) -/

/-- FN 11, bits 7:4 of a comparator image, a zero WAITS amount, an event code above 15, CVT MODE 3, a TSIG of 0, a TSIG to a group that
names a sett as well, an engine below 10. -/
theorem test_wf_refuses :
    (Instr.alu 0 1 2 3 11).wf = false ∧ (Instr.alui 0 1 2 3 11).wf = false ∧ (Instr.setcmp 0 0 0x10).wf = false ∧
    (Instr.waits 0 7 false false 0 0).wf = false ∧ (Instr.evlog 0 16 false 0).wf = false ∧
    (Instr.cvt 0 ⟨false, 0, false, 0⟩ 0 3 false 0).wf = false ∧ (Instr.tsig 0 ⟨false, 0, false, 0⟩ false 0 0 0 0).wf = false ∧
    (Instr.tsig 0 ⟨false, 0, false, 0⟩ false 1 1 0 1).wf = false ∧ (Instr.engineAbsent 0 9 0 ⟨false, 0, false, 0⟩ 0).wf = false := by decide

/-- The same commands with a value beside the reserved one. -/
theorem test_wf_admits :
    (Instr.alu 0 1 2 3 10).wf = true ∧ (Instr.alui 0 1 2 3 10).wf = true ∧ (Instr.setcmp 0 0 0xFFFFFF0F).wf = true ∧
    (Instr.waits 0 7 false false 0 1).wf = true ∧ (Instr.evlog 0 15 false 0).wf = true ∧
    (Instr.cvt 0 ⟨false, 0, false, 0⟩ 0 2 false 0).wf = true ∧ (Instr.tsig 0 ⟨false, 0, false, 0⟩ false 0 1 0 1).wf = true ∧
    (Instr.engineAbsent 0 10 0 ⟨false, 0, false, 0⟩ 0).wf = true := by decide

/-! ## Small states -/

/-- Reset, with sett 0 running in an instruction region of 16 pages at the start of its store. -/
def runs : State := (State.reset.setReg (.sq 0) 0x10 0x10).modSett 0 (fun t => { t with st := .run })

/-- The same, sett 0 altered. -/
def runsWith (f : SettSt → SettSt) : State := runs.modSett 0 f

/-- The next state, or reset where the command gives none. -/
def next (i : Instr) (s : State) : State := match exec i s with
  | .next t => t
  | _ => State.reset

/-- Sett 0 after a command. -/
def sett0 (i : Instr) (s : State) : SettSt := (next i s).sett 0

/-- An unpredicated header without a signal. -/
def plain : Hdr := ⟨false, 0, false, 0⟩

/-- A loop over words 1 to 4, in its first iteration, that CT3 counts. -/
def lv : LoopLv := ⟨2, 1, 1, 4, false, 3⟩

/-! ## The sequencer -/

/-- CounterInstructionsTakeEffect, ReservedFieldsHaltTheSett, LoopBodyRunsTheLatchedCount: a state in which sett 0 can issue, the last
function code and an image that fills every bit but the reserved. -/
theorem wit_CounterInstructionsTakeEffect :
    runs.canIssue 0 = true ∧ (10#4).toNat ≤ 10 ∧ 0xFFFFFF0F#32 &&& 0xF0#32 = 0#32 := by decide +kernel

theorem wit_ReservedFieldsHaltTheSett :
    runs.canIssue 0 = true ∧ (Instr.alu 0 0 0 0 11).sett? = some 0 ∧ (Instr.alu 0 0 0 0 11).wf = false ∧
    decodeWord 0 0x0400000000000000 = none := by decide +kernel

/-- 05 Table 05-3: MUL and SUB wrap, SRA keeps the sign, shifts take the low five bits of b, MIN and MAX are unsigned. -/
theorem test_alu :
    aluFn 2 0x10001 0x10000 = 0x10000 ∧ aluFn 1 0 1 = 0xFFFFFFFF ∧ aluFn 8 0x80000000 33 = 0xC0000000 ∧ aluFn 6 1 32 = 1 ∧
    aluFn 9 0xFFFFFFFF 1 = 1 ∧ aluFn 10 0xFFFFFFFF 1 = 0xFFFFFFFF := by decide

/-- ALUI sign-extends IMM. -/
theorem test_alui : (sett0 (.alui 0 2 1 0xFFFF 0) runs).ct[2] = 0xFFFFFFFF ∧ (sett0 (.alui 0 2 1 0xFFFF 0) runs).pc = 1 := by
  decide +kernel

theorem test_setcmp_setstep :
    (sett0 (.setcmp 0 7 0xFFFFFF0F) runs).cmp[7] = 0xFFFFFF0F ∧
    (sett0 (.setstep 0 2) (runsWith (fun t => { t with ct := t.ct.set 2 9 }))).step = 9 := by decide +kernel

/-- A reserved function halts with PLAN_MISMATCH, cause 2, engine 0; an undefined OP of engine 1 names engine 1. -/
theorem test_reserved_halts :
    (sett0 (.alu 0 0 0 0 11) runs).haltInfo.toNat = 0x11 * 2 ^ 24 + 2 * 2 ^ 16 ∧
    (sett0 (.invalidWordDecode 0 0x1FC0000000000000) runs).haltInfo.toNat = 0x11 * 2 ^ 24 + 2 ^ 20 + 2 * 2 ^ 16 := by decide +kernel

/-- LoopsAdvanceAndBindCounters: the last pass, another pass, a body not at its end, a bound counter with a shadow pending. -/
theorem wit_LoopsAdvanceAndBindCounters :
    let t := { SettSt.reset with loops := [lv], pc := 4, shpend := 8#16 }
    (t.loops = [lv] ∧ lv.last = t.pc ∧ 0 < lv.remain) ∧
    ({ lv with remain := 0 }.last = t.pc) ∧ lv.last ≠ 3 ∧
    t.loops.any (fun l => !l.imm && l.src == 3) = true ∧ t.loops.any (fun l => !l.imm && l.src == 2) = false ∧
    lv.imm = false ∧ t.shpend.getLsbD lv.src.toNat = true := by decide

/-- A write to a bound counter goes to the shadow, which the exit of the loop copies. -/
theorem test_shadow :
    let t := { SettSt.reset with loops := [{ lv with remain := 0 }], pc := 4 }.putCt 3 9
    t.ct[3] = 0 ∧ t.ctsh[3] = 9 ∧ t.shpend = 8 ∧ t.sticky = 0x0800 ∧ t.advance.ct[3] = 9 ∧ t.advance.shpend = 0 ∧
    t.advance.loops = [] ∧ t.advance.pc = 5 := by decide

/-- LdctAndStctReachTheStore: the last word of the store, a misaligned address, the first address beyond the store, the first and the
last word of the instruction region and the word after it. -/
theorem wit_LdctAndStctReachTheStore :
    let t := runs.sett 0
    let lo := runs.codeAddr 0 0
    runs.canIssue 0 = true ∧
    (t.ctAddr 0 true 0xBFFFF % 4 = 0 ∧ t.ctAddr 0 true 0xBFFFF < storeSize) ∧
    { t with ct := t.ct.set 1 2 }.ctAddr 1 false 0 % 4 ≠ 0 ∧
    (let c := { t with ct := t.ct.set 1 0x2FFFFC }
     c.ctAddr 1 false 1 % 4 = 0 ∧ storeSize ≤ c.ctAddr 1 false 4) ∧
    (lo ≤ t.ctAddr 0 true 0 ∧ t.ctAddr 0 true 0x3FFF < lo + 8 * runs.regionWords 0 ∧ lo + 8 * runs.regionWords 0 ≤ t.ctAddr 0 true 0x4000) := by
  decide +kernel

/-- STCT then LDCT of one word, four bytes in little-endian order; STCT into the instruction region is BOUNDS. -/
theorem test_stct_ldct :
    let s := runsWith (fun t => { t with ct := t.ct.set 1 0x11223344 })
    (sett0 (.stct 0 1 0 true 0x4000) s).store.read 0x10000 = 0x44 ∧
    (sett0 (.ldct 0 2 0 true 0x4000) (next (.stct 0 1 0 true 0x4000) s)).ct[2] = 0x11223344 ∧
    (sett0 (.stct 0 1 0 true 0x3FFF) s).lastFault = 0x14 := by decide +kernel


/-- BranchAndLoopTakeEffect: branches taken and not, a bad END (the LOOP's own index, the END of an enclosing level, a BR as last
word), four levels, counts 0 and above 0. -/
theorem wit_BranchAndLoopTakeEffect :
    let t := runs.sett 0
    let d := SettSt.reset.putStore 8 (leBytes 8 0x0200000000000000)
    let s := runsWith (fun t => t.putStore 8 (leBytes 8 0x0200000000000000))
    runs.canIssue 0 = true ∧ (true || t.cmpHolds 0) = true ∧ (false || { t with cmp := t.cmp.set 0 0x10000001 }.cmpHolds 0) = false ∧
    (0#15).toNat ≤ t.pc ∧ lv.last ≤ (4#15).toNat ∧
    (d.store.num 8 8 ≠ 0 ∧ (s.opAt 0 1).1 = 0 ∧ (s.opAt 0 1).2 ∈ [0x01, 0x08, 0x09, 0x0C, 0x0D]) ∧
    ¬ ((runs.opAt 0 3).1 = 0 ∧ (runs.opAt 0 3).2 ∈ [0x01, 0x08, 0x09, 0x0C, 0x0D]) ∧ t.pc < (3#15).toNat ∧ (3#15).toNat < lv.last ∧
    4 ≤ [lv, lv, lv, lv].length ∧ [lv, lv, lv].length < 4 ∧ t.getCt 0 = 0 := by decide +kernel

/-- 04 Table 04-1: a taken branch costs 3 cycles and leaves the loop it jumps out of; one not taken costs 1. -/
theorem test_br :
    let s := runsWith (fun t => { t with loops := [lv], pc := 2, cmp := t.cmp.set 0 0x10000001 })
    (sett0 (.br 0 1 true 9) s).pc = 9 ∧ (sett0 (.br 0 1 true 9) s).cyc = 3 ∧ (sett0 (.br 0 1 true 9) s).loops = [] ∧
    (sett0 (.br 0 1 true 3) s).loops = [lv] ∧ (sett0 (.br 0 0 false 9) s).pc = 3 ∧ (sett0 (.br 0 0 false 9) s).cyc = 1 := by decide +kernel

/-- LOOP by a counter latches it; LOOP of 0 goes behind END in 3 cycles; a fifth level is BOUNDS. -/
theorem test_loop :
    let s := runsWith (fun t => { t with ct := t.ct.set 3 7 })
    (sett0 (.loop 0 false 3 5 0) s).loops = [⟨7, 6, 1, 5, false, 3⟩] ∧ (sett0 (.loop 0 true 0 5 0) s).pc = 6 ∧
    (sett0 (.loop 0 true 0 5 0) s).cyc = 3 ∧
    (sett0 (.loop 0 true 0 3 1) (runsWith (fun t => { t with loops := [lv, lv, lv, lv] }))).lastFault = 0x14 := by decide +kernel

theorem wit_LoopBodyRunsTheLatchedCount :
    runs.canIssue 0 = true ∧ (runs.sett 0).pc < (3#15).toNat ∧ (∀ l ∈ (runs.sett 0).loops, (3#15).toNat < l.last) ∧
    (runs.sett 0).loops.length < 4 ∧ ¬ ((runs.opAt 0 3).1 = 0 ∧ (runs.opAt 0 3).2 ∈ [0x01, 0x08, 0x09, 0x0C, 0x0D]) ∧
    (BitVec.setWidth 32 65535#16 : Word) ≠ 0 := by decide +kernel

/-- WaitsTakeOrHold: an amount above, at and below the limit and the counter; a sett held in a WAITS that is satisfied and one that is
not. -/
theorem wit_WaitsTakeOrHold :
    let s := runsWith (fun t => { t with ct := t.ct.set 1 65536, sig := t.sig.set 7 65535 })
    let t := s.sett 0
    let h := runsWith (fun t => { t with st := .wait, hold := .waits 7 3 false, sig := t.sig.set 7 3 })
    s.canIssue 0 = true ∧ 65535 < (t.getCt 1).toNat ∧ (65535#16 ≠ 0 ∧ (65535#16).toNat ≤ t.sig[7].toNat) ∧
    (t.getCt 0).toNat ≤ 65535 ∧ t.sig[6].toNat < (1#16).toNat ∧
    ((h.sett 0).st = .wait ∧ (h.sett 0).freeze = none ∧ (h.sett 0).hold = .waits 7 3 false ∧ 3 ≤ (h.sett 0).sig[7].toNat) ∧
    ({ h.sett 0 with sig := SettSt.reset.sig }).sig[7].toNat < 3 := by decide +kernel

/-- A satisfied WAITS subtracts, with PEEK it does not; an unsatisfied one waits, and goes on when the counter reaches the amount. -/
theorem test_waits :
    let s := runsWith (fun t => { t with sig := t.sig.set 7 3 })
    (sett0 (.waits 0 7 false false 0 2) s).sig[7] = 1 ∧ (sett0 (.waits 0 7 true false 0 2) s).sig[7] = 3 ∧
    (sett0 (.waits 0 7 false false 0 4) s).st = .wait ∧
    (sett0 (.waitsSatisfied 0) (runsWith (fun t => { t with st := .wait, hold := .waits 7 3 false, sig := t.sig.set 7 3 }))).st = .run := by
  decide +kernel

/-- SignalCountersCountAndLast: a frozen sett and one that is not, a reset that is due. -/
theorem wit_SignalCountersCountAndLast :
    (runs.sett 0).freeze = none ∧ ((runsWith (fun t => { t with freeze := some ⟨.flit, 9, 0, 0, false, false, none⟩ })).sett 0).freeze.isSome = true ∧ (0xFFFF#16 ≠ 0) ∧
    { State.reset with pw := { State.reset.pw with swDue := true } }.pw.swDue = true ∧
    { State.reset with pw := { State.reset.pw with lost := true } }.pw.lost = true ∧
    (let s := { runs with pkts := [⟨1, 0, 4, 2, 7⟩] }
     s.pkts.find? (fun p => p.dst == 0 && p.sg == 4 && p.inc == 2 && s.trFirst p.src 0 p.ord) = some ⟨1, 0, 4, 2, 7⟩ ∧
     s.pkts.find? (fun p => p.dst == 0 && p.sg == 4 && p.inc == 1 && s.trFirst p.src 0 p.ord) = none) := by decide +kernel

/-- A packet's increment saturates and sets SIG_SAT; during a freeze it waits; none on its way, none counted. -/
theorem test_signal_packet :
    let pk : List Pkt := [⟨1, 0, 4, 2, 7⟩]
    let s := { runsWith (fun t => { t with sig := t.sig.set 4 0xFFFFFFFE }) with pkts := pk }
    let f := { runsWith (fun t => { t with freeze := some ⟨.flit, 9, 0, 0, false, false, none⟩ }) with pkts := pk }
    (sett0 (.trestleSignalPacket 0 4 2) s).sig[4] = 0xFFFFFFFF ∧ (sett0 (.trestleSignalPacket 0 4 2) s).sticky = 0x2000 ∧
    (sett0 (.trestleSignalPacket 0 4 2) runs).sig[4] = 0 ∧
    (sett0 (.trestleSignalPacket 0 4 2) f).sig[4] = 0 ∧ (sett0 (.trestleSignalPacket 0 4 2) f).lateSig = [(4, 2, some 1)] := by decide +kernel

/-- A region entry at 0x10000 of sett 0's store: rungs at words 20, 30 and 40, CONT 50, NRUNG 3, CUR 0 or 2, no signal mask. -/
def rgn (cur : Nat) : State :=
  (runs.setReg (.sq 0) 0x14 0x10).modSett 0 (fun t => t.putStore 0x10000
    (leBytes 2 20 ++ leBytes 2 30 ++ leBytes 2 40 ++ leBytes 2 0 ++ leBytes 2 50 ++ leBytes 1 (12 + cur) ++ leBytes 1 0 ++ leBytes 4 0))

/-- The same, drained in region 0. -/
def drained (cur : Nat) (latch : BitVec 5) : State :=
  (rgn cur).modSett 0 (fun t =>
    { t with st := .wait, hold := .rend, region := some 0, latch := latch,
             snap := some ⟨t.ct.toList, t.ctsh.toList, 0, t.cmp.toList, [], 0, t.sig.toList, 0, 3⟩ })

/-- ReplayRegionsEnterAndLeave: an entry that leaves the store, one with no rungs and one that can be entered; REND of the open region and
of another; a drain without an overflow, with one on a lower rung and with one on the top rung. -/
theorem wit_ReplayRegionsEnterAndLeave :
    let b (s : State) : Nat := ((s.sett 0).store.read 0x1000A).toNat
    let far := runs.setReg (.sq 0) 0x14 0x300
    far.canIssue 0 = true ∧ 0x300000 < far.fld (.sq 0) 0x14 9 0 * 4096 + 16 * (0#10).toNat + 16 ∧
    (((runs.sett 0).store.read 10).toNat / 4 % 8 = 0) ∧
    ((rgn 0).canIssue 0 = true ∧ b (rgn 0) / 4 % 8 = 3 ∧ b (rgn 0) % 4 < 3 ∧ ((rgn 0).sett 0).region = none) ∧
    ((drained 0 0).sett 0).region = some 0 ∧ ((drained 0 0).sett 0).engBusy = false ∧ ((drained 0 0).sett 0).stepReq = false ∧
    ((drained 0 0).sett 0).snap.isSome = true ∧ (b (drained 2 1) / 4 % 8 ≤ b (drained 2 1) % 4 + 1) ∧
    b (drained 0 1) % 4 + 1 < b (drained 0 1) / 4 % 8 := by decide +kernel

/-- REGN goes on at the rung CUR, a clean drain at CONT, an overflow at the next rung, and on the top rung it halts. -/
theorem test_region :
    (sett0 (.regn 0 0) (rgn 2)).pc = 40 ∧ (sett0 (.regn 0 0) (rgn 2)).cyc = 7 ∧ (sett0 (.rendDrainEnd 0) (drained 0 0)).pc = 50 ∧
    (sett0 (.rendDrainEnd 0) (drained 0 1)).pc = 30 ∧ ((sett0 (.rendDrainEnd 0) (drained 0 1)).store.read 0x1000A).toNat = 13 ∧
    (sett0 (.rendDrainEnd 0) (drained 2 1)).lastFault = 0x30 := by decide +kernel

/-- A command that sits in the queue of an engine of sett 0. -/
def cmdOf (i : Instr) : QCmd := ⟨i, plain, 0, 0, 0, List.replicate 16 0, [], [], 0⟩

/-- Sett 0 with queued and with started commands of an engine. -/
def engWith (e : BitVec 4) (q : List QCmd) (r : List RCmd) : State :=
  runsWith (fun t => t.modEng e (fun g => { g with queue := q, run := r }))

/-- HaltsDrainOrRecord: a busy and an idle engine at HALT, the drain of each, a halt of a running and of a halted sett. -/
theorem wit_HaltsDrainOrRecord :
    let busy := engWith 1 [cmdOf (.rdrop 0 plain)] []
    busy.canIssue 0 = true ∧ (busy.sett 0).engBusy = true ∧ (runs.sett 0).engBusy = false ∧
    (let s := runsWith (fun t => { t with st := .wait, hold := .halt })
     (s.sett 0).st = .wait ∧ (s.sett 0).hold = .halt ∧ (s.sett 0).freeze = none ∧ (s.sett 0).engBusy = false) ∧
    (runs.sett 0).st ≠ .halted ∧ (sett0 (.abort 0) runs).st = .halted := by decide +kernel

/-- HALT enters DONE with cause 1; an ABORT records status 0x60 and cause 3 and drops what is queued. -/
theorem test_halt_abort :
    (sett0 (.halt 0) runs).st = .done ∧ (sett0 (.halt 0) runs).haltInfo = 0x10000 ∧
    (sett0 (.abort 0) (engWith 1 [cmdOf (.rdrop 0 plain)] [])).haltInfo = 0x60030000 ∧
    ((sett0 (.abort 0) (engWith 1 [cmdOf (.rdrop 0 plain)] [])).engine 1).queue = [] := by decide +kernel

/-- TagsBreaksAndRecords: tags that match and do not, breaks that are due and not, a record buffer with room and a full one. -/
theorem wit_TagsBreaksAndRecords :
    let s := (runs.setReg (.sq 0) 0x08 2).setReg (.sq 0) 0x28 0xFFFF0005
    let c := (runs.setReg (.sq 0) 0x08 1)
    let full : State := { runs with recs := List.replicate 8 ⟨0, false, settSrc 0 0, 0, 0, 0, 0, []⟩ }
    s.canIssue 0 = true ∧ Word.bit (s.reg (.sq 0) 0x08) 1 = true ∧
    ((5#16 ^^^ (s.reg (.sq 0) 0x28).extractLsb' 0 16) &&& (s.reg (.sq 0) 0x28).extractLsb' 16 16 = 0) ∧
    ((4#16 ^^^ (s.reg (.sq 0) 0x28).extractLsb' 0 16) &&& (s.reg (.sq 0) 0x28).extractLsb' 16 16 ≠ 0) ∧
    ((c.sett 0).issuing = true ∧ c.countDue 0 = true) ∧ ((runs.sett 0).issuing = true ∧ runs.countDue 0 = false) ∧
    (15#8).toNat < 16 ∧ runs.recCount 0 < 8 ∧ (full.canIssue 0 = true ∧ 8 ≤ full.recCount 0) := by decide +kernel

/-- Cause 6 for a tag break, 5 for a count break; EVLOG posts its code. -/
theorem test_breaks :
    let s := (runs.setReg (.sq 0) 0x08 2).setReg (.sq 0) 0x28 0xFFFF0005
    (sett0 (.tag 0 5) s).st = .brk ∧ (sett0 (.tag 0 5) s).haltInfo.extractLsb' 16 4 = 6 ∧ (sett0 (.tag 0 4) s).st = .run ∧
    (sett0 (.countBreak 0) (runs.setReg (.sq 0) 0x08 1)).haltInfo.extractLsb' 16 4 = 5 ∧
    (next (.evlog 0 9 true 7) runs).recs.map (fun r => (r.status, r.layer)) = [(9, 7)] := by decide +kernel

/-- ControlWritesActInTheirStates: one sett for each premise. -/
theorem wit_ControlWritesActInTheirStates :
    let s (x : SqSt) (h : Hold) : State := runsWith (fun t => { t with st := x, hold := h })
    ((s .idle .none).sett 0).freeze = none ∧ (((s .done .none).sett 0).st = .done ∧ ((s .done .none).sett 0).engBusy = false) ∧
    ((s .run .none).sett 0).st = .run ∧ (s .wait .halt).countDue 0 = false ∧
    (((s .brk .none).sett 0).st = .brk ∧ ((s .brk .none).sett 0).hold = .none) ∧ ((s .brk .halt).sett 0).hold ≠ .none ∧
    ((s .halted .none).sett 0).st ≠ .brk := by decide +kernel

/-- GO of an idle sett runs it, of a running one sets GO_REFUSED; BREAK stops it with cause 7; RESUME and STEP go on. -/
theorem test_control :
    let brk := runsWith (fun t => { t with st := .brk })
    (sett0 (.go 0) State.reset).st = .run ∧ (sett0 (.go 0) runs).sticky = 0x4000 ∧ (sett0 (.break 0) runs).st = .brk ∧
    (sett0 (.break 0) runs).haltInfo.extractLsb' 16 4 = 7 ∧ (sett0 (.resume 0) brk).st = .run ∧ (sett0 (.step 0) brk).stepReq = true := by
  decide +kernel

/-- WatchdogHaltsAndStallsCount: a limit with a sett that waits, a full and a free queue. -/
theorem wit_WatchdogHaltsAndStallsCount :
    let w := (runs.setReg (.sq 0) 0x2C 1).modSett 0 (fun t => { t with st := .wait, hold := .rend })
    let full := engWith 1 (List.replicate 16 (cmdOf (.rdrop 0 plain))) []
    (w.fld (.sq 0) 0x2C 15 0 ≠ 0 ∧ (w.sett 0).st = .wait ∧ (w.sett 0).freeze = none) ∧ runs.fld (.sq 0) 0x2C 15 0 = 0 ∧
    ((full.sett 0).issuing = true ∧ 16 ≤ ((full.sett 0).engine 1).queue.length) ∧
    (((runs.sett 0).engine 3).queue.length < 16 ∧ ((runs.sett 0).engine 3).run = []) := by decide +kernel

/-- The watchdog's cause is 4 and its status ABORTED; a stall of 5 cycles is counted. -/
theorem test_watchdog_stall :
    let w := (runs.setReg (.sq 0) 0x2C 1).modSett 0 (fun t => { t with st := .wait, hold := .rend })
    let full := engWith 1 (List.replicate 16 (cmdOf (.rdrop 0 plain))) []
    (sett0 (.watchdogExpiry 0) w).haltInfo = 0x60040000 ∧ (sett0 (.queueFullStall 0 1 5) full).stallCnt = 5 ∧
    (sett0 (.queueFullStall 0 1 5) runs).stallCnt = 0 := by decide +kernel

/-- AbsentEnginesComplete: each predicate and each ABSENT_HALT. -/
theorem wit_AbsentEnginesComplete :
    let s := (runs.setReg (.sq 0) 0x08 4).modSett 0 (fun t => { t with cmp := t.cmp.set 0 0x10000001 })
    s.canIssue 0 = true ∧ 10 ≤ (10#4).toNat ∧ (s.sett 0).cmpHolds 0 = false ∧ (s.sett 0).cmpHolds 1 = true ∧
    Word.bit (s.reg (.sq 0) 0x08) 2 = true ∧ Word.bit (runs.reg (.sq 0) 0x08) 2 = false := by decide +kernel

theorem test_absent :
    (sett0 (.engineAbsent 0 11 0 ⟨false, 0, true, 6⟩ 0) runs).sig[6] = 1 ∧ (sett0 (.engineAbsent 0 11 0 plain 0) runs).absentCnt = 1 ∧
    (sett0 (.engineAbsent 0 11 0 plain 0) (runs.setReg (.sq 0) 0x08 4)).haltInfo = 0x12B20000 ∧
    (next (.engineAbsent 0 11 0 plain 0) (runs.setReg (.sq 0) 0x08 4)).recs.length = 2 := by decide +kernel

/-- HeldSettsIgnoreInstructions, FetchBeyondTheRegionHalts and LocalInstructionsStayInTheirSett. -/
theorem wit_HeldSettsFetchLocal :
    ((State.reset.sett 0).issuing = false ∧ (Instr.nop 0).sett? = some 0) ∧ (runs.setReg (.sq 0) 0x08 1).countDue 0 = true ∧
    (let s := runsWith (fun t => { t with pc := 8192 })
     (s.sett 0).issuing = true ∧ s.countDue 0 = false ∧ s.regionWords 0 ≤ (s.sett 0).pc ∧ s.recCount 0 < 8) ∧
    ((Instr.nop 0).local? = some 0 ∧ runs.mayMismatch 0 = false ∧ exec (.nop 0) runs = .next (next (.nop 0) runs)) := by
  refine ⟨by decide +kernel, by decide +kernel, by decide +kernel, by decide +kernel, by decide +kernel, rfl⟩

theorem test_fetch_bounds : (sett0 (.nop 0) (runsWith (fun t => { t with pc := 8192 }))).haltInfo.toNat = 0x14 * 2 ^ 24 + 2 * 2 ^ 16 + 8192 := by
  decide +kernel

/-- EngineCommandEntersItsQueue: a false predicate, a full queue, a command behind another, an idle engine. -/
theorem wit_EngineCommandEntersItsQueue :
    let i : Instr := .vadd 0 plain false 1 2 3 false
    let f := runsWith (fun t => { t with cmp := t.cmp.set 0 0x10000001 })
    let full := engWith 2 (List.replicate 16 (cmdOf i)) []
    let one := engWith 2 [cmdOf i] []
    i.engine? = some (0, 2, plain, [1, 2, 3]) ∧ i.wf = true ∧ f.canIssue 0 = true ∧ (f.sett 0).cmpHolds 0 = false ∧
    (full.canIssue 0 = true ∧ 16 ≤ ((full.sett 0).engine 2).queue.length) ∧
    (runs.gateOpen i = true ∧ ((one.sett 0).engine 2).queue ≠ [] ∧ ((one.sett 0).engine 2).queue.length < 16) ∧
    (((runs.sett 0).engine 2).queue = [] ∧ ((runs.modSett 0 (fun t => t.issued.modEng 2 (fun g =>
      { g with queue := g.queue ++ [runs.captured 0 plain [1, 2, 3] i] }))).sett 0).engFree 2 (isCvt i) = true) := by decide +kernel


/-! ## Engines -/

/-- A tile descriptor in the store (06 Tables 06-5, 06-6): format, base, block-scale pointer, BDIM, dimensions as bound and stride; coarse
scale 1.0. -/
def descBytes (fmt base bs bdim : Nat) (ds : List (Nat × Nat)) : List Byte :=
  leBytes 6 base ++ leBytes 1 (ds.length * 16 + fmt) ++ leBytes 1 bdim ++ leBytes 5 bs ++ leBytes 1 0 ++ leBytes 4 0x3F800000 ++ leBytes 1 0 ++
  ds.flatMap (fun d => leBytes 9 ((d.1 - 1) * 2 ^ 32 + d.2)) ++ List.replicate (45 - 9 * ds.length) 0

/-- FP32 1.0, 2.0, 3.0. -/
def one : Nat := 0x3F800000
def two : Nat := 0x40000000
def three : Nat := 0x40400000

/-- Sett 0 with FP32 vectors of two elements named 0x1000 (zeros), 0x1001 (1.0, 2.0) and 0x1002 (2.0, 2.0), an FP32 scalar 0x1003, and LN8
operands 0x1004 (one row of 32 ones) and 0x1005 (one column of 32 ones). -/
def vecs : State := runsWith (fun t =>
  let put (t : SettSt) (p : Nat × List Byte) : SettSt := t.putStore p.1 p.2
  [(0x40000, descBytes 6 0x20000 0 0 [(2, 1)]), (0x40040, descBytes 6 0x20100 0 0 [(2, 1)]), (0x40080, descBytes 6 0x20200 0 0 [(2, 1)]),
   (0x400C0, descBytes 6 0x20300 0 0 [(1, 1)]), (0x40100, descBytes 1 0x21000 0x212 0 [(32, 1), (1, 32)]),
   (0x40140, descBytes 1 0x21100 0x213 1 [(1, 32), (32, 1)]), (0x20100, leBytes 4 one ++ leBytes 4 two),
   (0x20200, leBytes 4 two ++ leBytes 4 two), (0x21000, List.replicate 32 64), (0x21100, List.replicate 32 64)].foldl put t)

/-- A command as its queue holds it after issue in that state, with a block count in CT4. -/
def issuedAs (i : Instr) (ds : List (BitVec 14)) : QCmd :=
  vecs.captured 0 plain ds i |> fun q => { q with ct := q.ct.set 4 (BitVec.ofNat 32 (2 ^ 20)) }

/-- The state, status and flag words a start gives. -/
def startState : Start → State
  | .go s _ _ _ _ _ => s
  | _ => State.reset

def startStatus : Start → Nat
  | .go _ c _ _ _ _ => c
  | _ => 999

/-- CommandsStartAndComplete: a head that starts and one whose check fails, an empty queue, a started command of a status below and above
0x10. -/
theorem wit_CommandsStartAndComplete :
    let go := engWith 1 [cmdOf (.rdrop 0 plain)] []
    let bad := (engWith 1 [cmdOf (.mma 0 plain 1 2 0 false false 4)] [])
    let q := { cmdOf (.mma 0 plain 1 2 0 false false 4) with ct := (List.replicate 16 0).set 4 (0x100000 : Word), ext := [[1, 1, 1, 1, 1], [1, 1, 1, 1, 1]] }
    let bad := { bad with setts := bad.setts.set 0 ((bad.sett 0).modEng 1 (fun g => { g with queue := [q] })) }
    let ran (st : Nat) := engWith 2 [] [⟨cmdOf (.vabs 0 plain false 1 2 false), 0, st, some 5, false, false⟩]
    ((go.sett 0).freeze = none ∧ (go.sett 0).slotFree 1 = true ∧ ((go.sett 0).engine 1).queue = [cmdOf (.rdrop 0 plain)]) ∧
    (startStatus (startOf (.rdrop 0 plain) go (cmdOf (.rdrop 0 plain))) < 0x10 ∧
      ((startState (startOf (.rdrop 0 plain) go (cmdOf (.rdrop 0 plain)))).sett 0).engine 1 = (go.sett 0).engine 1) ∧
    ((bad.sett 0).slotFree 1 = true ∧ ((bad.sett 0).engine 1).queue = [q] ∧ startStatus (startOf q.cmd bad q) = 0x14 ∧
      0x14 ≠ Code.engineAbsent ∧ ((startState (startOf q.cmd bad q)).sett 0).st ≠ .halted) ∧
    ((runs.sett 0).engine 1).queue = [] ∧
    (firstDue (((ran 0).sett 0).engine 2).run).map (·.status) = some 0 ∧
    (firstDue (((ran 0x14).sett 0).engine 2).run).map (·.status) = some 0x14 ∧
    ((((engWith 1 [] [⟨cmdOf (.rdrop 0 plain), 0, 0, some 5, false, false⟩]).sett 0).engine 1).run.head?).isSome = true ∧
    ((ran 0x14).sett 0).st ≠ .halted ∧
    (let t : SettSt := { (ran 0).sett 0 with veDue := [⟨0, some 3, some 1, 0⟩] }
     ((firstDue (t.engine 2).run).bind (fun r => t.veDue.find? (fun w => w.issue == r.q.issue))).map (·.nan) = some (some 3)) ∧
    Word.bit ((ran 0).reg (.ve 0) 0x04) 0 = false ∧ Word.bit ((ran 0).reg (.ve 0) 0x04) 1 = false := by decide +kernel

/-- An RDROP that starts leaves the queue; a VABS that is done raises its signal counter, one of status 0x14 halts. -/
theorem test_start_complete :
    let ran (st : Nat) := engWith 2 [] [⟨{ cmdOf (.vabs 0 plain false 1 2 false) with hdr := ⟨false, 0, true, 3⟩ }, 0, st, some 5, false, false⟩]
    ((sett0 (.commandStart 0 1) (engWith 1 [cmdOf (.rdrop 0 plain)] [])).engine 1).queue = [] ∧
    (sett0 (.commandCompletion 0 2 0) (ran 0)).sig[3] = 1 ∧ (sett0 (.commandCompletion 0 2 0) (ran 0)).cyc = 6 ∧
    (sett0 (.commandCompletion 0 2 0) (ran 0x14)).haltInfo = 0x14220000 := by decide +kernel

/-- Of two started vector commands the one whose event comes first completes first; its NaN sets NANINF with sequence number and index. -/
theorem test_vector_order :
    let q := cmdOf (.vabs 0 plain false 1 2 false)
    let s := engWith 2 [] [⟨{ q with issue := 7 }, 0, 0, some 30, false, false⟩, ⟨{ q with issue := 8 }, 2, 0, some 9, false, false⟩]
    let s := s.modSett 0 (fun t => { t with veDue := [⟨7, none, some 2, 0⟩, ⟨8, some 3, none, 0⟩] })
    let s1 := next (.commandCompletion 0 2 0) s
    ((s1.sett 0).engine 2).run.map (·.q.issue) = [7] ∧ (s1.sett 0).cyc = 10 ∧ s1.reg (.ve 0) 0x04 = 1 ∧ s1.reg (.ve 0) 0x18 = 3 ∧
    s1.reg (.ve 0) 0x10 = 1 ∧ (next (.commandCompletion 0 2 0) s1).reg (.ve 0) 0x04 = 3 ∧
    (next (.commandCompletion 0 2 0) s1).reg (.ve 0) 0x1C = 1 := by decide +kernel

/-- MmaAddsItsBlocksInOrder: an MMA of one block that opens tile 3. -/
theorem wit_MmaAddsItsBlocksInOrder :
    let t := vecs.sett 0
    let q := issuedAs (.mma 0 plain 0x1004 0x1005 3 false false 4) [0x1004, 0x1005]
    let a := t.desc 0x1004
    let b := t.desc 0x1005
    a.overX false (q.extOf 0) = false ∧ b.overX true (q.extOf 1) = false ∧ bitsOf (q.ctr 4) 31 20 = 1 ∧ bitsOf (q.ctr 4) 19 0 = 0 ∧
    a.emptyX false (q.extOf 0) = false ∧ b.emptyX true (q.extOf 1) = false ∧ mmaCheck t q 0x1004 0x1005 3 false false 0 1 = Code.done ∧
    (pairPeriod a.fmt b.fmt).isSome = true ∧ vecs.placeTile 0 3 = some ⟨none, none, false⟩ ∧ vecs.mayMismatch 0 = false := by decide +kernel

/-- 32 products of 1.0 sum to 32.0 in element 0 of the tile, which is open with one block (02 R35, R60; 03 R75). -/
theorem test_mma :
    let q := issuedAs (.mma 0 plain 0x1004 0x1005 3 false false 4) [0x1004, 0x1005]
    let t := (startState (startMma 0 0x1004 0x1005 3 false false 4 vecs q)).sett 0
    (t.tile 3).map (fun x => (x.blocks, Tbl.get x.acc 0 0)) = some (1, 0x42000000) := by decide +kernel

/-- TensorTilesCloseAndResidentsLoad: a CVT into the FP32 destination of a tile that is not open, an RLOAD of one block and one of 9, an idle
and a busy engine at DISCARD. -/
theorem wit_TensorTilesCloseAndResidentsLoad :
    let t := vecs.sett 0
    let q := issuedAs (.cvt 0 plain 0x1004 0 false 3) [0x1004]
    let r := issuedAs (.rload 0 plain 0x1005 4) [0x1005]
    let b := t.desc 0x1005
    ((t.desc 0x1004).exceeds (q.extOf 0) = false ∧ (t.desc 0x1004).empty (q.extOf 0) = false ∧
      cvtCheck vecs 0 q 0x1004 0 false 3 = Code.done ∧ t.tile 3 = none) ∧
    (b.overX true (r.extOf 0) = false ∧ b.emptyX true (r.extOf 0) = false ∧ bitsOf (r.ctr 4) 31 20 = 1 ∧ b.fmtc < 2 ∧
      checkDescs t [0] [(b, r.extOf 0)] = Code.done ∧ b.flat = true ∧ b.blockedOnK true = true) ∧
    8 < bitsOf (9 * 2 ^ 20) 31 20 ∧
    ((t.engine 1).queue = [] ∧ (t.engine 1).run = []) ∧ ((engWith 1 [cmdOf (.rdrop 0 plain)] []).sett 0).freeze = none ∧
    (((engWith 1 [cmdOf (.rdrop 0 plain)] []).sett 0).engine 1).queue ≠ [] := by decide +kernel

/-- A CVT of a tile that is not open writes +0.0: LN8 zero codes under a block scale of 0 (03 R94). -/
theorem test_cvt :
    let q := issuedAs (.cvt 0 plain 0x1004 0 false 3) [0x1004]
    let s := startState (startCvt 0 0x1004 0 false 3 vecs q)
    ((s.sett 0).store.read 0x21000).toNat = 0 ∧ ((s.sett 0).store.read 0x2101F).toNat = 0 ∧ s.reg (.te 0) 0x1C = 1 := by decide +kernel

/-- RLOAD takes the codes of its block, RDROP drops them, DISCARD of a busy engine is refused. -/
theorem test_resident :
    let r := issuedAs (.rload 0 plain 0x1005 4) [0x1005]
    (((startState (startRload 0 0x1005 4 vecs r)).sett 0).resident.map (fun x => (x.nb, (x.cols.getD 0 []).getD 0 ([], 0)))) =
      some (1, (List.replicate 32 64, 0)) ∧
    ((startState (startRdrop 0 vecs r)).sett 0).resident = none ∧
    (next (.discard 0) (engWith 1 [cmdOf (.rdrop 0 plain)] [])).reg (.te 0) 0x04 = 2 := by decide +kernel

/-- VectorFunctionsWriteTheirResults: openings that pass for two sources, one source, a reduction of a row and VAMAX. -/
theorem wit_VectorFunctionsWriteTheirResults :
    let t := vecs.sett 0
    let x (ds : List (BitVec 14)) (k : Nat) : List Nat := (issuedAs (.nop 0) ds).extOf k
    let d := [0x1000, 0x1001, 0x1002]
    let r := [0x1003, 0x1001]
    vecs.mayMismatch 0 = false ∧
    vecOpen t [(t.desc 0x1000, x d 0), (t.desc 0x1001, x d 1), (t.desc 0x1002, x d 2)] true = none ∧
    (List.range 5).all (fun j => (x d 1).getD j 1 == (x d 0).getD j 1 || (x d 1).getD j 1 == 1) = true ∧
    vecOpen t [(t.desc 0x1000, x d 0), (t.desc 0x1001, x d 1)] true = none ∧
    vecOpen t [(t.desc 0x1003, x r 0), (t.desc 0x1001, x r 1)] ((x r 0).getD 0 1 == 1 &&
      (List.range 5).all (fun k => k == 0 || (x r 0).getD k 1 == (x r 1).getD k 1)) = none ∧ 0 < (x r 1).getD 0 1 ∧
    vecOpen t [(t.desc 0x1003, x r 0), (t.desc 0x1001, x r 1)] ((List.range 5).all (fun k => (x r 0).getD k 1 == 1)) = none := by
  decide +kernel

/-- The elements of a destination after a start. -/
def out (x : Start) (a : Nat) : List Nat := [((startState x).sett 0).store.num a 4, ((startState x).sett 0).store.num (a + 4) 4]

/-- (1, 2) and (2, 2): sums, differences, products, quotients, maxima and minima. -/
theorem test_vector_two :
    let q := issuedAs (.nop 0) [0x1000, 0x1001, 0x1002]
    out (startVadd 0 false 0x1000 0x1001 0x1002 false vecs q) 0x20000 = [three, 0x40800000] ∧
    out (startVsub 0 false 0x1000 0x1001 0x1002 false vecs q) 0x20000 = [0xBF800000, 0] ∧
    out (startVmul 0 false 0x1000 0x1001 0x1002 false vecs q) 0x20000 = [two, 0x40800000] ∧
    out (startVdiv 0 false 0x1000 0x1001 0x1002 false vecs q) 0x20000 = [0x3F000000, one] ∧
    out (startVfma 0 false 0x1000 0x1001 0x1002 false vecs q) 0x20000 = [two, 0x40800000] ∧
    out (startVmax 0 false 0x1000 0x1001 0x1002 false vecs q) 0x20000 = [two, two] ∧
    out (startVmin 0 false 0x1000 0x1001 0x1002 false vecs q) 0x20000 = [one, two] := by decide +kernel

/-- Of (1, 2): negation, the square root of 4 being 2 in its second element, the row's sum 3, its sum of squares 5, its maximum 2. -/
theorem test_vector_one :
    let q := issuedAs (.nop 0) [0x1000, 0x1001]
    let r := issuedAs (.nop 0) [0x1003, 0x1001]
    out (startVneg 0 false 0x1000 0x1001 false vecs q) 0x20000 = [0xBF800000, 0xC0000000] ∧
    (out (startVsqrt 0 false 0x1000 0x1001 false vecs q) 0x20000).head? = some one ∧
    (out (startVrsum 0 false 0x1003 0x1001 false vecs r) 0x20300).head? = some three ∧
    (out (startVrssq 0 false 0x1003 0x1001 false vecs r) 0x20300).head? = some 0x40A00000 ∧
    (out (startVrmax 0 false 0x1003 0x1001 false vecs r) 0x20300).head? = some two ∧
    (out (startVamax 0 false 0x1003 0x1001 false vecs r) 0x20300).head? = some two := by decide +kernel


/-- The first 60 bytes of an amax history record in its reset form with four slots, its amax words, and the record with its CHK. -/
def histHead : List Byte := leBytes 4 emptyAmax ++ leBytes 4 emptyAmax ++ [4, 0, 0, 0, 16, 0, 0, 0] ++ List.replicate 44 0
def amax16 : List Byte := (List.replicate 16 emptyAmax).flatMap (leBytes 4)
def histRec : List Byte := histHead ++ leBytes 4 0x05F72516 ++ (amax16 ++ amax16 ++ amax16 ++ amax16)
def hist0 : Hist := { (Hist.parse (List.replicate 320 0)).reset with len := 4 }

/-- The CRC-32 of that record, worked out with another implementation (06 Table 06-1). -/
theorem test_crc : crc32 (histHead ++ [0, 0, 0, 0] ++ (amax16 ++ amax16 ++ amax16 ++ amax16)) = 0x05F72516 := by
  have h0 : crcFrom 0xFFFFFFFF#32 (histHead ++ [0, 0, 0, 0]) = 0xE4491BE5#32 := by decide +kernel
  have h1 : crcFrom 0xE4491BE5#32 amax16 = 0x2DD95B81#32 := by decide +kernel
  have h2 : crcFrom 0x2DD95B81#32 amax16 = 0xCFE16587#32 := by decide +kernel
  have h3 : crcFrom 0xCFE16587#32 amax16 = 0x505C732C#32 := by decide +kernel
  have h4 : crcFrom 0x505C732C#32 amax16 = 0xFA08DAE9#32 := by decide +kernel
  rw [crc32_eq, crcFrom_append, crcFrom_append, crcFrom_append, crcFrom_append, h0, h1, h2, h3, h4]
  decide

/-- The record verifies, and with a CHK of 0 it does not (10 R262). -/
theorem wit_record : Hist.verifies histRec = true ∧ Hist.verifies (histHead ++ [0, 0, 0, 0] ++ (amax16 ++ amax16 ++ amax16 ++ amax16)) = false := by
  have hz : histRec.take 60 ++ [0, 0, 0, 0] ++ histRec.drop (60 + 4) = histHead ++ [0, 0, 0, 0] ++ (amax16 ++ amax16 ++ amax16 ++ amax16) := by
    decide +kernel
  constructor
  · unfold Hist.verifies chkHolds crcZeroed
    rw [hz, test_crc]
    decide +kernel
  · unfold Hist.verifies chkHolds
    have : leNat (((histHead ++ [0, 0, 0, 0] ++ (amax16 ++ amax16 ++ amax16 ++ amax16)).drop 60).take 4) = 0 := by decide +kernel
    rw [this]
    decide

/-- The state with one pair of function tables at 0x50000: domain 0 to 256, segment 1 of the forward table 2.0 and segment 2 3.0; a
loss-scale record at 0x60200 that the descriptor 0x1007 names. -/
def tabs : State := (vecs.setReg (.ve 0) 0x08 0x500001).modSett 0 (fun t =>
  [(0x5004C, leBytes 4 two), (0x50058, leBytes 4 three), (0x401C0, descBytes 6 0x60200 0 0 [(16, 1)]),
   (0x60200, lossBytes (List.replicate 64 0) 3 1000 0)].foldl (fun t (p : Nat × List Byte) => t.putStore p.1 p.2) t)

/-- The state with the record at 0x60000, that the descriptor 0x1006 names. -/
def recd : State := vecs.modSett 0 (fun t => (t.putStore 0x40180 (descBytes 6 0x60000 0 0 [(80, 1)])).putStore 0x60000 histRec)

/-- A command on named descriptors of that state. -/
def asIn (s : State) (ds : List (BitVec 14)) : QCmd := s.captured 0 plain ds (.nop 0)

/-- FunctionTablesEvaluate: the last table and the first that is not there, a table beyond the store, a usable header; inputs of each kind. -/
theorem wit_FunctionTablesEvaluate :
    let t := tabs.sett 0
    let q := asIn tabs [0x1000, 0x1001]
    let ft := tableAt t.store 0x50000
    vecOpen t [(t.desc 0x1000, q.extOf 0), (t.desc 0x1001, q.extOf 1)] ((List.range 5).all (fun j =>
      (q.extOf 1).getD j 1 == (q.extOf 0).getD j 1 || (q.extOf 1).getD j 1 == 1)) = none ∧ tabs.mayMismatch 0 = false ∧
    tabs.fld (.ve 0) 0x08 6 0 ≤ (1#6).toNat ∧ ¬ tabs.fld (.ve 0) 0x08 6 0 ≤ (0#6).toNat ∧
    tabs.fld (.ve 0) 0x08 25 16 * 4096 = 0x50000 ∧ ft.ok = true ∧ tableReserved t.store 0x50000 = true ∧
    (tabs.setReg (.ve 0) 0x08 0x3FF0001).fld (.ve 0) 0x08 25 16 * 4096 + 4096 > 0x300000 ∧
    f32Num (enterBits false 0x7FC00000) = .nan ∧
    ((f32Num 0xBF800000).le ft.xlo = true ∧ ft.xlo.le (f32Num 0xBF800000) = false) ∧
    (ft.xlo.le (f32Num 0x43800000) = true ∧ ft.xhi.le (f32Num 0x43800000) = true) ∧
    ((f32Num one).isFinite = true ∧ ft.xlo.le (f32Num one) = true ∧ ft.xhi.le (f32Num one) = false) := by decide +kernel

/-- Inputs 1 and 2 fall on the starts of segments 1 and 2; the derivative table of zeros gives zeros. -/
theorem test_tables :
    out (startVfn 0 false 0x1000 0x1001 0 false tabs (asIn tabs [0x1000, 0x1001])) 0x20000 = [two, three] ∧
    out (startVdfn 0 false 0x1000 0x1001 0 false tabs (asIn tabs [0x1000, 0x1001])) 0x20000 = [0, 0] := by decide +kernel

/-- RecipesFollowTheirRecord: a record that verifies (`wit_record`) and one that does not, an amax that is usable and one that is not. -/
theorem wit_RecipesFollowTheirRecord :
    let t := recd.sett 0
    let q := asIn recd [0x1003, 0x1006]
    let l := tabs.sett 0
    let r := asIn tabs [0x1003, 0x1007]
    vecOpen t [(t.desc 0x1003, q.extOf 0), (t.desc 0x1006, q.extOf 1)] (recipeDescs (t.desc 0x1003) (t.desc 0x1006) 80 (q.extOf 0)) = none ∧
    (t.desc 0x1006).base = 0x60000 ∧ t.store.load 0x60000 320 = histRec ∧ recd.mayMismatch 0 = false ∧
    vecOpen l [(l.desc 0x1003, r.extOf 0), (l.desc 0x1007, r.extOf 1)] (recipeDescs (l.desc 0x1003) (l.desc 0x1007) 16 (r.extOf 0)) = none ∧
    chkHolds (l.store.load 0x60200 64) = true ∧ amaxUsable one = true ∧ amaxUsable emptyAmax = false ∧ 0 < hist0.cold ∧
    (f32Num 0x80000000).isZero = true ∧ (f32Num one).isZero = false ∧ (999 + 1) % 65536 = 1000 := by decide +kernel

/-- DELAYED commits CUR and, cold, takes PRE: 2^(ceil(log2 2) + MARGIN) (10 R264); warm, the window's largest. LOSS up, down, clean. -/
theorem test_recipes :
    ({ hist0 with cur := three, pre := two, margin := 1 }.delayed).dd = 0x40800000 ∧
    ({ hist0 with cur := three, pre := two, margin := 1 }.delayed).hist.amax.head? = some three ∧
    ({ hist0 with cur := three, pre := two, margin := 1, cold := 0 }.delayed).dd = 0x41000000 ∧
    ({ hist0 with pre := two, margin := 1 }.current).dd = 0x40800000 ∧
    lossStep 0 3 1000 999 = (4, 0) ∧ lossStep one 3 1000 5 = (2, 0) ∧ lossStep 0 3 1000 5 = (3, 6) := by decide +kernel

/-- LOSS returns the scale 2^3. -/
theorem test_loss : (out (startLoss 0 0x1003 0x1007 tabs (asIn tabs [0x1003, 0x1007])) 0x20300).head? = some 0x41000000 := by decide +kernel


/-- Entry records at HBM 0x100000, four of them; four staging lines at 0x100000 of the store; the home pool of die 0 of two chunks at
0x200000 with its map at 0x300000. -/
def stashy : State :=
  [(Blk.se 0, 0x08, 0x100), (.se 0, 0x0C, 4), (.se 0, 0x10, 0x1000004), (.spool 0, 0x100, 0x20), (.spool 0, 0x104, 2), (.spool 0, 0x10C, 0x300),
   (.spool 0, 0x118, 0x80000000)].foldl (fun (s : State) (p : Blk × Nat × Word) => s.setReg p.1 p.2.1 p.2.2) vecs

/-- The same with its pool initialised; with a STASH of the FP32 vector 0x1001 as entry 1 started (its staging lines, which hold free
values, left out); with that entry placed; with the command complete. -/
def pooled : State := next (.sePoolInit 0 0) stashy
def staging : State := pooled.modSett 0 (fun t =>
  SettSt.modEng { t with staged := (sett0 (.stash 0 plain 0x1001 1 0) pooled).staged } 3 (fun g =>
    { g with run := ((sett0 (.stash 0 plain 0x1001 1 0) pooled).engine 3).run }))
def placed : State := next (.stashPlacement 0 none) staging
def held : State := next (.commandCompletion 0 3 0) placed

/-- StashEntriesComeAndGo: a source that passes the checks, a PLACED entry that matches its destination and one that does not, an entry
that is not there, an EMPTY one, a STASH that has been placed. -/
theorem wit_StashEntriesComeAndGo :
    let t := pooled.sett 0
    let x := t.desc 0x1001
    let q := asIn pooled [0x1001]
    let h := held.sett 0
    let d := h.desc 0x1000
    let r := SRec.read held.hbm 0x100080
    (x.exceeds (q.extOf 0) = false ∧ x.empty (q.extOf 0) = false ∧ stashCheck pooled 0 x (q.extOf 0) 1 0 = Code.done ∧
      pooled.mayMismatch 0 = false) ∧
    (d.exceeds ((asIn held [0x1000]).extOf 0) = false ∧ d.empty ((asIn held [0x1000]).extOf 0) = false ∧ held.seRec 0 1 = some 0x100080 ∧
      h.entryBusy 1 = false ∧ checkDescs h [0] [(d, (asIn held [0x1000]).extOf 0)] = Code.done ∧ d.csp = false ∧
      unstashCheck h d ((asIn held [0x1000]).extOf 0) r = true ∧ unstashCheck h d ((asIn held [0x1000]).extOf 0) (SRec.read held.hbm 0x100000) = false ∧
      ((held.getChunks 0 r.tier (r.chunk.take r.nchunk) (min r.span (r.nchunk * chunkBytes))).1).toBool = true) ∧
    held.seRec 0 4 = none ∧ (SRec.read held.hbm 0x100000).state = 0 ∧ r.state ≠ 0 ∧
    (((placed.sett 0).engine 3).run.map (fun r => (r.work, r.status, r.q.cmd)) = [(false, 0, .stash 0 plain 0x1001 1 0)] ∧
      (placed.sett 0).staged ≠ [] ∧ (placed.sett 0).freeze = none) := by decide +kernel

/-- An UNSTASH of the entry rebuilds (1.0, 2.0) in another operand; an SFREE returns its chunk and empties it. -/
theorem test_stash :
    (held.sett 0).staged = [] ∧ held.reg (.se 0) 0x20 = 1 ∧ held.reg (.spool 0) 0x110 = 1 ∧
    out (startUnstash 0 0x1000 1 held (asIn held [0x1000])) 0x20000 = [one, two] ∧
    (let s := startState (startSfree 0 1 held (asIn held []))
     (SRec.read s.hbm 0x100080).state = 0 ∧ s.reg (.spool 0) 0x110 = 2) := by decide +kernel

/-- StashPlacementFollowsItsSteps: a pool with room, and with none neither a fallback. -/
theorem wit_StashPlacementFollowsItsSteps :
    let t := staging.sett 0
    let full := staging.setReg (.spool 0) 0x110 0
    staging.memOk = true ∧ t.freeze = none ∧ (t.engine 3).run.map (fun r => (r.work, r.q.cmd)) = [(true, .stash 0 plain 0x1001 1 0)] ∧
    t.staged.map (fun x => (x.entry, x.codec, x.elem.length)) = [(1, 0, 8)] ∧ staging.seRec 0 1 = some 0x100080 ∧
    staging.cfgBad (.spool 0) = false ∧ staging.poolPick 0 1 false = some 0 ∧ memFault none = none ∧ memFault (some 0x23) ≠ none ∧
    full.poolPick 0 1 false = none ∧ full.rlSlot 0 1 (SRec.read full.hbm 0x100080) = none := by decide +kernel

/-- DONE in the home pool; STASH_FULL where no pool has room. -/
theorem test_placement :
    (((sett0 (.stashPlacement 0 none) staging).engine 3).run.map (fun r => (r.status, r.work))) = [(0, false)] ∧
    (((sett0 (.stashPlacement 0 none) (staging.setReg (.spool 0) 0x110 0)).engine 3).run.map (fun r => (r.status, r.work))) =
      [(0x40, false)] := by decide +kernel

/-- PoolsInitialise: a pool in its tier and one beyond it, for the page pool likewise; a sett that is not frozen. -/
theorem wit_PoolsInitialise :
    (stashy.poolInTier 0 0 && inHbm (stashy.poolMap 0 0) 1) = true ∧
    ((stashy.setReg (.spool 0) 0x100 0x600000).poolInTier 0 0) = false ∧
    State.reset.kvInTier = true ∧ (State.reset.setReg .kvpool 0x1C 1).kvInTier = false ∧
    (State.reset.sett 0).freeze = none := by decide +kernel

theorem test_pools :
    pooled.reg (.spool 0) 0x110 = 2 ∧ (pooled.hbm.read 0x300000).toNat = 3 ∧ Word.bit (pooled.reg (.spool 0) 0x118) 1 = true ∧
    Word.bit ((next (.sePoolInitDone 0 0) pooled).reg (.spool 0) 0x118) 1 = false ∧
    Word.bit ((next (.sePoolInit 0 0) (stashy.setReg (.spool 0) 0x100 0x600000)).reg (.spool 0) 0x118) 3 = true := by decide +kernel


/-- A KV pool of four pages of 256 bytes with its frames at 0x40100000 of HBM, initialised; a granule table of die 0 that puts sequence 0 at
0x20000000 and sequence 1 at 0x20200000 of HBM, both valid and empty; CT2 of sett 0 is 20, CT3 is 1. -/
def kv : State :=
  let s := [(Blk.kvpool, 0x00, 0x80000000), (.kvpool, 0x04, 1), (.kvpool, 0x08, 0x40000), (.kvpool, 0x0C, 4), (.kvpool, 0x10, 0x40100),
    (.kvpool, 0x14, 4), (.kvpool, 0x20, 0x40200), (.tr 0, 0x100, 0x80000010)].foldl
      (fun (s : State) (p : Blk × Nat × Word) => s.setReg p.1 p.2.1 p.2.2) runs
  let s1 := (((s.putHbm 0x10000000 (leBytes 8 0xC000000020000000)).putHbm 0x10000100 (leBytes 8 0xC000000020200000)).putHbm 0x20000008 [1]).putHbm
    0x20200008 [1]
  (next .kvInit s1).modSett 0 (fun t => { t with ct := (t.ct.set 2 20).set 3 1 })

/-- A KVAPPEND of 20 tokens to sequence 0, its list at 0x40000 of the store; a KVFREE of them; as the walker's queue holds them. -/
def kvApp : QCmd := kv.captured 0 plain [] (.kvappend 0 plain 0 1 2 0x1000)
def kvFre : QCmd := kv.captured 0 plain [] (.kvfree 0 plain 0 1 2)

/-- The state of page work that is finished. -/
def worked (s : State) (q : QCmd) : Status × State := match s.kvWork 0 q with
  | .fin t c => (c, t)
  | .wait t => (999, t)

/-- KvPagesAreCounted: headers at the ends of their ranges, pages that are and are not reclaimed, an unpin of a page, a move. -/
theorem wit_KvPagesAreCounted :
    let s := (worked kv kvApp).2
    let h := s.kvHdr 0
    let mv : State := { kv with moves := [⟨0, 0, 0, 0⟩] }
    kv.memOk = true ∧ (0xFFFF < 2 ^ 16 ∧ 3 < 4 ∧ 0xFFFFFFFF < 2 ^ 32) ∧
    (h.ref = 1 ∧ h.pin = 1 ∧ h.alloc = true ∧ h.gen = 0 ∧ h.moving = false ∧ h.tier < 2 ∧ 0 < s.kvPages) ∧
    ¬ (4 < s.kvPages) ∧ (s.kvHdr 3).alloc = false ∧
    (mv.moves.find? (fun m => m.page == (0#28).toNat) = some ⟨0, 0, 0, 0⟩ ∧ (mv.readMod none (mv.kvFrameAddr 0 0) mv.kvFrame).1.isSome = true) ∧
    kv.moves.find? (fun m => m.page == (0#28).toNat) = none := by decide +kernel

/-- Two pages are taken and the list names them with their addresses; unpinning both and freeing them gives them back, GEN 1. -/
theorem test_kv :
    let s := (worked kv kvApp).2
    let f := (worked s kvFre).2
    (worked kv kvApp).1 = 0 ∧ s.reg .kvpool 0x28 = 2 ∧ (s.sett 0).store.num 0x40000 4 = 2 ∧ (s.sett 0).store.num 0x40010 6 = 0x40100000 ∧
    (s.sett 0).store.num 0x40020 6 = 0x40100100 ∧ (s.kvNum 0 (kvSeq 0) 4).1 = some 20 ∧
    (worked s kvFre).1 = 0 ∧ (f.kvHdr 0).ref = 0 ∧ f.reg .kvpool 0x28 = 2 ∧
    (match f.kvUnpinWork 0 ((s.sett 0).kvListPages 0x1000) 0 with
      | .fin t c => (c, t.reg .kvpool 0x28, (t.kvHdr 1).gen)
      | .wait _ => (999, 0, 0)) = (0, 4, 1) := by decide +kernel

/-- KvCommandsDoTheirPageWork: checks of each kind, a walk that finds its pages and one past the end, an append at LEN and elsewhere, an
allocation that succeeds, waits and fails, ranges that are refused. -/
theorem wit_KvCommandsDoTheirPageWork :
    let s := (worked kv kvApp).2
    let full := s.setReg .kvpool 0x2C 0
    let ev : State := { full with moves := [⟨1, 1, 0, 0⟩], kvReq := some ⟨0, 0, 0⟩ }
    (kv.mayMismatch 0 = false ∧ ((kv.sett 0).engine 8).run = [] ∧ (kv.kvCheck 0 kvApp).1 = Code.done ∧
      (kv.kvCheck 0 { kvApp with ct := kvApp.ct.set 2 0 }).1 = Code.zeroExtent ∧ (runs.kvCheck 0 kvApp).1 = Code.bounds) ∧
    ((s.kvNum 0 (kvSeq 0) 4).1 = some 20 ∧ (kvRange 0 20).find? (fun i => decide (ceilDiv 20 16 ≤ i)) = none ∧
      (kvRange 16 17).find? (fun i => decide (ceilDiv 20 16 ≤ i)) = some 2 ∧
      ((s.kvNum 0 (kvSeq 0) 4).2.kvMapPages s 0 0 false 0 (kvRange 0 20) []).1.isLeft = true) ∧
    ((s.kvSeqInfo 0 0).1 = some (20, 0) ∧ 19 ≠ 20 ∧ (kv.kvSeqInfo 0 0).1 = some (0, 0) ∧ 0 % 16 = 0 ∧ 1048576 < 0 + 1048577) ∧
    (match kv.kvAllocate 0 0 2 1 0 with | .got _ l => l | _ => []) = [(0, 0), (1, 1)] ∧
    (match ev.kvAllocate 0 0 1 1 0 with | .wait _ => true | _ => false) = true ∧
    (match full.kvAllocate 0 0 1 1 0 with | .fail _ c => c | _ => 0) = Code.kvExhausted ∧
    8 % 16 ≠ 0 ∧ ceilDiv 20 16 ≤ 32 / 16 ∧ (kv.kvSeqInfo 0 1).1 = some (0, 0) ∧ 20 < 21 := by decide +kernel

/-- A KVMAP of a sequence past its end names the page index it stops at. -/
theorem test_kvmap_bounds :
    let s := (worked kv kvApp).2
    (match s.kvMapWork 0 0 16 17 0x1000 false 0 with | .fin t c => (c, t.reg (.kvw 0) 0x08) | .wait _ => (0, 0)) = (0x14, 2) := by
  decide +kernel

/-- SignalsAndBlocksLeaveTheSett: a TSIG to one sett and to a group, one whose packet is still on its way, blocks of OP 6, 0 and 11. -/
theorem wit_SignalsAndBlocksLeaveTheSett :
    let r : RCmd := ⟨cmdOf (.tsig 0 plain false 3 0 5 1), 0, 0, none, true, false⟩
    let s := engWith 9 [] [r]
    let blk (n : Nat) := runsWith (fun t => t.putStore 0x40000 [BitVec.ofNat 8 n])
    runs.cfgBad (.tr (dieIx 0)) = false ∧ { runs with cfgHalt := [0xE0000000000] }.pkts = [] ∧
    ((s.sett 0).freeze = none ∧ ((s.sett 0).engine 9).run = [r]) ∧
    (∃ p ∈ ({ s with pkts := [⟨0, 3, 5, 1, 0⟩] } : State).pkts, p.src = 0) ∧
    (∃ p ∈ ((s.modSett 3 (fun t => { t with lateSig := [(5, 1, some 0)] })).sett 3).lateSig, p.2.2 = some 0) ∧
    (¬ (∃ p ∈ s.pkts, p.src = 0) ∧ ∀ v : Sett, ∀ p ∈ (s.sett v).lateSig, p.2.2 ≠ some 0) ∧
    runs.mayMismatch 0 = false ∧ Machine.blk (((blk 6).sett 0).store.load 0x40000 64) 0 1 = 6 ∧
    Machine.blk (((blk 11).sett 0).store.load 0x40000 64) 0 1 = 11 := by decide +kernel

/-- The packet names the sett of die 1 that the TSIG gives; a DSTART of channel 2 sets its program and AOR. -/
theorem test_tsig_dstart :
    let s := runsWith (fun t => { t with ct := t.ct.set 1 7 })
    (startState (startTsig 0 true 3 0 5 9 runs (cmdOf (.nop 0)))).pkts.map (fun p => (p.src.val, p.dst.val, p.sg.toNat, p.inc.toNat)) =
      [(0, 131, 5, 9)] ∧
    (let h := (startState (startDstart 0 2 0x10 true 1 s (s.captured 0 plain [] (.nop 0)))).chan (.sett 0 2)
     (h.prog, h.aor, h.st) = (0x80, 7, ChSt.run)) := by decide +kernel


/-! ## Holts and memory -/

/-- A FILL of `n` bytes at HBM 0x8000 with 0x11223344, its result at `res` (08 Table 08-2). -/
def fillBlock (res n : Nat) : List Byte :=
  leBytes 4 6 ++ leBytes 6 res ++ leBytes 2 0 ++ leBytes 4 0x11223344 ++ leBytes 6 0x8000 ++ leBytes 10 0 ++ leBytes 8 n ++ leBytes 24 0

/-- That block on its way from command 7 of endpoint A; dispatched; worked by its Holt, Holt 1, which holds line 8. -/
def waiting (res n : Nat) : State := { runs with hin := [(.ep 0 7, fillBlock res n)] }
def dispatched : State := next .fill (waiting 0x1000 64)
def filled : State := next (.holtSubCommandEnd 1 ⟨none, []⟩) dispatched

theorem wit_HoltCommandsDispatch :
    runs.hin.find? (fun p => Machine.blk p.2 0 1 == 6) = none ∧
    (waiting 0x1000 64).hin.find? (fun p => Machine.blk p.2 0 1 == 6) = some (.ep 0 7, fillBlock 0x1000 64) ∧
    (Machine.blk (fillBlock 0x1001 64) 4 6) % 64 ≠ 0 ∧ inHbm (Machine.blk (fillBlock 0x6000000000 64) 4 6) (resultBytes 6) = false ∧
    (Machine.blk (fillBlock 0x1000 64) 4 6) % 64 = 0 ∧ inHbm (Machine.blk (fillBlock 0x1000 64) 4 6) (resultBytes 6) = true ∧
    (waiting 0x1000 64).holtCheck 0 (fillBlock 0x1000 64) = Code.done ∧ (waiting 0x1000 6).holtCheck 0 (fillBlock 0x1000 6) ≠ Code.done ∧
    (HIss.die (.ep 0 7)).val = 0 := by decide +kernel

/-- HoltCommandsEndAndComplete: a Holt with nothing, one whose sub-command runs, an item that a fault names, a command that is done and one
that a freeze holds. -/
theorem wit_HoltCommandsEndAndComplete :
    runs.hq[0] = [] ∧ dispatched.hq[1] = [0] ∧
    (dispatched.hcmds.find? (fun c => c.id == 0)).map (fun c => (c.left, c.subs.any (fun r => r.holt == 1))) = some ([1], false) ∧
    dispatched.cfgBad (.ht 0) = false ∧ dispatched.hflt = [] ∧ filled.hflt = [] ∧
    ((dispatched.holtWork 0 0 (fillBlock 0x1000 64) [] [] 1).map (fun i => i.fault [⟨1, 0x8004, 0x23, false, false⟩])) =
      [some (0x8004, ⟨1, 0x8004, 0x23, false, false⟩)] ∧
    ((dispatched.holtWork 0 0 (fillBlock 0x1000 64) [] [] 1).map (fun i => i.fault [])) = [none] ∧
    runs.hcmds = [] ∧ filled.hcmds.map (fun c => (c.left, c.early, c.mute, c.iss)) = [([], none, false, .ep 0 7)] ∧
    (let s : State := { filled with hcmds := filled.hcmds.map (fun (c : HCmd) => ({ c with iss := HIss.sett 0 } : HCmd)) }
     let f := s.modSett 0 (fun t => { t with freeze := some ⟨.flit, 9, 0, 0, false, false, none⟩ })
     (s.sett 0).freeze = none ∧ (f.sett 0).freeze ≠ none ∧ f.hcmds.map (·.iss) = [.sett 0]) ∧
    ((engWith 9 [] [⟨cmdOf (.hcmd 0 plain 0x1000), 0, 0, none, true, false⟩]).sett 0).engine 9 ≠ Eng.reset := by decide +kernel

/-- The pattern fills all 64 bytes and nothing behind them; the result begins with DONE and OP 6. -/
theorem test_fill :
    filled.hbm.num 0x8000 4 = 0x11223344 ∧ filled.hbm.num 0x803C 4 = 0x11223344 ∧ (filled.hbm.read 0x8040).toNat = 0 ∧
    (filled.hcmds.map (·.left)) = [[]] ∧ (next .holtCompletionStep filled).hbm.num 0x1000 2 = 0x600 := by decide +kernel

/-- HoltLinesAreExact: canonical memory, whole words; the sum of slots 1.0 and 2.0 over a destination that holds 3.0. -/
theorem wit_HoltLinesAreExact :
    let b := leBytes 4 5 ++ leBytes 8 0 ++ leBytes 4 2 ++ leBytes 8 0x10000 ++ leBytes 8 0x100 ++ leBytes 8 0x20000 ++ leBytes 24 0
    let s := ((runs.putHbm 0x10000 (leBytes 4 one)).putHbm 0x10100 (leBytes 4 two)).putHbm 0x20000 (leBytes 4 three)
    s.memOk = true ∧ 8 % 4 = 0 ∧ (sumLine b false 0x20000 4 s (HSub.start 0)).1.hbm.num 0x20000 4 = three ∧
    (sumLine b true 0x20000 4 s (HSub.start 0)).1.hbm.num 0x20000 4 = 0x40C00000 ∧
    (copyLine (leBytes 16 4 ++ leBytes 8 0x10000 ++ leBytes 8 0x30000) 0x10000 4 s (HSub.start 0)).1.hbm.num 0x30000 4 = one := by
  decide +kernel

/-- A freeze on the word at 0x3000 of sett 0, after `n` attempts, with a refetch in the given state; a clean line backed by HBM line 5. -/
def frozen (n refetch : Nat) (bad : List Bad) (clean : Tbl Nat) : State :=
  (runs.modSett 0 (fun t => { t with freeze := some ⟨.store 0x3000, 2, n, refetch, false, false, none⟩, bad := bad, clean := clean })).putHbm 0x5000 [7]

/-- MemoryErrorsRecover: each state of a freeze, the receivers of flits, an address of each tier. -/
theorem wit_MemoryErrorsRecover :
    (runs.reg .injX 0).toNat % 2 = 0 ∧ (runs.sett 0).freeze = none ∧
    ((frozen 0 0 [] []).sett 0).bad.contains (.store 0x3000) = false ∧
    ((frozen 1 0 [.store 0x3000] []).sett 0).bad.contains (.store 0x3000) = true ∧
    ((frozen 2 0 [.store 0x3000] [(3, 5)]).sett 0).cleanLine (.store 0x3000) = some (3, 5) ∧
    ((frozen 2 0 [.store 0x3000] []).sett 0).cleanLine (.store 0x3000) = none ∧ ((frozen 3 1 [] [(3, 5)]).sett 0).freeze.map (·.refetch) = some 1 ∧
    (frozen 3 1 [] [(3, 5)]).memOk = true ∧ (0x5FFFFFFFFF#48).toNat < hbmSize ∧ burrowBase ≤ (0x10000000000#48).toNat ∧
    (0x1FFFFFFFFFF#48).toNat < 0x20000000000 := by decide +kernel

/-- A good re-read ends the freeze; the third bad one asks for the clean line or halts with PARITY_HARD; the refetch copies the line. -/
theorem test_freeze :
    (sett0 (.parityRereadDone 0 true 4) (frozen 0 0 [] [])).freeze = none ∧
    (sett0 (.parityRereadDone 0 true 4) (frozen 2 0 [.store 0x3000] [(3, 5)])).freeze.map (·.refetch) = some 1 ∧
    (sett0 (.parityRereadDone 0 true 4) (frozen 2 0 [.store 0x3000] [])).lastFault = 0x20 ∧
    ((sett0 (.cleanLineRefetchDone 0 true 4) (frozen 3 1 [] [(3, 5)])).store.read 0x3000).toNat = 7 ∧
    (sett0 (.refetchTimeout 0) (frozen 3 1 [] [(3, 5)])).st = .halted := by decide +kernel

/-- A flit that fails for good is counted and recorded; an HBM parity failure of all four tries is HBM_UNCORR. -/
theorem test_links :
    let s := next (.linkFlitReceived (.router 0 0 0) 4 .none) runs
    s.reg (.ftD 0) 0x100 = 3 ∧ s.reg (.ftD 0) 0x104 = 1 ∧ s.recs.map (·.status) = [0x20] ∧
    (next (.hbmAccessComplete 0x1000 false false (.parity 4) .none) runs).recs.map (·.status) = [0x23] ∧
    (next (.burrowAccessComplete 0x10000000000 false true 0 .none) runs).reg .ftX 0x108 = 1 := by decide +kernel

/-- A multicast copy of 1.0 on its way from channel 1 of sett 0 to sett 3, which it signals at counter 9. -/
def mcasting : State :=
  (runs.modSett 0 (fun t => { t with ch := t.ch.set 1 { DmaCh.reset with st := .run } })) |> fun s =>
    { s with mcast := [⟨0, 1, 3, [(0x100, none, leBytes 4 one)], some 9, 1, 0⟩] }

/-- The same with a remote read of the channel outstanding. -/
def mcastRead : State := { mcasting with roce := [⟨7, false, .burst (.sett 0 1) 0, 0x20000000000, 4, some (.store 0 0x100), [], none⟩] }

/-- A channel of sett 0 whose last transfer used a dropped entry, with a burst that failed. -/
def staleXfer : Xfer :=
  { pc := 0, aor := 0, loops := [], bursts := [⟨0, 0x1000, 8⟩], cut := [0], row := 0, parts := [], grans := [5], stale := true, undo := [],
    dead := [0], tries := [], multi := false, landed := false, inj := false, persist := false }
def stale : State :=
  runs.modSett 0 (fun t =>
    let h : DmaCh := { DmaCh.reset with st := .run, xfer := some staleXfer }
    { t with ch := t.ch.set 1 h })

/-- InvalidationsAndDeliveries: an access on a dropped entry that is open and none, a copy that may land, and what holds one: a freeze of
the member, a remote read of the channel, an earlier packet, an earlier copy. -/
theorem wit_InvalidationsAndDeliveries :
    (stale.xferPending (.sett 0 1) = true ∧ dieIx 0 = 0 ∧ ((stale.chan (.sett 0 1)).xfer.map (·.stale)) = some true) ∧
    (∀ k : Fin 4, (runs.chan (.sett 0 k)).xfer = none) ∧
    runs.mcast.find? (fun x => x.iss == (0 : SettId) && x.ch == 1 && x.mem == (3 : SettId)) = none ∧
    (mcasting.mcast.find? (fun x => x.iss == (0 : SettId) && x.ch == 1 && x.mem == (3 : SettId))).map (·.msig) = some (some 9) ∧
    (mcasting.sett 3).freeze = none ∧ (mcasting.chan (.sett 0 1)).st = .run ∧ mcasting.roce = [] ∧ mcasting.pkts = [] ∧
    mcasting.mayMismatch 3 = false ∧
    (∃ r ∈ mcastRead.roce, r.of (.sett 0 1) = true ∧ r.write = false) ∧
    (∃ p ∈ ({ mcasting with pkts := [⟨0, 3, 9, 1, 0⟩] } : State).pkts, p.src = 0 ∧ p.dst = 3 ∧ p.ord < 1) ∧
    (∃ y ∈ ({ mcasting with mcast := ⟨0, 2, 3, [], none, 0, 0⟩ :: mcasting.mcast } : State).mcast, y.iss = 0 ∧ y.mem = 3 ∧ y.ord < 1) ∧
    ((mcasting.modSett 3 (fun t => { t with freeze := some ⟨.flit, 9, 0, 0, false, false, none⟩ })).sett 3).freeze ≠ none := by decide +kernel

set_option maxRecDepth 2000 in
/-- A copy lands and signals; a failing one aborts its channel; one behind a remote read stays; an invalidation is busy. -/
theorem test_multicast :
    ((next (.multicastDelivery 0 1 3 none) mcasting).sett 3).store.num 0x100 4 = one ∧
    ((next (.multicastDelivery 0 1 3 none) mcasting).sett 3).sig[9] = 1 ∧
    ((next (.multicastDelivery 0 1 3 (some 0)) mcasting).chan (.sett 0 1)).st = .aborting ∧ (next (.multicastDelivery 0 1 3 none) mcastRead).mcast.length = 1 ∧
    Word.bit ((next (.trGtInv 1 true 0) runs).reg (.tr 1) 0x104) 30 = true := by decide +kernel

/-- ModuleMemoryReadsWhatWasWritten: a range across a 4 KiB boundary of HBM, and one of a sett store. -/
theorem wit_ModuleMemoryReadsWhatWasWritten :
    runs.memOk = true ∧ 0xFFE + [1, 2, 3, 4].length ≤ transBase ∧ (runs.writeMod none 0xFFE [1, 2, 3, 4]).1 = true ∧
    settBase ≤ settBase + 0x3000 ∧ (runs.writeMod none (settBase + 0x3000) [1, 2]).1 = true ∧
    ((runs.writeMod none 0xFFE [1, 2, 3, 4]).2.readMod none 0xFFE 4).1 = some [1, 2, 3, 4] := by decide +kernel


/-! ## DMA (13) -/

/-- Sett 0 with channel 2 in a given state, 1.0 at HBM 0x1000 and system channel 3 running its program at HBM 0x10000. -/
def dmaWith (f : DmaCh → DmaCh) : State :=
  let s := (runs.putHbm 0x1000 (leBytes 4 one)).modSett 0 (fun t => { t with ch := t.ch.set 2 (f { DmaCh.reset with st := .run }) })
  { s with xch := s.xch.set 3 (f { DmaCh.reset with st := .run, prog := 0x10000 }) }

def dma : State := dmaWith id

/-- The MOVE of 13 Table 13-2: 32 rows of 128 bytes, 0x180 bytes apart from 0x0F00_0542_0000 and 0x80 apart at 0x0010_000C_6000. -/
theorem test_move_words :
    dmaOp 0x1800000000000080 = 1 ∧ moveOk 0x1800000000000080 0x00200F0005420000 0x00000010000C6000 0x0000018000000080 = true ∧
    (moveBursts 0 0x1800000000000080 0x00200F0005420000 0x00000010000C6000 0x0000018000000080).length = 32 ∧
    (moveBursts 0 0x1800000000000080 0x00200F0005420000 0x00000010000C6000 0x0000018000000080)[1]? =
      some ⟨0x0F0005420180, 0x10000C6080, 0x80⟩ ∧
    dmaOp 0x5000400900000001 = 5 ∧ signalOk (.sett 5 0) 0x5000400900000001 = true ∧ dmaOp 0x6000000000000000 = 6 := by decide +kernel

/-- DmaWordsAreChecked: a channel that does not run, one that does, a word of another instruction, a reserved OP, a program at the end of the
store and one that leaves it. -/
theorem wit_DmaWordsAreChecked :
    let past := dmaWith (fun h => { h with prog := 0x2FFFF8, pc := 8 })
    (runs.chan (.sett 0 2)).st ≠ .run ∧ (dma.chan (.sett 0 2)).st = .run ∧ dma.chanFrozen (.sett 0 2) = false ∧
    (dmaOp 0x6000000000000000 ≠ 5 ∧ 1 ≤ dmaOp 0x6000000000000000 ∧ dmaOp 0x6000000000000000 ≤ 7) ∧ 8 ≤ dmaOp 0x8000000000000000 ∧
    past.progInside (.sett 0 2) 8 8 = false ∧ past.progInside (.sett 0 2) 0 8 = true ∧ (∀ u : Sett, dma.mayMismatch u = false) ∧
    (bitsOf (0x6000000000000001#64).toNat 59 0 == 0) = false := by decide +kernel

/-- A HALT word with a bit set stops the channel with PLAN_MISMATCH. -/
theorem test_dma_reserved :
    ((next (.dmaHalt (.sys 3) 0x6000000000000001) dma).chan (.sys 3)).fault = some (0x11, 0) ∧
    ((next (.dmaHalt (.sett 0 2) 0x8000000000000000) dma).chan (.sett 0 2)).fault = some (0x11, 0) := by decide +kernel

/-- DmaTransfersMoveBytes: one burst between two places of HBM, one from a hole, one into a spill area in use, one to itself; a multicast, a
group on a system channel; a list that is there and one that is not; a transfer with a burst that failed holds the next one back. -/
theorem wit_DmaTransfersMoveBytes :
    let s := (dma.modSett 0 (fun t => (t.putStore 0x2000 (leBytes 4 1)).putStore 0x2010 (leBytes 6 0x1000)))
    let c : Chan := .sett 0 2
    let bs := moveBursts 0 0x1000000000000080 0x1000 0x2000 0
    let own := moveBursts 0 0x1008000000000080 0x1000 0xF0000003000 0
    let spill := ((s.setReg (.te 0) 0x20 1).setReg (.te 0) 0x24 2).modSett 0 (fun t =>
      { t with tiles := [⟨5, 0, 0, false, .slot 0, 0, 1, 1, [], []⟩] })
    s.memOk = true ∧ (∀ u : Sett, s.mayMismatch u = false) ∧ (s.chan c).st = .run ∧ s.chanFrozen c = false ∧ s.progInside c 0 32 = true ∧
    (s.chan c).unfenced = [] ∧ (s.chan c).xfer = none ∧
    s.xferOpen c false = false ∧ s.xferOpen c true = false ∧ mcasting.xferOpen (.sett 0 1) true = true ∧ stale.xferOpen (.sett 0 1) false = true ∧
    (dmaOp 0x1000000000000080 = 1 ∧ moveOk 0x1000000000000080 0x1000 0x2000 0 = true ∧ s.burstsHeld c bs = false ∧
      bitsOf (0x1000000000000080#64).toNat 56 51 = 0 ∧ bs = [⟨0x1000, 0x2000, 0x80⟩] ∧ s.overlaps c bs = false ∧ s.intoSpill c bs = none ∧
      s.overlaps c [⟨0x1000, 0x1040, 0x80⟩] = true ∧
      (s.locate (chanDie c) 0x1000 false).1 = some (.hbm 0x1000) ∧ (s.locate (chanDie c) 0x2000 true).1 = some (.hbm 0x2000)) ∧
    (spill.intoSpill c [⟨0x1000, windowOf 0 + 0x400000 + spill.slotAddr 0 0, 8⟩]).isSome = true ∧
    (isTrans 0x6000000000 = false ∧ s.place 0x6000000000 false = none) ∧
    (moveOk 0x1008000000000080 0x1000 0xF0000003000 0 = true ∧ bitsOf (0x1008000000000080#64).toNat 56 51 = 1 ∧
      own = [⟨0x1000, 0xF0000003000, 0x80⟩] ∧ (ownStore 0 0xF0000003000 0x80).isSome = true ∧ ownStore 0 0x2000 0x80 = none ∧
      s.cfgBad (.tr (dieIx 0)) = false ∧ s.burstsHeld c own = false ∧ s.mcOverlaps 0 c own (s.members (dieIx 0) 1) = false) ∧
    (dmaOp 0x7000000000000080 = 7 ∧ lmoveOk 0x7000000000000080 0x0001000000002000 0x2000 = true ∧ storeSize < 0x2FFFF8 + 16 ∧
      (s.sett 0).word 0x2000 = 1 ∧ 0 + 1 ≤ (s.sett 0).word 0x2000 ∧ 0x2000 + 16 + 16 ≤ storeSize ∧
      rowBursts ((s.sett 0).store.num 0x2010 6 + 0) 0x2000 0x80 = [⟨0x1000, 0x2000, 0x80⟩]) := by decide +kernel

/-- A MOVE and an LMOVE put 1.0 at 0x2000; a hole is BOUNDS at its address; a multicast sends each member of its group a copy. -/
theorem test_move :
    let s := (dma.modSett 0 (fun t => (t.putStore 0x2000 (leBytes 4 1)).putStore 0x2010 (leBytes 6 0x1000)))
    (next (.move (.sett 0 2) 0x1000000000000080 0x1000 0x2000 0) dma).hbm.num 0x2000 4 = one ∧
    (next (.lmove (.sett 0 2) 0x7000000000000080 0x0001000000002000 0x2000 0) s).hbm.num 0x2000 4 = one ∧
    ((next (.move (.sett 0 2) 0x1000000000000080 0x6000000000 0x2000 0) dma).chan (.sett 0 2)).fault = some (0x14, 0x6000000000) ∧
    ((next (.move (.sys 3) 0x1008000000000080 0x1000 0x2000 0) dma).chan (.sys 3)).fault = some (0x14, 0x2000) := by decide +kernel

/-- DmaControlWordsTakeEffect: counts above 0 and 0, another pass and the last, waits that hold and do not, one behind the sequencer's, fences
of each kind. -/
theorem wit_DmaControlWordsTakeEffect :
    let c : Chan := .sett 0 2
    let lp := dmaWith (fun h => { h with loops := [(8, 1)] })
    let w := dmaWith (fun h => { h with st := .wait, waiting := some (9, 2, false) })
    let f (x : BitVec 64) := dmaWith (fun h => { h with st := .fence, fence := some x })
    let skip := dma.modSett 0 (fun t => t.putStore 8 (leBytes 8 0x3000000000000000))
    let seq := dma.modSett 0 (fun t => { t.sigAdd 9 2 with st := .wait, hold := .waits 9 1 false })
    (dma.progInside c 0 8 = true ∧ dmaOp 0x2000000000000003 = 2 ∧ bitsOf (0x2000000000000003#64).toNat 59 16 = 0 ∧
      0 < bitsOf (0x2000000000000003#64).toNat 15 0 ∧ (dma.chan c).loops.length < 2) ∧
    (bitsOf (0x2000000000000000#64).toNat 15 0 = 0 ∧ skip.progInside c 8 8 = true ∧ bitsOf (skip.progWord c 8) 63 60 = 3 ∧
      (match (skip.skipBody c 0 4 8 0 []).1 with | .found o => o | _ => 0) = 16) ∧
    (dmaOp 0x3000000000000010 = 3 ∧ bitsOf (0x3000000000000010#64).toNat 59 32 = 0 ∧ (lp.chan c).loops = [(8, 1)]) ∧
    (dmaOp 0x4000000900000002 = 4 ∧ bitsOf (0x4000000900000002#64).toNat 59 41 = 0 ∧ bitsOf (0x4000000900000002#64).toNat 39 38 = 0 ∧
      bitsOf (0x4000000900000002#64).toNat 31 16 = 0 ∧ bitsOf (0x4000000900000002#64).toNat 15 0 = 2 ∧
      ((0x4000000900000002#64).extractLsb' 32 6).toNat < 32 ∧ dma.chanSig c 9 < 2 ∧
      2 ≤ (dma.modSett 0 (fun t => t.sigAdd 9 2)).chanSig c 9 ∧ (dma.modSett 0 (fun t => t.sigAdd 9 2)).waitBehind c 9 = false) ∧
    ((w.chan c).st = .wait ∧ (w.chan c).waiting = some (9, 2, false) ∧ w.chanSig c 9 < 2 ∧ seq.waitBehind c 9 = true ∧
      2 ≤ (w.modSett 0 (fun t => t.sigAdd 9 2)).chanSig c 9 ∧ (w.modSett 0 (fun t => t.sigAdd 9 2)).waitBehind c 9 = false) ∧
    (((f 0x6000000000000000).chan c).fence = some 0x6000000000000000 ∧ (f 0x6000000000000000).chanPending c = false ∧
      (f 0x6000000000000000).xferOpen c false = false ∧ signalOk c 0x5000400900000001 = true ∧
      (f 0x5000400900000001).signalHeld c 0x5000400900000001 = false ∧
      ({ f 0x5000004900000001 with pkts := [⟨0, 1, 9, 1, 0⟩] } : State).signalHeld c 0x5000004900000001 = true) := by decide +kernel

/-- A LOOP of 3 has 2 passes left; ENDLOOP adds its step to AOR and goes back; a WAIT takes its amount; a HALT with nothing pending ends. -/
theorem test_dma_control :
    let lp := dmaWith (fun h => { h with loops := [(8, 1)], pc := 24 })
    let w := (dma.modSett 0 (fun t => t.sigAdd 9 2))
    let f := dmaWith (fun h => { h with st := .fence, fence := some 0x6000000000000000 })
    ((next (.dmaLoop (.sett 0 2) 0x2000000000000003) dma).chan (.sett 0 2)).loops = [(8, 2)] ∧
    (((next (.endloop (.sett 0 2) 0x3000000000000010) lp).chan (.sett 0 2)).aor, ((next (.endloop (.sett 0 2) 0x3000000000000010) lp).chan
      (.sett 0 2)).pc) = (16, 8) ∧
    (sett0 (.dmaWait (.sett 0 2) 0x4000000900000002) w).sig[9] = 0 ∧ ((next (.dmaFenceDone (.sett 0 2)) f).chan (.sett 0 2)).st = .idle ∧
    (next (.dmaFenceDone (.sys 3)) f).irqs = [.chan (.sys 3)] := by decide +kernel

/-- DmaChannelsStartAndStop: an idle and a running channel, one that Intake holds, a misaligned program, bursts with and without a retry left,
an abort with and without a transfer. -/
theorem wit_DmaChannelsStartAndStop :
    let x : Xfer := { staleXfer with bursts := [⟨0x1000, 0x2000, 0x80⟩], row := 0x80, stale := false, dead := [] }
    let a := dmaWith (fun h => { h with st := .aborting, fault := some (0x14, 0x99) })
    let m := dmaWith (fun h => { h with xfer := some x })
    (56 ≤ (63 : Fin 64).val ∧ Word.bit ((dma.setReg .intake 0 1).reg .intake 0) 0 = true) ∧ (dma.chan (.sys 3)).st ≠ .idle ∧
    (dma.chan (.sys 4)).st = .idle ∧ Word.bit (dma.reg .intake 0) 0 = false ∧ ((dma.setReg .dmX 0x120 4).reg .dmX 0x120).toNat % 8 ≠ 0 ∧
    (x.bursts[(0#32).toNat]? = some ⟨0x1000, 0x2000, 0x80⟩ ∧ x.multi = false ∧ (m.chan (.sys 3)).xfer = some x ∧
      Tbl.get x.tries 0 0 < (m.chan (.sys 3)).retryMax) ∧
    (dmaWith (fun h => { h with retryMax := 0, xfer := some x }) |>.chan (.sys 3)).retryMax ≤ Tbl.get x.tries 0 0 ∧
    ((a.chan (.sett 0 2)).st = .aborting ∧ a.chanPending (.sett 0 2) = false ∧ (a.chan (.sett 0 2)).xfer = none) ∧
    (x.residue (min (0#32).toNat x.undo.length)).2 ≠ 0 := by decide +kernel

/-- Burst 0 is issued again at its first error; with RETRY_MAX 0 it stops the channel; a drained abort leaves HALTED, the status and address. -/
theorem test_dma_stop :
    let x : Xfer := { staleXfer with bursts := [⟨0x1000, 0x2000, 0x80⟩], row := 0x80, stale := false, dead := [] }
    let a := dmaWith (fun h => { h with st := .aborting, fault := some (0x14, 0x99) })
    ((next (.burstBusErr (.sys 3) 0 true) (dmaWith (fun h => { h with xfer := some x }))).chan (.sys 3)).retry = 1 ∧
    ((next (.burstBusErr (.sys 3) 0 true) (dmaWith (fun h => { h with retryMax := 0, xfer := some x }))).chan (.sys 3)).fault =
      some (0x22, 0x1000) ∧
    (let h := (next (.dmaAbortDrained (.sys 3) 0) a).chan (.sys 3)
     (h.st, h.last, h.faddr, h.irq) = (ChSt.halted, 0x14, 0x99, true)) ∧
    (let h := (next (.dmaChannelStart 4 .mgmt) (dma.setReg .dmX 0x120 8)).chan (.sys 4)
     (h.st, h.prog) = (ChSt.run, 8)) ∧
    ((next (.dmaChannelAbort (.sys 3)) dma).chan (.sys 3)).st = .aborting := by decide +kernel


/-! ## Semaphores and endpoints (15) -/

/-- A running management core with the links of both ports up and their endpoints enabled. -/
def host : State :=
  let s := [(Blk.enHost, 0, 3), (.enHost, 4, 1), (.enMgmt, 0, 3), (.enMgmt, 4, 1)].foldl
    (fun (s : State) (p : Blk × Nat × Word) => s.setReg p.1 p.2.1 p.2.2) State.reset
  { s with pw := { s.pw with held := false }, sc := { s.sc with stage := .run } }

/-- A request of sequence number `n`. -/
def req (n : BitVec 32) (addr : BitVec 48) (arg : BitVec 32) (data : List Byte) : Req :=
  { epoch := 0, seq := n, addr := addr, arg := arg, data := data, ok := true }

/-- Endpoint A altered. -/
def hostWith (f : EpSt → EpSt) : State := { host with eps := host.eps.set 0 (f host.eps[0]) }

/-- What the module has sent. -/
def sent (s : State) : List (Nat × Nat × List Byte) := s.tx.filterMap (fun x => match x with
  | .eth f => (match f.body with
    | .resp r => some (r.opcode, r.status, r.data)
    | _ => none)
  | _ => none)

/-- SemaphoresHaveOneOwner: free, owned by the requester, by another; a release and writes that are none; an endpoint that is told. -/
theorem wit_SemaphoresHaveOneOwner :
    let s := (host.setReg .sm 0 1).setReg .sm 124 2
    s.reg .sm (4 * (1 : Fin 32).val) = 0 ∧ (s.reg .sm (4 * (0 : Fin 32).val)).toNat = 1 ∧ (s.reg .sm (4 * (31 : Fin 32).val)).toNat ≠ 1 ∧
    s.reg .sm (4 * (31 : Fin 32).val) ≠ 0 ∧ bitOf ((hostWith (fun e => { e with mask := 32 })).eps[0]).mask 5 = true := by decide +kernel

theorem test_semaphores :
    let a := next (.smSemRead 5 .endA) host
    a.reg .sm 20 = 1 ∧ a.rdata[0] = (0, 0) ∧ (next (.smSemRead 5 .endB) a).rdata[1] = (1, 0x61) ∧
    (next (.smSemWrite 5 .endB 0) a).reg .sm 20 = 1 ∧ (next (.smSemWrite 5 .endA 0) a).reg .sm 20 = 0 ∧
    (next (.smForce 5) a).reg .sm 20 = 0 ∧ (next (.smForce 5) a).recs.map (·.status) = [0] := by decide +kernel

/-- EndpointRequestsFollowTheWindow: each state of a port, each place of a sequence number against the window, a full endpoint. -/
theorem wit_EndpointRequestsFollowTheWindow :
    let q := req 7 0 0 []
    let w := hostWith (fun e => { e with high := some 7, win := [⟨7, none⟩, ⟨6, some (host.mkResp 0 1 6 0 0)⟩] })
    let full := hostWith (fun e => { e with held := List.replicate 2048 ⟨0, none, false, false⟩ })
    let late := hostWith (fun e => { e with held := [⟨2 ^ 32 - 2048 + 7, none, false, false⟩] })
    State.reset.ctOn 0 = false ∧ host.ctOn 0 = true ∧ host.cfgBad (portBlk 0) = false ∧ q.epoch.toNat = (host.eps[0]).epoch ∧
    { q with epoch := 1 }.epoch.toNat ≠ (host.eps[0]).epoch ∧ (host.eps[0]).high = none ∧ 2048 ≤ full.inFlight 0 ∧
    (∃ x ∈ late.flying 0, inWindow q.seq.toNat x = false) ∧
    ((w.eps[0]).high = some 7 ∧ 0 < signedOf 32 ((8#32).toNat + 2 ^ 32 - 7) ∧ signedOf 32 ((7#32).toNat + 2 ^ 32 - 7) ≤ 0 ∧
      -2048 < signedOf 32 ((7#32).toNat + 2 ^ 32 - 7) ∧ signedOf 32 ((0xFFFFF807#32).toNat + 2 ^ 32 - 7) ≤ -2048) ∧
    (w.eps[0]).win.find? (fun x => x.seq == (7#32).toNat) = some ⟨7, none⟩ ∧
    ((w.eps[0]).win.find? (fun x => x.seq == (6#32).toNat)).map (·.resp.isSome) = some true ∧
    host.accepts 0 q = true ∧ (reqFit { q with ok := false } = false ∧ reqFit { q with flags := 1 } = false ∧ reqFit q = true) ∧
    (host.stranger 0 0 = false ∧ (host.setReg .enHost 0x44 9).stranger 0 0 = true) ∧
    ({ host with sc := { host.sc with stage := .recovery } }.sc.stage == .run) = false := by
  refine ⟨by decide +kernel, by decide +kernel, by decide +kernel, by decide +kernel, by decide +kernel, by decide +kernel,
    by decide +kernel, ⟨2 ^ 32 - 2048 + 7, by decide +kernel, by decide +kernel⟩, by decide +kernel, by decide +kernel, by decide +kernel,
    by decide +kernel, by decide +kernel, by decide +kernel, by decide +kernel⟩

/-- A new request is answered; its duplicate with DONE_REPEAT; one 2,048 behind with BOUNDS; another epoch's with ABORTED. -/
theorem test_window :
    let s := next (.ctNop 0 (req 7 0 0 [])) host
    sent s = [(1, 0, [])] ∧ sent (next (.ctNop 0 (req 7 0 0 [])) s) = [(1, 0, []), (1, 3, [])] ∧
    sent (next (.ctNop 0 (req 0xFFFFF807 0 0 [])) s) = [(1, 0, []), (1, 0x14, [])] ∧
    sent (next (.ctNop 0 { req 8 0 0 [] with epoch := 1 }) host) = [(1, 0x60, [])] := by decide +kernel

/-- The words of a queue-pair context in a state (15 Table 15-5), all other bytes 0 where `qpBytesOk` holds. -/
def qpIn (st : Nat) : List Byte := { Qp.parse (List.replicate 64 0) with st := st, pmtu := 4096 }.bytes

/-- EndpointImmediateCommandsAnswer: register ranges of each kind, memory ranges at both ends, contexts for each change of state. -/
theorem wit_EndpointImmediateCommandsAnswer :
    let o := (Blk.ht 3).addr 0x20
    host.accepts 0 (req 7 (BitVec.ofNat 48 o) 8 []) = true ∧ (o % 4 = 0 ∧ 4 ≤ 8 ∧ 8 ≤ 256 ∧ 8 % 4 = 0) ∧
    (regTarget o = some (.ht 3, 0x20, 0) ∧ regTarget (o + 4) = some (.ht 3, 0x24, 0)) ∧ (host.reg .injX 0).toNat % 2 = 0 ∧
    host.regs.badA = [] ∧ host.acc = Vector.replicate 3 [] ∧ host.latch = Vector.replicate 3 none ∧ (Blk.ht 3).sett? = none ∧
    host.rangeFrozen 0x1000 4096 = false ∧ (frozen 0 0 [] []).rangeFrozen (windowOf 0) 4 = true ∧ (∀ u : Sett, host.mayMismatch u = false) ∧
    (pieces 0xFFF 2 = [(0xFFF, 1), (0x1000, 1)] ∧ isTrans 0xFFF = false ∧ host.place 0xFFF true = some (.hbm 0xFFF) ∧
      host.place 0x6000000000 false = none ∧ isTrans transBase = true) ∧
    (memFaultOk 0x1000 0x23 = true ∧ memFaultOk burrowBase 0x22 = true ∧ memFaultOk settBase 0x20 = true) ∧
    (0x1000 + 2 ≤ hbmSize ∧ burrowBase ≤ burrowBase ∧ burrowBase + 4096 ≤ 0x20000000000) ∧
    (qpIn 1).length = 64 ∧ qpBytesOk (qpIn 1) = true ∧ (host.qp 1023).st = 0 ∧ qpMay 0 1 = true ∧ qpMay 0 3 = false ∧
    (Qp.parse (qpIn 1)).st = 1 ∧ (List.replicate 24 (0 : Byte)).length = 24 := by decide +kernel

/-- MEM_WRITE and MEM_READ; a register written and read back through a Holt's block is what its access codes keep; a queue pair in state 1. -/
theorem test_immediate :
    (next (.memWrite 0 ⟨req 7 0x1000 0 [1, 2], none⟩) host).hbm.num 0x1000 2 = 0x201 ∧
    sent (next (.memRead 0 ⟨req 7 0x1000 2 [], none⟩) (host.putHbm 0x1000 [1, 2])) = [(4, 0, [1, 2])] ∧
    sent (next (.memRead 0 ⟨req 7 0 4097 [], none⟩) host) = [(4, 0x14, [])] ∧
    sent (next (.memRead 0 ⟨req 7 0x1000 2 [], some 0x23⟩) host) = [(4, 0x23, [])] ∧
    sent (next (.qpQuery 0 (req 7 0 1024 [])) host) = [(0x21, 0x14, [])] ∧
    ((next (.notifySet 0 (req 7 0 0 (List.replicate 20 1 ++ leBytes 4 5))) host).eps[0]).mask = 0 ∧
    ((next (.notifySet 0 (req 7 0 0 (List.replicate 18 1 ++ leBytes 2 0 ++ leBytes 4 5))) host).eps[0]).mask = 5 := by decide +kernel

/-- A plan load by endpoint A, which owns semaphore 0, its report at 0x20000; an attestation in progress; a deferred command, ready. -/
def owner : State := host.setReg .sm 0 1
def heldA (r : Option (Nat × List Byte)) : State := hostWith (fun e => { e with held := [⟨9, r, false, false⟩] })

/-- DeferredCommandsAreHeldAndResolved: the premises of each command, of its results, of RESYNC, a deferral and the loader. -/
theorem wit_DeferredCommandsAreHeldAndResolved :
    let q := req 9 0x10000 0 (leBytes 8 0x20000)
    let hq := req 9 0x1000 0 []
    let dq := req 9 0 55 (leBytes 8 0x3000 ++ leBytes 8 5)
    let rr := req 0 0 9 []
    let at_ : Attest := ⟨0, 9, 0x8000, List.replicate 32 0, 0, 0, 0, host.sc.m, host.sc.log, host.sc.ctrs.toList⟩
    let asking := { heldA none with sc := { host.sc with attest := [at_] } }
    let loading : State := { owner with load := some ⟨0, 9, 0x10000, 0x20000, none⟩, eps := (heldA none).eps }
    (host.accepts 0 q = true ∧ (host.eps[0]).held = [] ∧ host.sc.stage = .run ∧ q.data.length = 8) ∧
    ((owner.reg .sm 0).toNat = 1 ∧ (host.reg .sm 0).toNat ≠ 1 ∧ inTier 0x20000 320 = true ∧ inTier 0x6000000000 320 = false ∧ owner.load = none ∧
      loading.load.isSome = true) ∧
    (inHbm 0x1000 64 = true ∧ (host.putHbm 0x1000 (fillBlock 0x2000 64)).accepts 0 hq = true ∧
      blk ((host.putHbm 0x1000 (fillBlock 0x2000 64)).hbm.load 0x1000 64) 0 1 = 6 ∧ inHbm 0x6000000000 64 = false) ∧
    (dq.arg.toNat = 55 ∧ dq.data.length = 16 ∧ leNat (dq.data.take 8) = 0x3000 ∧ (host.chan (.sys 55)).still = true) ∧
    (0x8000 % 4096 = 0 ∧ inHbm 0x8000 32768 = true ∧ host.sc.locked = false ∧ { host.sc with unlocked := true }.unlocked = true) ∧
    (asking.sc.attest = [at_] ∧ (asking.eps[0]).held.find? (fun h => h.seq == 9 && h.ready.isNone) = some ⟨9, none, false, false⟩) ∧
    (host.takes 0 rr = true ∧ (heldA none).takes 0 rr = true ∧ ((heldA none).eps[0]).held.find? (fun h => h.seq == (heldA none).cmdNo 0 9) =
      some ⟨9, none, false, false⟩ ∧ ((heldA (some (0, [1]))).eps[0]).held.find? (fun h => h.seq == 9) = some ⟨9, some (0, [1]), false, false⟩) ∧
    (host.ctOn 0 = true ∧ (host.eps[0]).epoch ≠ 3) ∧ loading.load = some ⟨0, 9, 0x10000, 0x20000, none⟩ ∧ inTier 0x20000 320 = true ∧
    (loading.planChecks 0x10000).2.2.2 ≠ [] := by decide +kernel

/-- The same: a load that its memory fails, a Holt block of the management core, accesses that wait. -/
theorem wit_DeferredCommandsWait :
    let acc : RegReq := { oneWrite 0 0 with link := some (0, 3, 9, 0, 0, 0) }
    let waits : State := { host with acc := host.acc.set 0 [acc] }
    let m : MemAcc := { ep := 0, no := 9, arg := 0, addr := 0x1000, n := 4, write := false, data := [], peer := (0, 0), checked := 0, flt := none,
                        begun := false, out := 0, status := 0, conv := false, mute := false }
    let mem : State := { host with mems := [m] }
    (next (.hbmAccessComplete 0x10000 false false (.ecc 2) .loader) { owner with load := some ⟨0, 9, 0x10000, 0x20000, none⟩ }).load =
      some ⟨0, 9, 0x10000, 0x20000, some 0x23⟩ ∧
    ((heldA none).eps[0]).held.find? (fun h => h.seq == 9 && h.ready.isNone) = some ⟨9, none, false, false⟩ ∧
    State.reset.sc.stage ≠ .run ∧ host.sc.stage = .run ∧
    (waits.accOf (epReq 0) = [acc] ∧ waits.cmdNo 0 9 = 9 ∧ acc.conv = false ∧ acc.mute = false) ∧
    (mem.mems = [m] ∧ mem.cmdNo 0 9 = 9 ∧ mem.accOf (epReq 0) = []) := by decide +kernel

/-- A LOAD_PLAN without semaphore 0 is denied; with it, held; a result is read and retired; a RESYNC frees the endpoint's semaphores. -/
theorem test_deferred :
    sent (next (.loadPlan 0 (req 9 0x10000 0 (leBytes 8 0x20000))) host) = [(0x10, 0x61, [])] ∧
    ((next (.loadPlan 0 (req 9 0x10000 0 (leBytes 8 0x20000))) owner).eps[0]).held = [⟨9, none, false, false⟩] ∧
    sent (next (.resultRead 0 (req 0 0 9 [])) (heldA (some (0, [1])))) = [(0x40, 0, [1])] ∧
    ((next (.retire 0 (req 0 0 9 [])) (heldA (some (0, [1])))).eps[0]).held = [] ∧
    (next (.resync 0 (req 0 0 3 [])) owner).reg .sm 0 = 0 ∧ ((next (.resync 0 (req 0 0 3 [])) owner).eps[0]).epoch = 3 := by decide +kernel


/-! ## Ports, queue pairs, Viaduct (15, 16) -/

/-- A frame of 64 bytes for the host or the management port's own address. -/
def frame (p : Fin 2) (k : FrameKind) : Frame := ⟨true, 64, BitVec.ofNat 48 (host.mac p), none, false, false, false, k⟩

/-- Both links up, receive buffer 1 of 20 units with a headroom of 8 and a gap of 4, lossless; ECN on, gap 1. -/
def eth : State :=
  [(Blk.enHost, 0x64, 20 * 2 ^ 19 + 8 * 2 ^ 9 + 4), (.enHost, 0x60, 20 * 2 ^ 19), (.enHost, 0x50, 2), (.enHost, 0x54, 0x80000001),
   (.enMgmt, 0x10, 0x0A000001), (.enMgmt, 0x28, 9)].foldl (fun (s : State) (p : Blk × Nat × Word) => s.setReg p.1 p.2.1 p.2.2) host

/-- The frames the module has sent: port, priority, what they hold. -/
def frames (s : State) : List (Nat × Nat × EthBody) := s.tx.filterMap (fun x => match x with
  | .eth f => some (f.port.val, f.prio, f.body)
  | _ => none)

/-- EthernetPortsTakeFrames: ports that are and are not enabled and up, occupancies about the thresholds, each kind of frame. -/
theorem wit_EthernetPortsTakeFrames :
    let f := frame 1 .other
    let full : State := { eth with rxOcc := eth.rxOcc.set 1 20 }
    let paused := (eth.setReg .enHost 4 0x201)
    let atXon : State := { paused with rxOcc := paused.rxOcc.set 1 8 }
    Word.bit ((host.setReg .enHost 0 0).reg .enHost 0) 0 = false ∧ Word.bit (eth.reg .enHost 0) 0 = true ∧ eth.linkUp 0 = true ∧ State.reset.linkUp 0 = false ∧
    (Word.bit (eth.reg .enHost 0x50) 1 = true ∧ Word.bit (paused.reg .enHost 4) 9 = true ∧ 20 - 8 - 4 ≤ atXon.rxOcc[1] ∧
      (7#13).toNat < atXon.rxOcc[1] ∧ (7#13).toNat < 20 - 8 - 4 ∧ atXon.rxOcc[1] ≤ (8#13).toNat) ∧
    (f.fcsOk = true ∧ f.len.toNat ≤ 9216 ∧ f.dst.toNat = eth.mac 1 ∧ (eth.reg .injX 0).toNat % 2 = 0) ∧
    (eth.reg .enMgmt 0x10 = 0x0A000001 ∧ (0x0A000001#32 ≠ 0)) ∧ (9#16).toNat = fieldOf (eth.reg .enMgmt 0x28) 15 0 ∧
    Word.bit (eth.reg .enMgmt 0) 1 = true ∧ fieldOf (eth.reg .enHost 0x64) 31 19 = 20 ∧ 20 < full.rxOcc[1] + (64 + 4095) / 4096 ∧
    fieldOf (eth.reg .enHost 0x64) 18 9 = 8 ∧ fieldOf (eth.reg .enHost 0x64) 8 0 = 4 ∧
    Word.bit (eth.reg .enHost 0x54) 31 = true ∧ Tbl.find eth.cnpAt 7 = none ∧
    ((host.setReg .enMgmt 0x14 1).ip6 1 ≠ 0 ∧ (host.setReg .enMgmt 0x14 1).ip6 1 / 2 ^ 32 ≠ 0xFFFF) ∧ eth.peer 0 = 0 ∧
    (next (.pfcFrameReceived 2 [0, 5]) eth).pause[1] ≠ 0 ∧ eth.txWait = [] := by decide +kernel

/-- A bad check sequence is dropped and counted; an ARP request is answered; buffer 1 pauses at 12 units and is full at 20. -/
theorem test_ethernet :
    let at11 : State := { eth with rxOcc := eth.rxOcc.set 1 11 }
    let at20 : State := { eth with rxOcc := eth.rxOcc.set 1 20 }
    let f1 : Frame := { frame 0 .other with prio := some 1 }
    (next (.rxFrame 1 { frame 1 .other with fcsOk := false }) eth).reg .enMgmt 0x80 = 1 ∧
    frames (next (.rxFrame 1 (frame 1 (.arp 0x0A000001))) eth) = [(1, 0, .arp 0x0A000001 (host.mac 1))] ∧
    (next (.rxFrame 0 f1) eth).tx = [] ∧ (next (.rxFrame 0 f1) at11).tx = [.pfc 1 0xFFFF] ∧ (next (.rxFrame 0 f1) at20).reg .enHost 0x80 = 1 ∧
    frames (next (.rxFrame 0 { frame 0 (.roce 7 true) with prio := some 0 }) eth) = [(0, 0, .cnp 7)] := by decide +kernel

/-- A frame of a paused priority waits until the pause ends (15 R373). -/
theorem test_paused_frame :
    let s := next (.ctNop 0 (req 7 0 0 [])) (next (.pfcFrameReceived 1 [5]) eth)
    sent s = [] ∧ s.txWait.length = 1 ∧ sent (next (.pfcPauseExpiry 0) s) = [(1, 0, [])] := by decide +kernel

theorem test_pfc :
    let paused : State := { (eth.setReg .enHost 4 0x201) with rxOcc := eth.rxOcc.set 1 8 }
    (next (.rxBufferOccupancyFall 1 7) paused).tx = [.pfc 1 0] ∧ (next (.rxBufferOccupancyFall 1 7) paused).reg .enHost 4 = 1 ∧
    (next (.pfcXoffRepeat 1) paused).tx = [.pfc 1 0xFFFF] ∧ (next (.pfcFrameReceived 2 [0, 5]) eth).pause[1] = 5 ∧
    (next (.pfcPauseExpiry 1) (next (.pfcFrameReceived 2 [0, 5]) eth)).pause[1] = 0 ∧
    Word.bit ((next (.ethernetLinkUp 0 false) eth).reg .enHost 4) 0 = false := by decide +kernel

/-- Queue pair 5 ready to send, region 2 of 4 KiB at HBM 0x10000 with key 0x77 for reads and writes, a ring of two entries at 0x10000;
an access of the queue pair outstanding. -/
def rdma (st : Nat) (l : List RAcc) : State :=
  let s := [(Blk.enHost, 0x420, 0x10000), (.enHost, 0x428, 1), (.enHost, 0x42C, 0xE0000077), (.enHost, 0x58, 0x06400400)].foldl
    (fun (s : State) (p : Blk × Nat × Word) => s.setReg p.1 p.2.1 p.2.2) eth
  { s.setQp 5 { s.qp 5 with st := st, rqBase := 0x10000, rqSize := 2, retry := 3, rate := 400, rateExp := 0 } with roce := l }

/-- QueuePairsAndInboundRdma: states that receive and one that does not, the first and last byte of a region and a byte past it, accesses, rates. -/
theorem wit_QueuePairsAndInboundRdma :
    let s := rdma 3 []
    (s.qp 5).st = 3 ∧ ((rdma 0 []).qp 5).st ≠ 3 ∧
    (0x02000077 / 2 ^ 24 < 64 ∧ Word.bit (s.reg .enHost 0x42C) 31 = true ∧ Word.bit (s.reg .enHost 0x42C) 30 = true ∧
      Word.bit (s.reg .enHost 0x42C) 29 = true ∧ fieldOf (s.reg .enHost 0x42C) 23 0 = 0x02000077 % 2 ^ 24 ∧
      (s.reg .enHost 0x420).toNat + fieldOf (s.reg .enHost 0x424) 15 0 * 2 ^ 32 = 0x10000 ∧ (s.reg .enHost 0x428).toNat * 4096 = 0x1000) ∧
    (s.readMod none 0x10FFC 4).1.isSome = true ∧ ¬ 0x10FFD + 4 ≤ 0x11000 ∧ s.linkUp 0 = true ∧ State.reset.linkUp 0 = false ∧
    (let r : RAcc := ⟨5, true, .burst (.sys 3) 0, 0x80000000000, 4, none, [1, 2, 3, 4], some (0, 0)⟩
     let x : RAcc := ⟨5, false, .burst (.sys 3) 0, 0x80000000000, 4, some (.hbm 0x3000), [], some (0, 0)⟩
     (rdma 3 [r]).remoteHeld r = false ∧ (rdma 3 [r]).roce.find? (fun r => r.qp == 5 && r.sent.isSome) = some r ∧ r.dst = none ∧
     ((rdma 3 [r]).chan (.sys 3)).xfer = none ∧ x.dst = some (.hbm 0x3000) ∧ staleXfer.multi = false ∧
     ({ r with sent := none } : RAcc).sent = none) ∧
    (let r : RAcc := ⟨5, false, .burst (.sett 0 1) 0, 0x80000000000, 4, some (.store 0 0), [], some (0, 0)⟩
     ((rdma 3 [r]).modSett 0 (fun t => { t with freeze := some ⟨.flit, 9, 0, 0, false, false, none⟩ })).remoteHeld r = true) ∧
    Word.bit (s.reg .enHost 0x54) 31 = true ∧ Word.bit ((s.setReg .enHost 0x54 4).reg .enHost 0x54) 31 = false := by decide +kernel

/-- A WRITE lands, one past the region is refused; a READ returns bytes; a CNP halves the rate and recovery adds 1 Gb/s. -/
theorem test_rdma :
    let s := rdma 3 []
    (next (.rdmaWriteInbound 5 0x02000077 0x10FFE [8, 9]) s).hbm.num 0x10FFE 2 = 0x908 ∧
    frames (next (.rdmaWriteInbound 5 0x02000077 0x10FFF [8, 9]) s) = [(0, 0, .ack 5 false [])] ∧
    frames (next (.rdmaReadInbound 5 0x02000077 0x10FFE 1) s) = [(0, 0, .ack 5 true [0])] ∧
    ((next (.cnpReceived 5) s).qp 5).rateExp = 1 ∧ ((next (.rateRecovery 5) s).qp 5).rate = 401 := by decide +kernel

/-- An access of queue pair 5: a write that its acknowledgement completes; three timeouts, then ERROR; a fatal NAK. -/
theorem test_roce :
    let r : RAcc := ⟨5, true, .burst (.sys 3) 0, 0x80000000000, 4, none, [1, 2, 3, 4], some (0, 0)⟩
    (next (.roceAckReceived 5 false []) (rdma 3 [r])).roce = [] ∧ ((next (.qpAckTimeout 5) (rdma 3 [r])).qp 5).tries = 1 ∧
    ((next (.roceAckReceived 5 true []) (rdma 3 [r])).qp 5).st = 4 := by decide +kernel


/-! ## Viaduct (16) -/

/-- A flit of twelve bytes and zeros, its check after them. -/
def flit (h : List Byte) (c : Nat) : List Byte :=
  (h ++ List.replicate 51 0 ++ List.replicate 63 0 ++ List.replicate 63 0 ++ List.replicate 63 0) ++ leBytes 4 c

theorem crc_flit (h : List Byte) (w x y z : BitVec 32) (h0 : crcFrom 0xFFFFFFFF#32 (h ++ List.replicate 51 0) = w)
    (h1 : crcFrom w (List.replicate 63 0) = x) (h2 : crcFrom x (List.replicate 63 0) = y) (h3 : crcFrom y (List.replicate 63 0) = z) :
    crc32 (h ++ List.replicate 51 0 ++ List.replicate 63 0 ++ List.replicate 63 0 ++ List.replicate 63 0) = (z ^^^ 0xFFFFFFFF#32).toNat := by
  rw [crc32_eq, crcFrom_append, crcFrom_append, crcFrom_append, h0, h1, h2, h3]

/-- A HEAD of VC1 from rank 7 to rank 1 with SEQ 0 and SGEN 2; an IDLE with ACK 5; the same with NAK. -/
def mheadFlit : List Byte := flit [0, 16, 255, 111, 0, 9, 7, 0, 1, 0, 0, 0] 0x9AD87744
def idleOkFlit : List Byte := flit [0, 0, 5, 96, 0, 0, 0, 0, 0, 0, 0, 0] 0xA9A520D6
def nakFlit : List Byte := flit [0, 0, 5, 112, 0, 0, 0, 0, 0, 0, 0, 0] 0xBA87F195

/-- Each of them has the length and the check of a good flit (16 R380, the CRC of 16 Table 16-1). -/
theorem good_mhead : mheadFlit.length = 256 ∧ leNat ((mheadFlit.drop 252).take 4) = crc32 (mheadFlit.take 252) := by
  have hc := crc_flit [0, 16, 255, 111, 0, 9, 7, 0, 1, 0, 0, 0] 0xCD9D6256#32 0xB0D8A440#32 0xD8742610#32 0x652788BB#32 (by decide +kernel) (by decide +kernel) (by decide +kernel)
    (by decide +kernel)
  have ht : mheadFlit.take 252 = [0, 16, 255, 111, 0, 9, 7, 0, 1, 0, 0, 0] ++ List.replicate 51 0 ++ List.replicate 63 0 ++ List.replicate 63 0 ++ List.replicate 63 0 := by
    decide +kernel
  rw [ht, hc]
  decide +kernel

theorem good_idleOk : idleOkFlit.length = 256 ∧ leNat ((idleOkFlit.drop 252).take 4) = crc32 (idleOkFlit.take 252) := by
  have hc := crc_flit [0, 0, 5, 96, 0, 0, 0, 0, 0, 0, 0, 0] 0x1C14BA03#32 0xCB6554DC#32 0x176089E3#32 0x565ADF29#32 (by decide +kernel) (by decide +kernel) (by decide +kernel)
    (by decide +kernel)
  have ht : idleOkFlit.take 252 = [0, 0, 5, 96, 0, 0, 0, 0, 0, 0, 0, 0] ++ List.replicate 51 0 ++ List.replicate 63 0 ++ List.replicate 63 0 ++ List.replicate 63 0 := by
    decide +kernel
  rw [ht, hc]
  decide +kernel

theorem good_nak : nakFlit.length = 256 ∧ leNat ((nakFlit.drop 252).take 4) = crc32 (nakFlit.take 252) := by
  have hc := crc_flit [0, 0, 5, 112, 0, 0, 0, 0, 0, 0, 0, 0] 0x07376A38#32 0x623A8D23#32 0x386BC07D#32 0x45780E6A#32 (by decide +kernel) (by decide +kernel) (by decide +kernel)
    (by decide +kernel)
  have ht : nakFlit.take 252 = [0, 0, 5, 112, 0, 0, 0, 0, 0, 0, 0, 0] ++ List.replicate 51 0 ++ List.replicate 63 0 ++ List.replicate 63 0 ++ List.replicate 63 0 := by
    decide +kernel
  rw [ht, hc]
  decide +kernel

/-- Port 3 up and ranks 1 (hosted), 7 (GEN 2, port 3) and 9 (LOCAL) routed; queue 31 of four entries at HBM 0x1000, its tail there too. -/
def vdWith (f : VPort → VPort) : State :=
  let s := [(Blk.vd, 0x160, 0x80000000), (.vd, 0, 1), (.vd, 0x101C, 0x80000203), (.vd, 0x1024, 0xC0000000), (.vd, 0x7E0, 0x1000),
    (.vd, 0x7E8, 4), (.vd, 0x7EC, 0x800), (.vd, 0x7F8, 0x80000000)].foldl
    (fun (s : State) (p : Blk × Nat × Word) => s.setReg p.1 p.2.1 p.2.2) State.reset
  s.modPort 3 f

def upPort (v : VPort) : VPort := { v with up := true, credits := #v[0, 0, 0] }

/-- ViaductLinksCarryFlits: a port in each state, one lane and two, a good flit of each kind and one spoiled, seven and eight failures,
a tail at the size of its queue and one past it, a tail outside HBM. -/
theorem wit_ViaductLinksCarryFlits :
    let s := vdWith upPort
    let f (b : List Byte) (o n : Nat) : Nat := leNat ((b.drop o).take n)
    let down := vdWith (fun v => v)
    let held := vdWith (fun v => { upPort v with held := [(6, idleOkFlit)] })
    let tail (n : Nat) : State := { s with hbm := s.hbm.store 0x800 (leBytes 4 n) }
    ((∀ x ∈ [16, 16], x = (16 : Fin 17)) ∧ laneShift [16, 16, 16] = some 16 ∧ laneShift [16, 0] = none ∧ laneShift [] = some 17) ∧
    (Word.bit (s.reg .vd 0x160) 31 = true ∧ Word.bit (s.reg .vd 0x100) 31 = false ∧ (down.vport 3).up = false ∧ (down.vport 3).waiting = []) ∧
    ((s.vport 3).up = true ∧ (s.vport 3).training = false ∧ (s.reg .injX 0).toNat % 2 = 0 ∧ (s.vport 3).waiting = [] ∧ (s.vport 3).spoil = false) ∧
    ((mheadFlit.take 255).length ≠ 256 ∧ (s.vport 3).fails < 7 ∧ 7 ≤ ((vdWith (fun v => { upPort v with fails := 7 })).vport 3).fails) ∧
    ((f idleOkFlit 0 2 / 4096 = 0 ∧ bitOf (f idleOkFlit 2 2) 12 = false ∧ f idleOkFlit 2 2 / 2 ^ 13 % 4 = 3) ∧
      (bitOf (f nakFlit 2 2) 12 = true ∧ (held.vport 3).held.filter (fun h => decide (2048 ≤ seqDist 5 h.1)) = (held.vport 3).held ∧
        (held.vport 3).naks = 0) ∧
      (f mheadFlit 0 2 / 4096 = 1 ∧ f mheadFlit 5 1 % 4 = 1 ∧ seqDist 0 (s.vport 3).rxAck = 1 ∧ f mheadFlit 6 2 % 1024 = 7 ∧
        s.rankGen 7 = f mheadFlit 5 1 / 4 % 16 ∧ s.hosted (f mheadFlit 8 2 % 1024) = true ∧ s.hosted 2 = false) ∧
      seqDist 0 ((vdWith (fun v => { upPort v with rxAck := 0 })).vport 3).rxAck ≠ 1) ∧
    (s.wqOn 31 = true ∧ s.wqOn 0 = false ∧ inHbm 0x800 4 = true ∧ inHbm 0x5FFFFFFFFD 4 = false ∧ (tail 4).hbm.num 0x800 4 = 4 ∧
      fieldOf (s.reg .vd 0x7E8) 16 0 = 4 ∧ s.wqHead 31 = 0) := by decide +kernel

/-- One lane repairs, two do not; a short flit counts a failure, the eighth retrains; a tail is taken at its size and halts past it. -/
theorem test_viaduct :
    let s := vdWith upPort
    let d := vdWith (fun v => v)
    ((next (.viaductPortTrain 3 [4, 4] [] 9 8 7) d).vport 3).txShift = 4 ∧ ((next (.viaductPortTrain 3 [4, 4] [] 9 8 7) d).vport 3).rxShift = 17 ∧
    ((next (.viaductPortTrain 3 [4, 4] [] 9 8 7) d).vport 3).credits = #v[9, 8, 7] ∧ ((next (.viaductPortTrain 3 [4, 5] [] 9 8 7) d).vport 3).up = false ∧
    ((next (.viaductFlitReceived 3 []) s).vport 3).fails = 1 ∧
    ((next (.viaductFlitReceived 3 []) (vdWith (fun v => { upPort v with fails := 7 }))).vport 3).training = true ∧
    (next (.wqTailPoll 31) { s with hbm := s.hbm.store 0x800 [4] }).vd.tails[31] = 4 ∧
    Word.bit ((next (.wqTailPoll 31) { s with hbm := s.hbm.store 0x800 [5] }).reg .vd 0x7F8) 30 = true ∧
    ((next (.viaductPortDown 3) s).recs.map (·.status)) = [Code.busErr] := by decide +kernel

/-- A work-queue entry (16 Table 16-2). -/
def entry (op fl rank len src dst step gate : Nat) : List Byte :=
  leBytes 1 op ++ leBytes 1 fl ++ leBytes 2 rank ++ leBytes 4 len ++ leBytes 8 src ++ leBytes 8 dst ++ List.replicate 8 0 ++ leBytes 4 step ++
  leBytes 1 gate ++ List.replicate 27 0

/-- Queue 31 with one entry ready; receive window 15 of one page at HBM 0x5000. -/
def wq (e : List Byte) : State :=
  let s := vdWith upPort
  let s1 := (((s.setReg .vd 0x8F0 0x5000).setReg .vd 0x8F8 1).setReg .vd 0x8FC 0x80000000).modVd (fun v => { v with tails := v.tails.set 31 1 })
  { s1 with hbm := s1.hbm.store 0x1000 e }

/-- A gate of one member, rank 7: a sum of two elements, slot at 0x80000, result at 0x100000, late slot at 0x180000, a deadline, and `fl`. -/
def gateDesc (fl : Nat) : List Byte :=
  leBytes 1 0 ++ leBytes 1 fl ++ leBytes 1 1 ++ leBytes 1 0 ++ leBytes 4 2 ++ leBytes 6 0x2000 ++ leBytes 2 1 ++ leBytes 8 0x80000 ++
  leBytes 8 0x80000 ++ leBytes 8 0x100000 ++ leBytes 8 0x180000 ++ leBytes 4 100 ++ List.replicate 12 0

def arming : State :=
  let s := wq (entry 3 0 0 0 0x40 0 9 63)
  { s with hbm := (s.hbm.store 0x40 (gateDesc 0)).store 0x2000 [7] }

/-- A message to rank 1, from the module itself. -/
def msgOf (vc : Nat) (e data : List Byte) (cls : Option VCls) : VMsg := ⟨none, (31, 0), 7, 1, vc, e, data, true, cls, 0, none⟩

/-- Gate 63 at step 9 in a state, with a message waiting. -/
def gateWith (fl : Nat) (m : List VMsg) (f : Gate → Gate) : State :=
  (State.reset.modGate 63 (fun g => f { g with step := 9, desc := gateDesc fl, members := [7] })).modVd (fun v => { v with msgs := m })

def contribOf (step : Nat) (cls : Option VCls) : VMsg := msgOf 1 (entry 2 0 1 8 0 0 step 63) [0, 0, 0x80, 0x3F, 0, 0, 0, 0x40] cls

/-- WorkQueuesAndGates, the queue: an entry of each kind ready, its checks passed and failed, each kind of route and of port. -/
theorem wit_WorkQueuesAndGates_queue :
    let w := wq (entry 1 0 7 1 0x5000 0x5FFF 0 0)
    let c := wq (entry 2 0 7 4 0x5000 0 0 63)
    (w.wqOn 31 = true ∧ w.wqHead 31 = 0 ∧ w.vd.tails[31] = 1 ∧ w.vd.skip = [] ∧ w.wqOn 0 = false ∧ w.wqHead 0 = w.vd.tails[0]) ∧
    (w.rangeFrozen 0x5000 1 = false ∧ w.cfgBad .vd = false ∧ { w with cfgHalt := [Blk.vd.base] }.cfgBad .vd = true ∧
      (∀ u : Sett, w.mayMismatch u = false)) ∧
    (let e := w.wqEntry 31 0; eOp e = 1 ∧ entryOk e = true ∧ (decide (1 ≤ eLen e) && decide (eLen e ≤ 2 ^ 30)) = true ∧
      w.vdRange (eSrc e) (eLen e) false = true ∧ (w.readMod none (eSrc e) (eLen e)).1.isSome = true ∧ w.route (eRank e) = some (some 3)) ∧
    (let e := c.wqEntry 31 0; eOp e = 2 ∧ entryOk e = true ∧ (eLen e % 4 == 0 && decide (eGate e < 64)) = true) ∧
    (w.rwinOk 0x5FFF 1 = true ∧ w.rwinOk 0x9000 1 = false ∧ memFaultOk 0x5000 0x23 = true ∧ (31, 0) ∉ w.vd.skip ∧
      (31, 0) ∈ (w.modVd (fun v => { v with skip := [(31, 0)] })).vd.skip) ∧
    (w.route 8 = none ∧ w.route 9 = some none ∧ (w.vport 3).up = true ∧ ((vdWith (fun v => v)).vport 3).up = false ∧
      ((vdWith (fun v => { v with training := true })).vport 3).training = true) ∧
    (entryOk (entry 1 4 7 1 0 0 0 0) = false ∧ entryOk (entry 1 0 1024 1 0 0 0 0) = false ∧ entryOk (entry 1 3 1023 1 0 0 0 0) = true ∧
      w.vdRange 0x5FFFFFFFFF 2 false = false ∧ eOp (entry 4 0 0 0 0 0 0 0) = 4) := by decide +kernel

/-- WorkQueuesAndGates, the gates and messages: an ARM that is right, states of a gate, messages of each class, runs that have ended. -/
theorem wit_WorkQueuesAndGates_gates :
    let a := arming
    let e := a.wqEntry 31 0
    let d := a.hbm.load 0x40 64
    let new : Gate := { Gate.reset with st := .armed, step := 9, desc := d, members := [a.hbm.num 0x2000 2] }
    let g (st : GateSt) (due : Bool) (on : List (Nat × Bool)) (m : List VMsg) : State := gateWith 0 m (fun x => { x with st := st, due := due, on := on })
    (eOp e = 3 ∧ entryOk e = true ∧ eRank e = 0 ∧ eGate e = 63 ∧ eSrc e % 64 = 0 ∧ inHbm (eSrc e) 64 = true ∧ (a.gate 63).st = .idle ∧
      d = gateDesc 0 ∧ a.armCheck new = Code.done ∧ a.armCheck { new with members := [8] } = Code.bounds) ∧
    ((wq []).rwinOk 0x5FFF 1 = true ∧ (wq []).rwinOk 0x5FFF 2 = false ∧ (wq []).rangeFrozen 0x5FFF 1 = false) ∧
    ((g .armed false [] [contribOf 9 none]).gate 63).members.findIdx? (· == 7) = some 0 ∧ eLen (contribOf 9 none).entry = 4 * 2 ∧
    eGate (contribOf 9 none).entry = 63 ∧ ((g .armed false [] []).gate 63).elems = 2 ∧ eStep (contribOf 9 none).entry = 9 ∧
    bitOf (blk (gateDesc 0) 1 1) 0 = false ∧ bitOf (blk (gateDesc 1) 1 1) 0 = true ∧ blk (gateDesc 0) 48 4 = 100 ∧
    ((g .opened true [(0, true)] []).gate 63).on.length = ((g .opened true [(0, true)] []).gate 63).nmem ∧
    (g .opened false [(0, false)] []).vd.msgs.find? (fun m => m.vc == 1 && m.cls.isNone) = none ∧
    (g .armed false [] [contribOf 9 none]).vd.msgs.find? (fun m => m.vc == 1 && m.cls.isNone) = some (contribOf 9 none) ∧
    (g .opened false [(0, false)] [contribOf 9 (some (.onTime 0))]).vd.msgs.find? (fun m => m.vc == 1 && m.cls.isSome && m.full) =
      some (contribOf 9 (some (.onTime 0))) ∧
    (g .closed false [] [contribOf 9 (some (.late 0 true))]).vd.msgs.find? (fun m => m.vc == 1 && m.cls.isSome && m.full) =
      some (contribOf 9 (some (.late 0 true))) ∧
    (let r : VRun := ⟨31, 0, entry 1 0 9 1 0 0 0 0, none⟩
     let s := State.reset.modVd (fun v => { v with run := [r], done := [(31, 0, 1)] })
     s.vd.run.find? (fun r => r.q == 31 && r.k == 0) = some r ∧ s.vd.done.find? (fun d => d.1 == 31 && d.2.1 == 0) = some (31, 0, 1)) := by
  decide +kernel

/-- A LOCAL write lands in its window and its entry completes; one without a route completes with BOUNDS; an ARM arms gate 63. -/
theorem test_work_queue :
    let w := next (.write ⟨31, none⟩) (wq (entry 1 0 9 1 0x1000 0x5FFF 0 0))
    let r := next .writeReceived w
    w.vd.run.length = 1 ∧ r.hbm.num 0x5FFF 1 = 1 ∧ r.vd.done = [(31, 0, Code.done)] ∧ (next (.wqEntryComplete 31 0 0) r).vd.run = [] ∧
    fieldOf ((next (.write ⟨31, none⟩) (wq (entry 1 0 8 1 0x1000 0x5FFF 0 0))).reg .vd 0x7F8) 7 0 = Code.bounds ∧
    (next (.write ⟨31, none⟩) (wq (entry 1 0 9 1 0x1000 0x9000 0 0))).vd.done = [(31, 0, Code.bounds)] ∧
    (next .writeReceived (next (.hbmAccessComplete 0x5FFF true false (.parity 4) .message) w)).vd.done = [(31, 0, 0x23)] ∧ ((next (.arm 31) arming).gate 63).st = .armed ∧ (next (.contrib ⟨31, none⟩) (wq (entry 2 0 9 4 0x1000 0 9 63))).vd.msgs.length = 1 := by decide +kernel

/-- A contribution opens its gate, completes it and closes it; the reduction adds it into DST and auto-rearms or closes. -/
theorem test_gate :
    let o := next .contribOpen (gateWith 0 [contribOf 9 none] (fun x => { x with st := .armed }))
    let c := next .contribComplete o
    let r := next (.gateReductionDone 63 none) c
    (o.gate 63).st = .opened ∧ (c.gate 63).st = .closing ∧ (r.gate 63).st = .closed ∧ c.hbm.num 0x80000 4 = 0x3F800000 ∧
    r.hbm.num 0x100000 4 = 0x3F800000 ∧ r.hbm.num 0x100004 4 = 0x40000000 ∧
    ((next (.gateReductionDone 63 (some 0x23)) (gateWith 2 [] (fun x => { x with st := .closing }))).gate 63).step = 10 ∧
    ((next (.gateDeadline 63) (gateWith 0 [] (fun x => { x with st := .opened, on := [(0, true)] }))).gate 63).st = .closing ∧
    ((next (.gateGraceLimit 63) (gateWith 0 [] (fun x => { x with st := .opened, due := true, on := [(0, false)] }))).gate 63).cut = [0] ∧
    (next .contribOpen (gateWith 1 [contribOf 9 none] (fun x => { x with st := .closed }))).vd.done = [(31, 0, Code.lateDropped)] := by decide +kernel

/-! ## Intake (14) -/

/-- Intake enabled: a ring of four descriptors at HBM 0x1000 with one submitted, profile 15 of one frame of 2 by 1 luma samples in UINT8,
batches of two slots in one buffer at 0x100000, staging at 0x200000, pictures up to 2 by 1, half of a sample's units may be concealed. -/
def intk : State :=
  let s := [(Blk.intake, 0, 1), (.intake, 0x10, 0x1000), (.intake, 0x18, 4), (.intake, 0x1C, 1), (.intake, 0x24, 0x2000), (.intake, 0x2C, 0x100000),
    (.intake, 0x34, 4), (.intake, 0x38, 0x10002), (.intake, 0x3C, 2), (.intake, 0x40, 1), (.intake, 0x44, 1), (.intake, 0x48, 1), (.intake, 0x4C, 0x3000),
    (.intake, 0x60, 0x200000), (.intake, 0xC, 0x10002), (.intake, 8, 0x800000), (.intake, 0x58, 1)].foldl
    (fun (s : State) (p : Blk × Nat × Word) => s.setReg p.1 p.2.1 p.2.2) State.reset
  let m := s.hbm.store 0x1000 ([0x55, 0, 0, 0, 0, 15, 0, 0] ++ leBytes 8 0x9000 ++ [1, 0, 0, 0, 0, 0, 0, 0, 1])
  { s with hbm := m.store 0x23C0 [10, 2, 0, 1, 1, 1, 1, 0, 2, 0, 1, 0] }

/-- A header of AV1 Main, 8 bits, luma only, of 2 by 1 samples. -/
def hdr : StreamHdr :=
  { profile := .av1Main, depth := 8, comps := 1, sx := 1, sy := 1, tools := [.filmGrain], w := 2, h := 1, unit := 64, matrix := 0, range := 0 }

/-- A picture of two luma samples, in units of one sample each, with damaged ones. -/
def pic (conc : List Nat) : DecPic :=
  conceal none { order := 0, hdr := hdr, uw := 1, uh := 1, w := 2, h := 1, y := [7, 9], cb := [], cr := [], conc := conc }

/-- A core decoding; a sample of that picture from it; one kept, and the batch closing with its copies done. -/
def decoding : State := next .sampleDispatch intk
def job : InJob := (decoding.intake.cores[0]).getD ⟨0, [], []⟩
def sampled (conc : List Nat) (wflt : Option Status) : State :=
  ({ decoding with intake := { decoding.intake with cores := decoding.intake.cores.set 0 none } }.inDecoded job 0 [pic conc] none false wflt).inSettle
def kept : State := sampled [] none
def closing : State := next .flush (next (.slotCopyDone 0 none) kept)

/-- IntakeMovesSamplesIntoBatches: tails at the ring's size and past it, enables, cores, each refusal, headers that are outside the table, that
claim too much and that do neither, policies met and not, copies, closes, consumer counts, layouts. -/
theorem wit_IntakeMovesSamplesIntoBatches :
    let d (x : Nat) : Nat := (x + 2 ^ 32 - (intk.reg .intake 0x20).toNat) % 2 ^ 32
    let bad (l : List Byte) : Bool := inFieldsOk l job.prof intk.inSlotSize 64
    let conc (c : List Nat) : Nat := concUnits [pic c]
    let off := intk.setReg .intake 0 0
    let big (h : StreamHdr) : Prop := fieldOf (intk.reg .intake 0xC) 13 0 < h.w ∨ fieldOf (intk.reg .intake 0xC) 29 16 < h.h
    (fieldOf (intk.reg .intake 0x18) 16 0 < d 5 ∧ d 0 < d (intk.reg .intake 0x1C).toNat ∧ ¬ fieldOf (intk.reg .intake 0x18) 16 0 < d 4 ∧
      ¬ d 4 < d (intk.reg .intake 0x1C).toNat) ∧
    (intk.inEn = true ∧ off.inEn = false ∧ intk.intake.halted = false ∧ (intk.reg .intake 0x20).toNat ≠ (intk.reg .intake 0x1C).toNat ∧
      intk.intake.cores[0] = none ∧ (intk.intake.staged 0).length < 2 ∧ intk.inAddr 0x10 < 0x6000000000 ∧ decoding.intake.cores[0] = some job) ∧
    (inFieldsOk job.desc job.prof intk.inSlotSize (fieldOf (intk.reg .intake 0x48) 19 0 * 64) = true ∧ bad (job.desc.set 4 4) = false ∧
      intk.inSource (bytesAt job.desc 8 6) (bytesAt job.desc 16 4) = Code.done ∧ intk.inSource 0x5FFFFFFFFF 2 = Code.bounds ∧
      (supported 0 hdr = true ∧ supported 2 hdr = false ∧ supported 0 { hdr with tools := [.largeScaleTile] } = false) ∧
      (¬ big hdr ∧ big { hdr with w := 3 }) ∧ (intk.reg .injX 0).toNat % 2 = 0) ∧
    (conc [] = 0 ∧ conc [0] * 256 = fieldOf (intk.reg .intake 8) 24 16 * 2 ∧ conc [0, 1] * 256 ≠ 0 ∧
      fieldOf (intk.reg .intake 8) 24 16 * 2 < conc [0, 1] * 256 ∧ Word.bit (intk.reg .intake 8) 0 = false) ∧
    (kept.intake.batch.map (fun w => (copySlot 0 w.slots 0, w.closing.isNone, w.slots.map (·.2))) = some (some 0, true, [false]) ∧
      closing.intake.batch.map (fun w => (copySlot 0 w.slots 0, w.closing.isNone, w.slots.map (·.2))) = some (none, false, [true])) ∧
    (off.intake.busy = false ∧ intk.inLayoutOk = true ∧ (intk.setReg .intake 0x44 3).inLayoutOk = false ∧ intk.inDepth = 1 ∧
      fieldOf (intk.reg .intake 0x58) 6 0 = 1) := by decide +kernel

/-- A sample goes from its ring through staging into slot 0 of the batch and is counted there; a closed batch is counted and its manifest
written. -/
theorem test_intake :
    let p := next (.batchClose none) closing
    (decoding.reg .intake 0x20 = 1 ∧ kept.hbm.num 0x200000 2 = 0x907 ∧ kept.reg .intake 0x70 = 1) ∧
    (closing.hbm.num 0x102000 2 = 0x907 ∧ p.reg .intake 0x5C = 1 ∧ p.hbm.num 0x100004 2 = 1 ∧ p.hbm.num 0x100040 4 = 0x55) ∧
    Irq.intake ∈ (next .consPoll { p with hbm := p.hbm.store 0x3000 [1] }).irqs ∧
    (next (.intakeEn true) (intk.setReg .intake 0 0)).inEn = true := by decide +kernel

/-- One unit of two concealed, mid-grey with nothing before it, is kept as CONCEALED with its bit of the mask; both are dropped; a range out
of HBM is refused; a write fault halts. -/
theorem test_conceal :
    let k := sampled [1] none
    k.hbm.num 0x200000 2 = 0x8007 ∧ k.intake.last = Code.concealed ∧ k.reg .intake 0x74 = 1 ∧ (next (.slotCopyDone 0 none) k).hbm.num 0x101000 1 = 2 ∧
    (sampled [0, 1] none).reg .intake 0x78 = 1 ∧ (sampled [] (some 0x20)).intake.halted = true ∧ (next (.inSubTail 5) intk).reg .intake 4 = 8 ∧
    (next (.sampleComplete 0 [] none none) (decoding.setReg .intake 0x40 0)).intake.last = Code.bounds ∧
    (next (.sampleComplete 0 [] (some 0x23) none) decoding).intake.last = Code.hbmUncorr := by decide +kernel

/-- A damaged unit is concealed with those after it up to the next restart (14 R337), from the co-located samples of the picture before
(R338); the units of each codec; BT.601 red of a JPEG; black and white of limited range (R341). -/
theorem test_decoder :
    (let w := walkUnits 0 (· == 1) (fun _ => 3) (List.range 5) 0 State.reset
     w.1 = [1, 2] ∧ w.2.1 = some (1, false)) ∧
    (conceal (some (pic [])) { pic [] with y := [1, 2], conc := [1] }).y = [1, 9] ∧
    unitSize 0 { hdr with unit := 128 } = (128, 128) ∧ unitSize 2 hdr = (16, 16) ∧ unitSize 3 { hdr with comps := 3, sx := 2 } = (16, 8) ∧
    (encodeElem .uint8 (toRgb 1 2 128 76 85 255 0)).bits = 254 ∧ (encodeElem .uint8 (toRgb 2 1 128 16 128 128 1)).bits = 0 ∧
    (encodeElem .uint8 (toRgb 2 1 128 235 128 128 2)).bits = 255 ∧ (encodeElem .fp32 (toRgb 3 2 512 512 512 512 0)).bits = 0x44000000 := by
  decide +kernel

/-! ## Registers, strobes, parity, the log (17) -/

/-- The address of a register. -/
def at_ (b : Blk) (o : Nat) : BitVec 48 := BitVec.ofNat 48 (b.addr o)

/-- A write of endpoint A that waits, alone, to be accepted. -/
def held1 (b : Blk) (o : Nat) : RegReq := ⟨b.addr o, true, [5], 1, [], Code.done, true, 0, none, false, false⟩
def waiting1 (q : RegReq) (s : State) : State := { s with acc := s.acc.set 0 [q] }

/-- A block's RW and W1C bits of a register, where it has it. -/
def bitsAt (b : Blk) (o : Nat) : Option (Nat × Nat) := (findRow o b.rows).map (fun r => (r.rw, r.w1c))

/-- RegisterWritesFollowTheirAccessCodes: a reserved place, immediate, staged, W1C and read-only registers, each sequencer register that a
clause names at both ends of its range, a frozen sett, an access that may be taken and one that may not. -/
theorem wit_RegisterWritesFollowTheirAccessCodes :
    let f := frozen 0 0 [] []
    let q := held1 (.sq 0) 0x18
    (runs.reg .injX 0).toNat % 2 = 0 ∧ runs.acc = Vector.replicate 3 [] ∧ regTarget (0x2#48).toNat = none ∧
    (regTarget (at_ .enHost 0x50).toNat = some (.enHost, 0x50, 0) ∧ bitsAt .enHost 0x50 = some (0xFF, 0) ∧ bitsAt (.ht 7) 0x00 ≠ none ∧
      regTarget (at_ (.ve 15) 8).toNat = some (.ve 15, 8, 0) ∧ bitsAt (.ve 15) 8 ≠ none ∧ (runs.sett 15).freeze = none ∧
      regTarget (at_ (.pmS 0) 0).toNat = some (.pmS 0, 0, 0) ∧ bitsAt (.pmS 0) 0 ≠ none ∧ Blk.enHost.staged 0x50 = true ∧
      bitsAt .enHost 0x8C = some (0, 0)) ∧
    ([4, 0x0C, 0x18, 0x200, 0x27C, 0x180, 0x19C, 0x100, 0x13C].all (fun o => regTarget (at_ (.sq 15) o).toNat == some (.sq 15, o, 0)) = true ∧
      (State.reset.sett 15).st = .idle) ∧
    ((f.sett 0).freeze ≠ none ∧ (Blk.sq 0).sett? = some 0 ∧ (f.reg .injX 0).toNat % 2 = 0 ∧ f.acc = Vector.replicate 3 []) ∧
    ((waiting1 q runs).accOf .endA = [q] ∧ (waiting1 q runs).waits .endA q = false ∧ (waiting1 q f).waits .endA q = true ∧
      regTarget q.addr = some (.sq 0, 0x18, 0) ∧ runs.accOf .endA = []) := by decide +kernel

/-- A staged write changes the pending copy; an alias toggles; a reserved place answers BOUNDS; a write to a frozen sett waits, times out
with a record, and is taken after the freeze. -/
theorem test_register_write :
    let w := next (.registerWrite .endA (at_ .enHost 0x50) 0x1FF) runs
    let q := held1 (.sq 0) 0x18
    w.reg .enHost 0x50 = runs.reg .enHost 0x50 ∧ w.regs.pending .enHost 0x50 = 0xFF ∧ w.rdata[0] = (0, Code.done) ∧
    (next (.aliasToggle .mgmt (at_ .enHost 0x50) 0x0F) w).regs.pending .enHost 0x50 = 0xF0 ∧
    (next (.registerWrite .endB 2 1) runs).rdata[1] = (0, Code.bounds) ∧
    ((next (.registerWrite .endA (at_ (.sq 0) 0x18) 5) (frozen 0 0 [] [])).acc[0]).length = 1 ∧
    ((next (.registerAccessTimeout .endA) (waiting1 q runs)).recs.map (·.status)) = [Code.busErr] ∧
    ((next (.registerAccessAccepted .endA) (waiting1 q runs)).sett 0).step = 5 := by decide +kernel

/-- A record of source 0x1234, and the log on with room for two records at HBM 0x8000. -/
def evt : EvRec := ⟨0x22, false, 0x1234, 1, 2, 3, 4, [9]⟩
def logging (q : List (Nat × EvRec)) (c : Option (Nat × EvRec × Bool)) (used : Word) : State :=
  let s := [(Blk.ftX, 0x10, 0x8000), (.ftX, 0x18, 2), (.ftX, 0x1C, used), (.ftX, 0x24, 0x80000001)].foldl
    (fun (s : State) (p : Blk × Nat × Word) => s.setReg p.1 p.2.1 p.2.2) State.reset
  { s with recs := [evt], logQ := q, logCur := c }

/-- StrobesParityAndTheLogWork: groups busy, held and neither, the first and the last; addresses to scrub in each kind of block; records that
find the log off, its queue full, its ring full, and room. -/
theorem wit_StrobesParityAndTheLogWork :
    let full := logging (List.replicate 256 (0, evt)) none 0
    (bitOf State.reset.stbBusy 63 = false ∧ bitOf { State.reset with stbBusy := 2 ^ 63 }.stbBusy 63 = true ∧
      bitOf { State.reset with stbHeld := 1 }.stbHeld 0 = true) ∧
    (regTarget (2#48).toNat = none ∧ regTarget (at_ (.ve 15) 0).toNat = some (.ve 15, 0, 0) ∧ (Blk.ve 15).sett? = some 15 ∧
      (frozen 0 0 [] []).setts[0].freeze ≠ none ∧ regTarget (at_ (.ht 7) 0).toNat = some (.ht 7, 0, 0) ∧
      (State.reset.reg .injX 0).toNat % 2 = 0 ∧ State.reset.regs.badA = [] ∧ State.reset.regs.badP = [] ∧
      State.reset.cfgBad (.ht 7) = false ∧ (State.reset.sett 15).freeze = none ∧ (State.reset.sett 15).st ≠ .halted) ∧
    ((logging [] none 0).recs.find? (fun r => r.src == (0x1234#16).toNat) = some evt ∧ (∀ e ∈ (logging [] none 0).recs, e.src ≠ (0#16).toNat) ∧
      State.reset.logOn = false ∧ (logging [] none 0).logOn = true ∧ full.logQ.length = 256 ∧ (logging [] none 1).logUsed < 2 ∧
      (logging [] none 2).logSize = (logging [] none 2).logUsed) ∧
    ((logging [] none 1).logBase % 4096 = 0 ∧ (logging [] none 1).logBase + 64 * ((0xFFFFFFFF : Word).toNat % 2) + 64 ≤ 0x6000000000 ∧
      fieldOf ((logging [] none 0).reg .ftX 0x24) 24 0 = 1) := by decide +kernel

/-- A record is written at its place and the watermark of one is notified; what finds the ring full is lost; an upset of VE_PARAM halts its
sett and a fire copies the pending value. -/
theorem test_log_and_scrub :
    let w := next (.eventRecordWritten true) (next (.eventRecordArrival 0x1234) (logging [] none 0))
    let p := next (.registerWrite .endA (at_ .enHost 0x50) 0xFF) State.reset
    w.hbm.num 0x8000 1 = 0x22 ∧ w.hbm.num 0x8002 2 = 0x1234 ∧ w.reg .ftX 0x1C = 1 ∧ Irq.logMark ∈ w.irqs ∧
    (next (.eventRecordArrival 0x1234) (logging [] none 2)).reg .ftX 0x28 = 1 ∧
    ((next (.configScrub (at_ (.ve 15) 0) [(8, false)]) State.reset).sett 15).lastFault = Code.cfgParity ∧
    (next (.pmStbFire 1) p).reg .enHost 0x50 = 0xFF ∧ (next (.pmStbFire 2) p).reg .enHost 0x50 = State.reset.reg .enHost 0x50 := by decide +kernel

/-! ## Power, boot, injection (17, 18, 19) -/

/-- Reset with the stage of boot given, and the supply good. -/
def booting (st : Stage) : State := { State.reset with sc := { State.reset.sc with stage := st } }

/-- Reset with a current cap of 8 and die-level steps of 8, the thermal target at 90 degrees. -/
def capped : State :=
  [(Blk.pmX, 8, 8), (.pmX, 0xC, 0x5A0000), (.pmD 0, 0, 0x80000), (.pmD 1, 0, 0x80000)].foldl
    (fun (s : State) (p : Blk × Nat × Word) => s.setReg p.1 p.2.1 p.2.2) State.reset

/-- Readings of 0 but for die 1's own. -/
def hotAt (w : BitVec 16) : Temps := ⟨[0], [0, w], [0, 0], 0⟩

/-- SupplyResetsAndPowerLoops: a supply that is good, one that warned with and without the slow-down, resets held and not, measurements at the
budget and above it, averages under, in and over the band, temperatures at its edges, dies with and without their setts. -/
theorem wit_SupplyResetsAndPowerLoops :
    let s := State.reset
    (s.reg .injX 0).toNat % 2 = 0 ∧ Word.bit (s.reg .pmX 0) 31 = false ∧ Word.bit ((s.setReg .pmX 0 0x80000000).reg .pmX 0) 31 = true ∧
    Word.bit ((s.setReg .pmX 0 0x20000000).reg .pmX 0) 29 = true ∧ Word.bit ((s.setReg .pmX 0 0).reg .pmX 0) 29 = false ∧
    bitOf { s.eps[0] with mask := 16 }.mask 4 = true ∧ (s.pw.lost = true ∧ { s.pw with lost := false }.lost = false) ∧
    ({ s.pw with held := true }.held = true ∧ s.pw.held = false ∧ s.pw.pinLow = false ∧ s.pw.swDue = false ∧ s.sc.blow = none) ∧
    (s.pw.budget < ((2951#16).toNat : Int) ∧ ((2950#16).toNat : Int) ≤ s.pw.budget) ∧
    ((95 * min (2950 : Int) (26000 - 2803) < 100 * 2803 ∧ 100 * 2802 ≤ 95 * (2950 : Int) ∧ 85 * (2950 : Int) ≤ 100 * 2508 ∧ 100 * 2507 < 85 * (2950 : Int))) ∧
    (fieldOf (capped.reg .pmX 0xC) 23 16 * 16 = 1440 ∧ (1440 : Int) ≤ max (max (signedOf 16 1440) (signedOf 16 0)) (signedOf 16 0) ∧
      (1407 : Int) < 1440 - 32 ∧ (1440 : Int) - 32 ≤ 1408) ∧
    (dieOf 0 = (0 : Fin 2).val ∧ dieOf 128 = (1 : Fin 2).val) ∧
    (hotAt 1840).setts ++ (hotAt 1840).die ++ (hotAt 1840).thehan ++ [(hotAt 1840).xalor] = [0, 0, 1840, 0, 0, 0] ∧
    ([0, 0, 1840, 0, 0, 0] : List (BitVec 16)).any (fun w => 1840 ≤ signedOf 16 w.toNat) = true ∧
    ([0, 0, 1839, 0, 0, 0] : List (BitVec 16)).all (fun w => signedOf 16 w.toNat < 1840) = true ∧ (1680 : Int) ≤ 1839 := by decide +kernel

/-- A sensor at 115 °C resets the module; at 105 °C a die's cap becomes 0, and just below the limit it falls by one. -/
theorem test_thermal :
    (next (.powerLoopTick 2600 (hotAt 1840)) State.reset).pw.held = true ∧ (capped.thermalTick 1 1680).capT 1 = 0 ∧
    (capped.thermalTick 1 1679).capT 1 = 7 ∧ (capped.thermalTick 1 1680).capT 0 = 8 := by decide +kernel

/-- A warning is recorded and notified; RESET_N keeps memory and the release leaves WAITSUP; a measurement at the budget keeps the cap. -/
theorem test_power :
    let w := next .supplyWarning (State.reset.setReg .pmX 0 0)
    let r := next (.resetN true) { State.reset with hbm := [⟨5, 6⟩] }
    (w.recs.map (·.status)) = [Code.supplyWarn] ∧ Irq.supply ∈ w.irqs ∧ r.pw.held = true ∧ r.hbm.num 5 1 = 6 ∧
    (next .resetRelease (next (.resetN false) r)).sc.stage = .waitsup ∧ (next (.powerMeasurement 2950 480) capped).reg .pmX 8 = 8 := by decide +kernel

/-- BootSecurityAndTestAccess: each stage, images that do not verify, tokens that do not, every refusal of a counter and of an extension and
what passes. What verifies rests on Config.mlDsaVerify and the root key's digest, which nothing fixes (log entry 12): the clauses on an image
that verifies and a token that is valid have no computed instance. -/
theorem wit_BootSecurityAndTestAccess :
    let s := State.reset
    (s.pw.held = false ∧ s.warn = false ∧ s.sc.stage = .rom ∧ (booting .run).sc.stage ≠ .rom ∧ s.sc.log.length < 255) ∧
    ((booting .bringup).sc.stage = .bringup ∧ (booting .recovery).sc.stage = .recovery ∧
      verifyImage (fun o n => (booting .bringup).flash.load (0 + o) n) 0 ≠ Code.done) ∧
    (s.scAddr % 4096 = 0 ∧ (s.setReg .sc 8 1).scAddr % 4096 ≠ 0 ∧ s.scAddr + (8192 + leNat (s.hbm.load (s.scAddr + 12) 4)) ≤ 0x6000000000 ∧
      verifyImage (fun o n => s.hbm.load (s.scAddr + o) n) 0 ≠ Code.done) ∧
    (s.sc.locked = false ∧ { s.sc with locked := true }.locked = true ∧ (s.reg .injX 0).toNat % 2 = 0 ∧
      s.tokenOk (fun o n => s.hbm.load (s.scAddr + o) n) = false) ∧
    ((0x4B4C#16 : BitVec 16) ≠ 0x4B4D ∧ s.sc.ctrs[3] ≠ 64 ∧ s.sc.blow = none ∧ { s.sc with blow := some 3 }.blow = some 3) ∧
    (0xFF < (0x100#16).toNat ∧ ¬ (0x100#16).toNat < 0x100 ∧ s.sc.log.length < 256 ∧ (List.replicate 256 (⟨1, 0, 0, []⟩ : MeasEnt)).length = 256) ∧
    s.debugOk = false ∧ { s with sc := { s.sc with unlocked := true } }.debugOk = true := by decide +kernel

/-- An image without its magic word fails in slots A and B; a key of one bit off does nothing; the counter advances once; debug is closed. -/
theorem test_boot :
    let v := next (.verify false true) (booting .bringup)
    v.sc.stage = .recovery ∧ v.sc.errA = Code.bounds ∧ v.sc.errB = Code.busErr ∧ (next .scCtlUnlock State.reset).sc.unlocked = false ∧
    (next (.scRbBump .mgmt 2 0x4B4C) State.reset).sc.blow = some 2 ∧ (next (.scRbBump .mgmt 2 0x4B4D) State.reset).sc.blow = none ∧
    (next .counterAdvanceDone (next (.scRbBump .mgmt 2 0x4B4C) State.reset)).sc.ctrs = #v[0, 0, 1, 0] ∧
    (next (.jtagInstruction (.other 0x55)) State.reset).jtag = some .bypass := by decide +kernel

/-- InjectionActsOnlyWhileAllowed: a module that permits injection and one that does not, points at both ends of each block, addresses of a
block that has points and of one that has none. -/
theorem wit_InjectionActsOnlyWhileAllowed :
    (State.reset.injOk = true ∧ { State.reset with sc := { State.reset.sc with locked := true } }.injOk = false ∧
      State.reset.sc.injEver = false ∧ State.reset.sc.log.length < 256 ∧ (State.reset.reg .injX 0).toNat % 2 = 0) ∧
    (regTarget (2#48).toNat = none ∧ regTarget (at_ .enHost 0).toNat = some (.enHost, 0, 0) ∧ Blk.enHost.hasPoint 0 = false ∧ regTarget (at_ .injX 0).toNat = some (.injX, 0, 0) ∧ Blk.injX.hasPoint 10 = true ∧ Blk.injX.hasPoint 11 = false ∧
      Blk.injX.hasPoint 16 = true ∧ Blk.injX.hasPoint 21 = true ∧ Blk.injX.hasPoint 22 = false ∧
      regTarget (at_ (.injS 15) 0).toNat = some (.injS 15, 0, 0) ∧ (Blk.injS 15).hasPoint 5 = true ∧
      (Blk.injS 15).hasPoint 6 = false ∧ (Blk.injS 15).sett? = some 15 ∧ (State.reset.sett 15).freeze = none) ∧
    (Word.bit (0x80000000 : Word) 31 = true ∧ Word.bit (0x7FFFFFFF : Word) 31 = false) := by decide +kernel

/-- ALLOW is set and measured; a point armed is remembered with its values, and clearing ALLOW disarms it. -/
theorem test_injection :
    let a := next (.injGlobalAllow true) State.reset
    let p := next (.injCtl (at_ (.injS 15) 0) 5 0x80000001) a
    a.reg .injX 0 = 1 ∧ a.sc.log.map (·.type) = [5] ∧ p.inj.length = 1 ∧ Word.bit (p.reg (.injS 15) 0x150) 28 = true ∧
    (next (.injGlobalAllow false) p).inj = [] ∧ Word.bit ((next (.injGlobalAllow false) p).reg (.injS 15) 0x150) 31 = false := by decide +kernel

/-! ## Steps and words -/

/-- StepTakesFrontCommand, EveryStepKeepsMemoryCanonical: a queue with a command, one without, and a state that meets the invariant and steps. -/
theorem wit_steps :
    { State.reset with pending := [.nop 0] }.pending = .nop 0 :: [] ∧ State.reset.pending = [] ∧ State.reset.memOk = true ∧
    (match step State.reset with | .next t => t.cycle == 1 && t.memOk | _ => false) = true := by decide +kernel

/-- DecodeOfEncodeIsTheInstruction, DecodedWordIsItsEncoding: a well-formed instruction and its word. -/
theorem wit_words :
    (Instr.li 0 4 0x08000000).sett? = some 0 ∧ (Instr.li 0 4 0x08000000).wf = true ∧
    encodeWord (.li 0 4 0x08000000) = some 0x0080040008000000 ∧ decodeWord 15 0x0080040008000000 = some (.li 15 4 0x08000000) := by decide +kernel

/-! ## Further witnesses -/

/-- CounterInstructionsTakeEffect: a host write in the same cycle. DecodedWordIsItsEncoding: an engine-0 word with bits of PCMP and SIGN set. -/
theorem wit_CountersAndPlainWords :
    (let t := { SettSt.reset with hostWr := some (3, SettSt.reset.cyc, 5, true) }
     t.hostWr = some (3, t.cyc, 5, true) ∧ t.loops.any (fun l => !l.imm && l.src == 3) = false ∧ SettSt.reset.hostWr = none ∧
     (t.insCt 3 (fun _ => 9)).ct[3] = 9 ∧ (t.insCt 3 (fun _ => 9)).sticky = 0x1000) ∧
    (decodeWord 15 0x009D140008000000 = some (.li 15 4 0x08000000) ∧ plainWord 0x009D140008000000 = 0x0080040008000000) ∧
    (decodeWord 0 0x1000010004010C40).isSome = true ∧ (0x1000010004010C40#64).extractLsb' 60 4 ≠ 0#4 := by decide +kernel

/-- WaitsTakeOrHold, ReplayRegionsEnterAndLeave, HaltsDrainOrRecord, WatchdogHaltsAndStallsCount: an absent engine's increment of this cycle, a
drain that a command holds and one that a Viaduct entry holds, a HALT that waits, a STASH's gate and none. -/
theorem wit_Sequencer :
    (let t := runsWith (fun t => { t with sig := t.sig.set 7 3, absSig := some (t.cyc, 7) })
     t.canIssue 0 = true ∧ (t.sett 0).absSig = some ((t.sett 0).cyc, 7) ∧ 3 ≤ (t.sett 0).sig[7].toNat) ∧
    ((drained 0 0).drained 0 = true ∧ (drained 0 0).mayMismatch 0 = false ∧ (engWith 1 [cmdOf (.rdrop 0 plain)] []).drained 0 = false ∧
      (runs.modVd (fun v => { v with owed := [(0, 3, 1)] })).drained 0 = false ∧ (rgn 0).drained 0 = true) ∧
    (runsWith (fun t => { t with st := .wait, hold := .halt }) |>.sett 0).hold = .halt ∧
    (let t := (engWith 3 [cmdOf (.sfree 0 plain 1)] []).sett 0
     (t.engine 3).queue.length < 16 ∧ (t.engine 3).run = [] ∧ (t.engine 3).queue.map (·.cmd) = [.sfree 0 plain 1]) := by decide +kernel

/-- CommandsStartAndComplete, TensorTilesCloseAndResidentsLoad: a command of the tensor engine behind one that runs, an RLOAD past its shape and one
of no element. -/
theorem wit_Engines :
    let q := cmdOf (.rdrop 0 plain)
    let s := engWith 1 [q] [⟨q, 0, 0, some 5, false, false⟩]
    let b := (vecs.sett 0).desc 0x1005
    ((s.sett 0).slotFree 1 = true ∧ ((s.sett 0).engine 1).queue = [q] ∧ ((s.sett 0).engine 1).run ≠ [] ∧ s.mayMismatch 0 = false) ∧
    (b.exceeds [1, 64, 1, 1, 1] = true ∧ b.exceeds [1, 0, 1, 1, 1] = false ∧ b.empty [1, 0, 1, 1, 1] = true) := by decide +kernel

/-- MemoryErrorsRecover, ModuleMemoryReadsWhatWasWritten, DmaTransfersMoveBytes: no access that waits, words found bad in one freeze, a Holt's own
access, a remote window, a burst between two tiers. -/
theorem wit_Memory :
    (runs.mems = [] ∧ runs.vd.ends = []) ∧
    (((frozen 0 0 [] []).modSett 0 (fun t => { t with frzMore := [⟨.store 0x3008, 2, 0, 0, false, false, none⟩] })).sett 0).frzMore ≠ [] ∧
    dispatched.hq.toList.getD 1 [] ≠ [] ∧ 16 * hbmStack 0x8000 + hbmChan 0x8000 = 1 ∧ (0x8000#48).toNat < hbmSize ∧
    (let s := [(Blk.enHost, 0x800, 0x10000), (.enHost, 0x80C, 0xC0000005)].foldl
       (fun (s : State) (p : Blk × Nat × Word) => s.setReg p.1 p.2.1 p.2.2) runs
     s.place (remoteBase + 0x1000) true = some (.remote 5 0x11000 0) ∧ (winOf (remoteBase + 0x1000)).1 = (winOf (remoteBase + 0x1003)).1 ∧
     remoteBase + 0x1000 + 4 ≤ settBase ∧ 0x11000 + 4 ≤ 2 ^ 64 ∧ (s.writeMod none (remoteBase + 0x1000) [1, 2, 3, 4]).1 = true ∧ s.memOk = true) ∧
    (0x1000 + 128 ≤ hbmSize ∧ burrowBase ≤ burrowBase + 64 ∧ burrowBase + 64 + 128 ≤ 0x20000000000 ∧
      moveBursts 0 0x1000000000000080 0x1000 (BitVec.ofNat 64 (burrowBase + 64)) 0 = [⟨0x1000, burrowBase + 64, 0x80⟩]) := by decide +kernel

/-- The image of a plan of one sett (06 Tables 06-1 to 06-4): a header of two sections and PLAN_ID 0x77 with the CRC given, a START block for
an instruction region of 16 pages with SQ_STEP 9 and CT0 5, and a program of one HALT. -/
def planHead (crc : Nat) : List Byte :=
  leBytes 4 0x4E414C50 ++ leBytes 2 0x100 ++ leBytes 2 2 ++ leBytes 8 392 ++ leBytes 4 0x77 ++ leBytes 2 1 ++ [96, 0] ++ leBytes 4 crc ++ List.replicate 36 0
/-- Its section table, its START block and the rest. -/
def planTable : List Byte :=
  ([5, 0, 0, 0] ++ leBytes 4 256 ++ leBytes 8 0 ++ leBytes 8 128 ++ leBytes 8 0) ++ ([1, 0, 0, 0] ++ leBytes 4 8 ++ leBytes 8 0 ++ leBytes 8 384 ++ leBytes 8 0)
def planBody : List Byte := leBytes 12 0x10 ++ leBytes 20 9 ++ leBytes 32 5 ++ List.replicate 64 0
def planImage : List Byte := planHead 0x67B01226 ++ planTable ++ planBody ++ List.replicate 64 0 ++ List.replicate 64 0 ++ leBytes 8 (2 ^ 54)

set_option maxRecDepth 2000 in
/-- The CRC of that image, worked out with another implementation. -/
theorem test_plan_crc : crcZeroed planImage 24 = 0x67B01226 := by
  have hz : planImage.take 24 ++ [0, 0, 0, 0] ++ planImage.drop (24 + 4) =
      planHead 0 ++ planTable ++ planBody ++ List.replicate 64 0 ++ List.replicate 64 0 ++ leBytes 8 (2 ^ 54) := by decide +kernel
  have h0 : crcFrom 0xFFFFFFFF#32 (planHead 0) = 0x41EE4122#32 := by decide +kernel
  have h1 : crcFrom 0x41EE4122#32 planTable = 0xB61CA6B9#32 := by decide +kernel
  have h2 : crcFrom 0xB61CA6B9#32 planBody = 0x69A30882#32 := by decide +kernel
  have h3 : crcFrom 0x69A30882#32 (List.replicate 64 0) = 0x4D3F6668#32 := by decide +kernel
  have h4 : crcFrom 0x4D3F6668#32 (List.replicate 64 0) = 0xE3B85A17#32 := by decide +kernel
  have h5 : crcFrom 0xE3B85A17#32 (leBytes 8 (2 ^ 54)) = 0x984FEDD9#32 := by decide +kernel
  unfold crcZeroed
  rw [hz, crc32_eq, crcFrom_append, crcFrom_append, crcFrom_append, crcFrom_append, crcFrom_append, h0, h1, h2, h3, h4, h5]
  decide

/-- DeferredCommandsAreHeldAndResolved: that plan passes every check of the loader, with one sett. -/
theorem wit_plan :
    let r := (host.putHbm 0x10000 planImage).planChecks 0x10000
    r.2.2.2 = [] ∧ r.2.1.map (·.type) = [5, 1] ∧ r.2.2.1.map (·.u.val) = [0] := by
  have hi : (host.putHbm 0x10000 planImage).planImage 0x10000 = (planHead 0x67B01226, some planImage) := by decide +kernel
  have hh : headerFails (planHead 0x67B01226) (some planImage) = [] := by
    unfold headerFails
    simp only [test_plan_crc]
    decide +kernel
  unfold State.planChecks
  rw [hi]
  simp only [hh]
  decide +kernel


end Sys2Proof.Tests
end

section
/-!
SUPPORT. Loops of the sequencer: what LOOP latches, and the passes that end at END (04 R118).
-/
namespace Sys2Proof.Machine

/-- A change of one sett depends on the sett's own value alone. -/
theorem modSett_congr {s : State} {u : SettId} {f g : SettSt → SettSt} (h : f (s.sett u) = g (s.sett u)) :
    s.modSett u f = s.modSett u g := by
  simp only [State.sett] at h
  simp only [State.modSett, h]

/-- The count that a LOOP latches at its issue: its immediate or a counter (04 R118). -/
def SettSt.loopCount (t : SettSt) (ci : Bool) (c : BitVec 4) (imm : BitVec 16) : Word :=
  if ci then imm.setWidth 32 else t.getCt c

/-- The level that a LOOP at SQ_PC opens: its body follows it and ends at `e`, and its first iteration is begun (04 R118). -/
def SettSt.loopLevel (t : SettSt) (ci : Bool) (c : BitVec 4) (e : Nat) (n : Word) : LoopLv :=
  { latch := n, remain := n.toNat - 1, first := t.pc + 1, last := e, imm := ci, src := c }

/-- What a LOOP that issues makes of its sett: a count of 0 skips the body, any other opens a level (04 R118). -/
def SettSt.enterLoop (t : SettSt) (ci : Bool) (c : BitVec 4) (e : Nat) (n : Word) : SettSt :=
  if n = 0 then { t.spend 3 with pc := (e + 1) % 2 ^ 15 }
  else { t.spend 1 with pc := t.pc + 1, loops := t.loopLevel ci c e n :: t.loops }

theorem enterLoop_zero (t : SettSt) (ci : Bool) (c : BitVec 4) (e : Nat) {n : Word} (h : n = 0) :
    (t.enterLoop ci c e n).pc = (e + 1) % 2 ^ 15 ∧ (t.enterLoop ci c e n).loops = t.loops := by
  rw [SettSt.enterLoop, if_pos h]
  exact ⟨rfl, rfl⟩

theorem enterLoop_nonzero (t : SettSt) (ci : Bool) (c : BitVec 4) (e : Nat) {n : Word} (h : n ≠ 0) :
    (t.enterLoop ci c e n).pc = t.pc + 1 ∧ (t.enterLoop ci c e n).loops = t.loopLevel ci c e n :: t.loops := by
  rw [SettSt.enterLoop, if_neg h]
  exact ⟨rfl, rfl⟩

@[simp] theorem enterLoop_stepReq (t : SettSt) (ci : Bool) (c : BitVec 4) (e : Nat) (n : Word) :
    (t.enterLoop ci c e n).stepReq = t.stepReq := by
  unfold SettSt.enterLoop
  split <;> rfl

/-- A LOOP with a proper END, below four levels, opens its level or skips its body. -/
theorem exec_loop_can {s : State} {u : Sett} (ci : Bool) (c : BitVec 4) {e : BitVec 15} (imm : BitVec 16)
    (hcan : s.canIssue u = true) (hend : (s.sett u).pc < e.toNat) (hnest : ∀ l ∈ (s.sett u).loops, e.toNat < l.last)
    (hlen : (s.sett u).loops.length < 4)
    (hop : ¬ ((s.opAt u e.toNat).1 = 0 ∧ (s.opAt u e.toNat).2 ∈ [0x01, 0x08, 0x09, 0x0C, 0x0D])) :
    exec (.loop u ci c e imm) s =
      .next (s.modSett u (fun t => t.enterLoop ci c e.toNat ((s.sett u).loopCount ci c imm))) := by
  change execLoop u ci c e imm s = _
  unfold execLoop
  rw [seqStep_can hcan]
  dsimp only
  rw [if_neg, if_neg (Nat.not_le.mpr hlen), afterIssue_noStep]
  · exact congrArg _ (modSett_congr rfl)
  · rw [State.modSett_self]
    exact (enterLoop_stepReq _ ci c e.toNat _).trans (canIssue_stepReq hcan)
  · simp only [Bool.or_eq_true, Bool.and_eq_true, decide_eq_true_eq, List.any_eq_true, beq_iff_eq, not_or]
    refine ⟨⟨Nat.not_le.mpr hend, ?_⟩, by simpa [or_assoc] using hop⟩
    rintro ⟨l, hl, hle⟩
    exact Nat.not_le.mpr (hnest l hl) hle

@[simp] theorem exitLoop_pc (t : SettSt) : t.exitLoop.pc = t.pc := by
  unfold SettSt.exitLoop
  split
  · rfl
  · dsimp only; split <;> rfl

@[simp] theorem exitLoop_loops (t : SettSt) : t.exitLoop.loops = t.loops.tail := by
  unfold SettSt.exitLoop
  split
  next h => rw [h]; rfl
  next h => rw [h]; dsimp only; split <;> rfl

/-- The end of a pass: the instruction at END has been issued and falls through. -/
def SettSt.passEnd (e : Nat) (t : SettSt) : SettSt := SettSt.advance { t with pc := e }

/-- While iterations remain, a pass that ends at END brings issue back to the first body instruction. -/
theorem passEnd_back {t : SettSt} {l : LoopLv} {ls : List LoopLv} (hl : t.loops = l :: ls) (hr : 0 < l.remain) :
    t.passEnd l.last = { t with pc := l.first, loops := { l with remain := l.remain - 1 } :: ls } := by
  simp [SettSt.passEnd, SettSt.advance, hl, hr]

/-- The last pass goes on behind END with the enclosing loops alone. -/
theorem passEnd_leave {t : SettSt} {l : LoopLv} {ls : List LoopLv} (hl : t.loops = l :: ls) (hr : l.remain = 0) :
    (t.passEnd l.last).pc = (l.last + 1) % 2 ^ 15 ∧ (t.passEnd l.last).loops = ls := by
  simp [SettSt.passEnd, SettSt.advance, hl, hr]

/-- After k passes of a loop that had at least k iterations left, issue stands at the first body instruction, k iterations fewer. -/
theorem passEnd_iterate {t : SettSt} {l : LoopLv} {ls : List LoopLv} (hl : t.loops = l :: ls) (hpc : t.pc = l.first) :
    ∀ k ≤ l.remain, ((SettSt.passEnd l.last)^[k] t).pc = l.first ∧
      ((SettSt.passEnd l.last)^[k] t).loops = { l with remain := l.remain - k } :: ls := by
  intro k
  induction k with
  | zero => exact fun _ => ⟨hpc, hl⟩
  | succ k ih =>
    intro hk
    obtain ⟨-, hloops⟩ := ih (Nat.le_of_succ_le hk)
    have hback := passEnd_back hloops (Nat.sub_pos_of_lt hk)
    rw [Function.iterate_succ_apply']
    exact ⟨by rw [hback], by rw [hback, Nat.sub_sub]⟩

/-- A loop with r iterations left after the present one ends its last pass behind END. -/
theorem passEnd_iterate_leave {t : SettSt} {l : LoopLv} {ls : List LoopLv} (hl : t.loops = l :: ls) (hpc : t.pc = l.first) :
    ((SettSt.passEnd l.last)^[l.remain + 1] t).pc = (l.last + 1) % 2 ^ 15 ∧
      ((SettSt.passEnd l.last)^[l.remain + 1] t).loops = ls := by
  obtain ⟨-, hloops⟩ := passEnd_iterate hl hpc l.remain (Nat.le_refl _)
  rw [Function.iterate_succ_apply']
  exact passEnd_leave (l := { l with remain := l.remain - l.remain }) hloops (Nat.sub_self _)

/-- Settles O14: LOOP opens a level with count - 1 iterations left, and each pass takes one of them. -/
theorem loopBodyRunsTheLatchedCount : Obligations.LoopBodyRunsTheLatchedCount := by
  unfold Obligations.LoopBodyRunsTheLatchedCount
  intro s u ci c e imm t n hcan hend hnest hlen hop
  refine ⟨_, exec_loop_can ci c imm hcan hend hnest hlen hop, ?_⟩
  rw [State.modSett_self]
  change (n = 0 → (t.enterLoop ci c e.toNat n).pc = _ ∧ (t.enterLoop ci c e.toNat n).loops = _) ∧ _
  refine ⟨enterLoop_zero t ci c e.toNat, fun hn => ?_⟩
  obtain ⟨hpc, hloops⟩ := enterLoop_nonzero t ci c e.toNat hn
  have hpos : n.toNat - 1 + 1 = n.toNat := Nat.succ_pred fun h => hn (BitVec.eq_of_toNat_eq h)
  refine ⟨fun k hk => ?_, ?_⟩
  · obtain ⟨hfirst, hinside⟩ := passEnd_iterate hloops hpc k (Nat.le_pred_of_lt hk)
    exact ⟨hfirst, fun h => List.cons_ne_self _ _ (hinside.symm.trans h)⟩
  · rw [← hpos]
    exact passEnd_iterate_leave hloops hpc

end Sys2Proof.Machine
end

section
/-!
SUPPORT. Signal counters: what an increment, GO, a halt, a break and a module reset make of them, and the arrival of packets
(04 R110 to R114, R130; 01 R20, R26).
-/
namespace Sys2Proof.Machine

/-- An increment stops at 0xFFFF_FFFF. -/
theorem sigBump_toNat (v : Word) (k : Nat) : (sigBump v k).1.toNat = min 0xFFFFFFFF (v.toNat + k) := by
  unfold sigBump
  dsimp only
  split <;> (rw [BitVec.toNat_ofNat]; omega)

theorem sigBump_saturates (v : Word) (k : Nat) : (sigBump v k).2 = decide (0xFFFFFFFF < v.toNat + k) := by
  unfold sigBump
  dsimp only
  split
  next h => exact (decide_eq_true h).symm
  next h => exact (decide_eq_false h).symm

theorem sigAdd_sig_self (t : SettSt) (n : BitVec 5) (k : Nat) :
    (t.sigAdd n k).sig[n.toNat].toNat = min 0xFFFFFFFF (t.sig[n.toNat].toNat + k) := by
  rw [← sigBump_toNat]
  simp [SettSt.sigAdd]

theorem sigAdd_sig_other (t : SettSt) {n m : BitVec 5} (k : Nat) (h : m ≠ n) :
    (t.sigAdd n k).sig[m.toNat] = t.sig[m.toNat] := by
  have hne : n.toNat ≠ m.toNat := fun hnm => h (BitVec.eq_of_toNat_eq hnm.symm)
  simp [SettSt.sigAdd, hne]

theorem sigAdd_sticky (t : SettSt) (n : BitVec 5) (k : Nat) :
    (t.sigAdd n k).sticky = if 0xFFFFFFFF < t.sig[n.toNat].toNat + k then t.sticky ||| 0x2000 else t.sticky := by
  simp [SettSt.sigAdd, sigBump_saturates, stkSigSat]

@[simp] theorem go_sig (s : State) (u : SettId) : ((s.go u).sett u).sig = (s.sett u).sig := by
  rw [State.go, State.modSett_self]
  split <;> rfl

theorem exec_go_sig (s : State) (u : Sett) : ∃ t, exec (.go u) s = .next t ∧ (t.sett u).sig = (s.sett u).sig := by
  refine ⟨s.sqAct u (fun s => s.go u), rfl, ?_⟩
  unfold State.sqAct
  split
  · exact go_sig s u
  · rfl

@[simp] theorem haltSett_sig (s : State) (u : SettId) (status engine cause ix : Nat) (inj : Bool) :
    ((s.haltSett u status engine cause ix inj).sett u).sig = (s.sett u).sig := by
  by_cases h : (s.sett u).st = .halted
  · rw [haltSett_halted h]
  · obtain ⟨e, x, w, hhalt⟩ := haltSett_shape h status engine cause ix inj
    rw [hhalt]
    have hsett := State.modSett_self s u (fun t => t.haltAs status (haltWord status engine cause ix))
    exact (congrArg SettSt.sig hsett).trans rfl

@[simp] theorem takeBreak_sig (t : SettSt) (cause ix : Nat) : (t.takeBreak cause ix).sig = t.sig := rfl

/-- A module reset puts every sett at its reset value (18 R419). -/
@[simp] theorem moduleReset_sett (s : State) (cause : Nat) (u : SettId) : (s.moduleReset cause).sett u = SettSt.reset := by
  change (Vector.replicate 256 SettSt.reset)[u.val] = _
  exact Vector.getElem_replicate _

/-- The commands that reset the module, where one that has a condition finds it met (18 R416, R419, R420, R424; 19 R435). -/
theorem exec_reset_sett (s : State) (u : Sett) (i : Instr)
    (h : i ∈ [Instr.supplyReset, .overVoltageReset, .thermalTrip, .resetN true] ∨
      (i = .softwareReset ∧ s.pw.swDue = true) ∨ (i = .powerOnReset ∧ s.pw.lost = true)) :
    ∃ t, exec i s = .next t ∧ t.sett u = SettSt.reset := by
  simp only [List.mem_cons, List.not_mem_nil, or_false] at h
  rcases h with (rfl | rfl | rfl | rfl) | ⟨rfl, hdue⟩ | ⟨rfl, hlost⟩
  · exact ⟨_, rfl, moduleReset_sett s 1 u⟩
  · exact ⟨_, rfl, moduleReset_sett s 2 u⟩
  · exact ⟨_, rfl, moduleReset_sett s 3 u⟩
  · exact ⟨_, rfl, moduleReset_sett _ 4 u⟩
  · exact ⟨_, congrArg Host.Outcome.next (if_pos hdue), moduleReset_sett s 5 u⟩
  · exact ⟨_, congrArg Host.Outcome.next (if_pos hlost), moduleReset_sett s 0 u⟩

/-- An increment that reaches a sett which is not frozen is applied. -/
theorem sig_of_not_frozen {s : State} {u : SettId} (n : BitVec 5) {k : Nat} (src : Option SettId) (hk : k ≠ 0)
    (h : (s.sett u).freeze = none) : s.sig u n k src = s.modSett u (fun t => t.sigAdd n k) := by
  rw [State.sig, if_neg hk]
  apply modSett_congr
  simp only [SettSt.sigArrive, h]

/-- One that reaches a frozen sett waits for the end of the freeze (04 R110). -/
theorem sig_of_frozen {s : State} {u : SettId} (n : BitVec 5) {k : Nat} (src : Option SettId) (hk : k ≠ 0)
    (h : (s.sett u).freeze ≠ none) :
    s.sig u n k src = s.modSett u (fun t => { t with lateSig := t.lateSig ++ [(n, k, src)] }) := by
  obtain ⟨f, hf⟩ := Option.ne_none_iff_exists'.mp h
  rw [State.sig, if_neg hk]
  apply modSett_congr
  simp only [SettSt.sigArrive, hf]

/-- The packets that a TRESTLE_SIGNAL_PACKET may deliver: on their way to the sett, with its counter and increment, and first in
the order of their sender. -/
def State.arrivable (s : State) (u : Sett) (sg : BitVec 5) (inc : BitVec 16) (p : Pkt) : Bool :=
  p.dst == u && p.sg == sg && p.inc == inc && s.trFirst p.src u p.ord

theorem exec_packet_found {s : State} {u : Sett} {sg : BitVec 5} {inc : BitVec 16} {p : Pkt}
    (h : s.pkts.find? (s.arrivable u sg inc) = some p) :
    exec (.trestleSignalPacket u sg inc) s =
      .next ({ s with pkts := s.pkts.erase p }.sig u sg inc.toNat (some p.src)) := by
  change execTrestleSignalPacket u sg inc s = _
  unfold State.arrivable at h
  simp only [execTrestleSignalPacket, h]

theorem exec_packet_none {s : State} {u : Sett} {sg : BitVec 5} {inc : BitVec 16}
    (h : s.pkts.find? (s.arrivable u sg inc) = none) : exec (.trestleSignalPacket u sg inc) s = .next s := by
  change execTrestleSignalPacket u sg inc s = _
  unfold State.arrivable at h
  simp only [execTrestleSignalPacket, h]

/-- An item is first on its way where no packet and no multicast copy of its sender to the sett is older (01 R20). -/
theorem trFirst_iff (s : State) (v u : SettId) (ord : Nat) : s.trFirst v u ord = true ↔
    (∀ p ∈ s.pkts, p.src = v → p.dst = u → ord ≤ p.ord) ∧ (∀ m ∈ s.mcast, m.iss = v → m.mem = u → ord ≤ m.ord) := by
  simp [State.trFirst, or_assoc, imp_iff_not_or]

/-- Settles O13: the counters are kept or reset by each operation, and a packet that arrives is an increment that reaches its sett. -/
theorem signalCountersCountAndLast : Obligations.SignalCountersCountAndLast := by
  unfold Obligations.SignalCountersCountAndLast
  refine ⟨⟨fun t n k => ⟨sigAdd_sig_self t n k, fun m hm => sigAdd_sig_other t k hm, sigAdd_sticky t n k⟩,
    exec_go_sig, haltSett_sig, takeBreak_sig, fun s u i hi => ?_⟩, fun s u sg inc hinc => ⟨fun p hp => ?_, ?_, ?_⟩⟩
  · obtain ⟨t, ht, hsett⟩ := exec_reset_sett s u i hi
    exact ⟨t, ht, by rw [hsett]; rfl⟩
  · have hpos : inc.toNat ≠ 0 := fun h => hinc (BitVec.eq_of_toNat_eq h)
    rw [exec_packet_found hp]
    exact ⟨fun hfree => congrArg _ (sig_of_not_frozen sg _ hpos hfree), fun hfrozen => congrArg _ (sig_of_frozen sg _ hpos hfrozen)⟩
  · exact exec_packet_none
  · exact fun v ord => trFirst_iff s v u ord

end Sys2Proof.Machine
end

section
/-!
SUPPORT. Injection points: the register a point is armed by, what arming and disarming make of it (17 R412, R413).
-/
namespace Sys2Proof.Machine

/-! Bits of a register. -/

/-- Fields agree where their bits do. -/
theorem fieldOf_congr {v w : Word} {hi lo : Nat} (h : ∀ i, lo ≤ i → i ≤ hi → Word.bit v i = Word.bit w i) :
    fieldOf v hi lo = fieldOf w hi lo := by
  apply Nat.eq_of_testBit_eq
  intro i
  simp only [fieldOf, bitsOf, Nat.testBit_mod_two_pow, Nat.testBit_shiftRight]
  by_cases hi' : i < hi + 1 - lo
  · have hbit : v.toNat.testBit (lo + i) = w.toNat.testBit (lo + i) := h (lo + i) (by omega) (by omega)
    rw [hbit]
  · simp [hi']

theorem State.bit_putBit (s : State) (b : Blk) (o : Nat) (v : Bool) {i j : Nat} (hj : j < 32) :
    Word.bit ((s.putBit b o i v).reg b o) j = if j = i then v else Word.bit (s.reg b o) j := by
  have hmask : (BitVec.ofNat 32 (2 ^ i)).getLsbD j = decide (j = i) := by
    rw [BitVec.getLsbD_ofNat, Nat.testBit_two_pow, decide_eq_true hj, Bool.true_and]
    exact decide_eq_decide.mpr eq_comm
  rw [State.putBit, State.reg_setReg]
  cases v with
  | false =>
    rw [if_neg Bool.false_ne_true, Word.bit, BitVec.getLsbD_and, BitVec.getLsbD_not, hmask]
    by_cases hji : j = i <;> simp [Word.bit, hj, hji]
  | true =>
    rw [if_pos rfl, Word.bit, BitVec.getLsbD_or, hmask]
    by_cases hji : j = i <;> simp [Word.bit, hji]

/-! Writes to plain registers that are not staged. -/

/-- Distinct registers of a block have distinct keys. -/
theorem Blk.key_inj {b : Blk} {o p : Nat} (h : b.key o = b.key p) : o = p := by
  unfold Blk.key at h
  omega

/-- A plain write touches one register: each other keeps its active copy. -/
theorem State.reg_plainWrite_ne (s : State) {b : Blk} {o p : Nat} (v : Word) (h : p ≠ o) :
    (s.plainWrite b o v).reg b p = s.reg b p := by
  have hkey : b.key p ≠ b.key o := fun hk => h (Blk.key_inj hk)
  unfold State.plainWrite
  split
  · rfl
  · split
    · exact State.reg_setReg_ne _ _ hkey
    · exact State.reg_setReg_ne _ _ hkey

/-- A plain write gives a register that is not staged and has no W1C bits its RW bits. -/
theorem State.bit_plainWrite (s : State) {b : Blk} {o : Nat} {r : RegRow} (v : Word) (hrow : findRow o b.rows = some r)
    (hw1c : r.w1c = 0) (hst : b.staged o = false) {i : Nat} (hrw : Word.bit (BitVec.ofNat 32 r.rw) i = true) :
    Word.bit ((s.plainWrite b o v).reg b o) i = Word.bit v i := by
  have hreg : (s.plainWrite b o v).reg b o =
      ((s.reg b o &&& ~~~ BitVec.ofNat 32 r.rw) ||| (v &&& BitVec.ofNat 32 r.rw)) &&& ~~~(v &&& BitVec.ofNat 32 r.w1c) := by
    simp only [State.plainWrite, hrow, hst]
    exact State.reg_setReg s b o _
  have hi : i < 32 := BitVec.lt_of_getLsbD hrw
  simp only [Word.bit] at hrw ⊢
  rw [hreg, hw1c]
  simp only [BitVec.getLsbD_and, BitVec.getLsbD_or, BitVec.getLsbD_not, BitVec.getLsbD_zero, hrw, hi]
  simp

/-- A plain write changes register copies alone. -/
theorem State.plainWrite_shape (s : State) (b : Blk) (o : Nat) (v : Word) : ∃ r, s.plainWrite b o v = { s with regs := r } := by
  unfold State.plainWrite
  split
  · exact ⟨_, rfl⟩
  · dsimp only
    split
    · exact ⟨_, rfl⟩
    · exact ⟨_, rfl⟩

/-! INJ_CTL, the register that arms a point (17 Table 17-11). -/

/-- Unit offset of INJ_CTL of point p. -/
def injCtlOff (p : Nat) : Nat := 0x100 + 16 * p

/-- Row of the INJ_CTL registers of n points from point p on. -/
def injCtlRow (p n : Nat) : RegRow := .cfg (injCtlOff p) 0xE0FFFFFF 0 n 16

/-- A row that ends before an offset does not hold it. -/
theorem findRow_cons_of_beyond {o : Nat} {r : RegRow} (rs : List RegRow) (h : r.n ≤ (o - r.off) / r.stride) :
    findRow o (r :: rs) = findRow o rs := by
  simp [findRow, Nat.not_lt.mpr h]

/-- The rows of some points hold INJ_CTL of those points and of no other. -/
theorem findRow_injPoints (p n q : Nat) (rs : List RegRow) :
    findRow (injCtlOff q) (injPoints p n ++ rs) =
      if p ≤ q ∧ q < p + n then some (injCtlRow p n) else findRow (injCtlOff q) rs := by
  simp only [injPoints, List.cons_append, List.nil_append, findRow, RegRow.cfg, RegRow.stat, injCtlRow, injCtlOff,
    Bool.and_eq_true, decide_eq_true_eq, beq_iff_eq]
  by_cases h : p ≤ q ∧ q < p + n
  · rw [if_pos (by omega), if_pos h]
  · rw [if_neg (by omega), if_neg (by omega), if_neg (by omega), if_neg (by omega), if_neg h]

/-- The points of Tables 17-10 and 18-8, by the kind of their block. -/
theorem Blk.hasPoint_iff (b : Blk) (p : Nat) : b.hasPoint p = true ↔
    (∃ u, b = .injS u) ∧ p < 6 ∨ (∃ d, b = .injD d) ∧ p < 8 ∨ b = .injX ∧ (p < 11 ∨ 16 ≤ p ∧ p < 22) := by
  have hX : Blk.injX.hasPoint p = true ↔ p < 11 ∨ 16 ≤ p ∧ p < 22 := by
    change (decide (p < 11) || decide (16 ≤ p) && decide (p < 22)) = true ↔ _
    simp only [Bool.or_eq_true, Bool.and_eq_true, decide_eq_true_eq]
  constructor
  · intro h
    cases b
    case injS u => exact .inl ⟨⟨u, rfl⟩, of_decide_eq_true h⟩
    case injD d => exact .inr (.inl ⟨⟨d, rfl⟩, of_decide_eq_true h⟩)
    case injX => exact .inr (.inr ⟨rfl, hX.mp h⟩)
    all_goals exact absurd h Bool.false_ne_true
  · rintro (⟨⟨u, rfl⟩, hp⟩ | ⟨⟨d, rfl⟩, hp⟩ | ⟨rfl, hp⟩)
    · exact decide_eq_true hp
    · exact decide_eq_true hp
    · exact hX.mpr hp

/-- A point that a block has, has an INJ_CTL. -/
theorem findRow_injCtl {b : Blk} {p : Nat} (h : b.hasPoint p = true) :
    ∃ q n, findRow (injCtlOff p) b.rows = some (injCtlRow q n) := by
  rw [Blk.hasPoint_iff] at h
  rcases h with ⟨⟨u, rfl⟩, hp⟩ | ⟨⟨d, rfl⟩, hp⟩ | ⟨rfl, hp⟩
  · have hrow := findRow_injPoints 0 6 p []
    rw [List.append_nil, if_pos (by omega)] at hrow
    exact ⟨0, 6, hrow⟩
  · have hrow := findRow_injPoints 0 8 p []
    rw [List.append_nil, if_pos (by omega)] at hrow
    exact ⟨0, 8, hrow⟩
  · have hglobal : findRow (injCtlOff p) Blk.injX.rows = findRow (injCtlOff p) (injPoints 0 11 ++ injPoints 16 6) :=
      findRow_cons_of_beyond _ (show 1 ≤ (0x100 + 16 * p - 0) / 4 by omega)
    rcases hp with hp | hp
    · rw [hglobal, findRow_injPoints, if_pos (by omega)]
      exact ⟨0, 11, rfl⟩
    · have hrow := findRow_injPoints 16 6 p []
      rw [List.append_nil, if_pos (by omega)] at hrow
      rw [hglobal, findRow_injPoints, if_neg (by omega), hrow]
      exact ⟨16, 6, rfl⟩

/-- A block that has points is not staged. -/
theorem staged_of_hasPoint {b : Blk} {p : Nat} (h : b.hasPoint p = true) (o : Nat) : b.staged o = false := by
  rw [Blk.hasPoint_iff] at h
  rcases h with ⟨⟨u, rfl⟩, -⟩ | ⟨⟨d, rfl⟩, -⟩ | ⟨rfl, -⟩ <;> rfl

theorem resetOf_injCtl {b : Blk} {p : Nat} (h : b.hasPoint p = true) : b.resetOf (injCtlOff p) = 0 := by
  obtain ⟨q, n, hrow⟩ := findRow_injCtl h
  simp only [Blk.resetOf, hrow]
  rfl

theorem Blk.key_injCtl (b : Blk) {p : Nat} (hp : p < 32) : b.key (injCtlOff p) = b.base + (0x100 + 16 * p) := by
  simp only [Blk.key, injCtlOff]
  omega

/-- Disarming knows INJ_CTL of every point by its key. -/
theorem isInjCtl_key {b : Blk} {p : Nat} (h : b.hasPoint p = true) : isInjCtl (b.key (injCtlOff p)) = true := by
  rw [Blk.hasPoint_iff] at h
  rw [Blk.key_injCtl b (by omega)]
  rcases h with ⟨⟨u, rfl⟩, hp⟩ | ⟨⟨d, rfl⟩, hp⟩ | ⟨rfl, hp⟩
  · have hbase : (Blk.injS u).base = 0x80000000 + u.val / 128 * 0x40000000 + u.val % 128 * 0x800000 + 0x1C000 := rfl
    rw [hbase]
    simp only [isInjCtl, Bool.and_eq_true, decide_eq_true_eq]
    rw [if_pos (by omega)]
    simp only [Bool.and_eq_true, decide_eq_true_eq, beq_iff_eq]
    omega
  · have hbase : (Blk.injD d).base = 0x01000000 + d.val * 0x100000 + 0x14000 := rfl
    rw [hbase]
    simp only [isInjCtl, Bool.and_eq_true, decide_eq_true_eq]
    rw [if_neg (by omega), if_pos (by omega)]
    simp only [Bool.and_eq_true, decide_eq_true_eq, beq_iff_eq]
    omega
  · have hbase : Blk.injX.base = 0x24000 := rfl
    rw [hbase]
    simp only [isInjCtl, Bool.and_eq_true, decide_eq_true_eq]
    rw [if_neg (by omega), if_neg (by omega)]
    simp only [Bool.and_eq_true, decide_eq_true_eq, beq_iff_eq]
    omega

/-! A write to INJ_CTL (17 R413). -/

/-- ARMED follows the EN written. -/
theorem State.reg_injCtl (s : State) (b : Blk) (o : Nat) (v : Word) :
    (s.injCtl b o v).reg = ((s.plainWrite b o v).putBit b o 28 (Word.bit v 31)).reg := by
  cases h : Word.bit v 31 <;> simp only [State.injCtl, h] <;> rfl

/-- A write to INJ_CTL changes register copies and the counts of opportunities alone. -/
theorem State.injCtl_shape (s : State) (b : Blk) (o : Nat) (v : Word) :
    ∃ r c, s.injCtl b o v = { s with regs := r, inj := c } := by
  obtain ⟨r, hplain⟩ := s.plainWrite_shape b o v
  rw [State.injCtl, hplain]
  split
  · exact ⟨_, _, rfl⟩
  · exact ⟨_, _, rfl⟩

theorem State.injCtl_setts (s : State) (b : Blk) (o : Nat) (v : Word) : (s.injCtl b o v).setts = s.setts := by
  obtain ⟨r, c, h⟩ := s.injCtl_shape b o v
  rw [h]

theorem State.injCtl_hbm (s : State) (b : Blk) (o : Nat) (v : Word) : (s.injCtl b o v).hbm = s.hbm := by
  obtain ⟨r, c, h⟩ := s.injCtl_shape b o v
  rw [h]

/-- A write with EN starts the count of the opportunities to skip from the point's delay register. -/
theorem State.injCtl_armed (s : State) (b : Blk) (o : Nat) {v : Word} (h : Word.bit v 31 = true) :
    Tbl.find (s.injCtl b o v).inj (b.key o) = some (s.reg b (o + 4)).toNat := by
  rw [← s.reg_plainWrite_ne (b := b) v (show o + 4 ≠ o by omega), State.injCtl, if_pos h]
  exact Tbl.find_put_same _ _ _

/-- A write without EN forgets the count. -/
theorem State.injCtl_disarmed (s : State) (b : Blk) (o : Nat) {v : Word} (h : Word.bit v 31 = false) :
    Tbl.find (s.injCtl b o v).inj (b.key o) = none := by
  rw [State.injCtl, if_neg (by simp [h])]
  exact Tbl.find_drop_same _ _

theorem State.bit_injCtl_armed (s : State) (b : Blk) (o : Nat) (v : Word) :
    Word.bit ((s.injCtl b o v).reg b o) 28 = Word.bit v 31 := by
  rw [State.reg_injCtl, State.bit_putBit _ _ _ _ (by decide), if_pos rfl]

/-- INJ_CTL of a point takes its RW bits as written. -/
theorem State.bit_injCtl (s : State) {b : Blk} {p : Nat} (v : Word) (h : b.hasPoint p = true) {i : Nat}
    (hrw : Word.bit 0xE0FFFFFF i = true) :
    Word.bit ((s.injCtl b (injCtlOff p) v).reg b (injCtlOff p)) i = Word.bit v i := by
  obtain ⟨q, n, hrow⟩ := findRow_injCtl h
  have hi : i < 32 := BitVec.lt_of_getLsbD hrw
  have hne : i ≠ 28 := fun h28 => absurd (h28 ▸ hrw) (by decide)
  rw [State.reg_injCtl, State.bit_putBit _ _ _ _ hi, if_neg hne]
  exact s.bit_plainWrite v hrow rfl (staged_of_hasPoint h _) hrw

theorem State.sel_injCtl (s : State) {b : Blk} {p : Nat} (v : Word) (h : b.hasPoint p = true) :
    fieldOf ((s.injCtl b (injCtlOff p) v).reg b (injCtlOff p)) 23 0 = fieldOf v 23 0 := by
  have hmask : ∀ i < 24, Word.bit 0xE0FFFFFF i = true := by decide
  exact fieldOf_congr fun i _ hi => s.bit_injCtl v h (hmask i (by omega))

/-- A write to INJ_CTL reaches a point that its block has, unless the block's sett is frozen. -/
theorem exec_injCtl {s : State} {a : BitVec 48} {p : Fin 32} (v : BitVec 32) {b : Blk} {o k : Nat}
    (ht : regTarget a.toNat = some (b, o, k)) (hp : b.hasPoint p.val = true)
    (hfree : ∀ u, b.sett? = some u → (s.sett u).freeze = none) :
    exec (.injCtl a p v) s = .next (s.injCtl b (injCtlOff p.val) v) := by
  have hthaw : ((b.sett?.map (fun u => (s.sett u).freeze)).getD none).isNone = true := by
    cases hu : b.sett? with
    | none => rfl
    | some u => simp [hfree u hu]
  change execInjCtl a p v s = _
  simp only [execInjCtl, ht, hp, hthaw]
  rfl

theorem exec_injCtl_noTarget {s : State} {a : BitVec 48} (p : Fin 32) (v : BitVec 32) (ht : regTarget a.toNat = none) :
    exec (.injCtl a p v) s = .next s := by
  change execInjCtl a p v s = _
  simp only [execInjCtl, ht]

/-- A write to a point that is not listed does nothing. -/
theorem exec_injCtl_noPoint {s : State} {a : BitVec 48} {p : Fin 32} (v : BitVec 32) {b : Blk} {o k : Nat}
    (ht : regTarget a.toNat = some (b, o, k)) (hp : b.hasPoint p.val = false) : exec (.injCtl a p v) s = .next s := by
  change execInjCtl a p v s = _
  simp only [execInjCtl, ht, hp]
  rfl

/-! Disarming (17 R412). -/

/-- The entries of a register table once the points of which `p` holds are disarmed. -/
def disarmed (p : Nat → Bool) (t : Tbl Word) : Tbl Word :=
  (t.map (fun e => if isInjCtl e.1 && p e.1 then (e.1, e.2 &&& 0x6FFFFFFF) else e)).filter (fun e => !(isInjCtl e.1 && e.2 == 0))

theorem State.disarm_act (s : State) (p : Nat → Bool) : (s.disarm p).regs.act = disarmed p s.regs.act := rfl

theorem Tbl.mem_of_find {α : Type} {t : Tbl α} {k : Nat} {v : α} (h : Tbl.find t k = some v) : (k, v) ∈ t := by
  induction t with
  | nil => cases h
  | cons e t ih =>
    obtain ⟨a, w⟩ := e
    simp only [Tbl.find] at h
    split at h
    next hk => cases h; rw [hk]; exact List.mem_cons_self
    next => exact List.mem_cons_of_mem _ (ih h)

/-- A value that a disarmed point's INJ_CTL still holds has neither EN nor ARMED. -/
theorem find_disarmed {p : Nat → Bool} {t : Tbl Word} {k : Nat} {v : Word} (hk : isInjCtl k = true) (hp : p k = true)
    (h : Tbl.find (disarmed p t) k = some v) : Word.bit v 31 = false ∧ Word.bit v 28 = false := by
  obtain ⟨e, -, he⟩ := List.mem_map.mp (List.mem_filter.mp (Tbl.mem_of_find h)).1
  have hv : v = e.2 &&& 0x6FFFFFFF := by
    split at he
    next => rw [Prod.mk.injEq] at he; exact he.2.symm
    next hn => subst he; exact absurd (by rw [hk, hp]; rfl) hn
  rw [hv]
  simp [Word.bit]

/-- Disarming leaves every register but INJ_CTL as it was. -/
theorem find_disarmed_other (p : Nat → Bool) (t : Tbl Word) {k : Nat} (hk : isInjCtl k = false) :
    Tbl.find (disarmed p t) k = Tbl.find t k := by
  induction t with
  | nil => rfl
  | cons e t ih =>
    obtain ⟨a, v⟩ := e
    cases ha : isInjCtl a with
    | false =>
      have hkeep : disarmed p ((a, v) :: t) = (a, v) :: disarmed p t := by simp [disarmed, ha]
      rw [hkeep, Tbl.find, Tbl.find, ih]
    | true =>
      have hne : k ≠ a := fun hka => by rw [hka, ha] at hk; cases hk
      have htail : disarmed p ((a, v) :: t) = disarmed p t ∨ ∃ w, disarmed p ((a, v) :: t) = (a, w) :: disarmed p t := by
        simp only [disarmed, List.map_cons, List.filter_cons, ha, Bool.true_and]
        split <;> split
        · exact .inr ⟨_, rfl⟩
        · exact .inl rfl
        · exact .inr ⟨_, rfl⟩
        · exact .inl rfl
      rw [Tbl.find, if_neg hne, ← ih]
      rcases htail with htail | ⟨w, htail⟩ <;> rw [htail]
      rw [Tbl.find, if_neg hne]

/-- A point that is disarmed has neither EN nor ARMED. -/
theorem State.bits_disarm (s : State) {q : Nat → Bool} {b : Blk} {p : Nat} (h : b.hasPoint p = true)
    (hq : q (b.key (injCtlOff p)) = true) :
    Word.bit ((s.disarm q).reg b (injCtlOff p)) 31 = false ∧ Word.bit ((s.disarm q).reg b (injCtlOff p)) 28 = false := by
  simp only [State.reg, RegFile.get, Tbl.get, State.disarm_act, resetOf_injCtl h]
  cases hf : Tbl.find (disarmed q s.regs.act) (b.key (injCtlOff p)) with
  | none => exact ⟨rfl, rfl⟩
  | some v => exact find_disarmed (isInjCtl_key h) hq hf

theorem State.reg_disarm_other (s : State) (q : Nat → Bool) {b : Blk} {o : Nat} (h : isInjCtl (b.key o) = false) :
    (s.disarm q).reg b o = s.reg b o := by
  simp only [State.reg, RegFile.get, Tbl.get, State.disarm_act, find_disarmed_other q _ h]

theorem State.disarm_all_inj (s : State) : (s.disarm (fun _ => true)).inj = [] := by
  simp [State.disarm]

/-! INJ_GLOBAL.ALLOW (17 R412, 18 R430). -/

/-- While ALLOW is 0 no opportunity of any point fires or counts. -/
theorem injStep_not_allowed {s : State} (h : (s.reg .injX 0).toNat % 2 = 0) (b : Blk) (p : Nat) (sel : Nat → Bool) (k : Nat) :
    s.injStep b p sel k = (none, s) := by
  simp [State.injStep, h]

/-- A measurement changes the security block alone, and not whether injection was ever permitted. -/
theorem extend_shape (s : State) (t svn : Nat) (d : List Byte) :
    ∃ f, s.extend t svn d = s.modSc f ∧ (f s.sc).injEver = s.sc.injEver := by
  unfold State.extend
  split
  · exact ⟨_, rfl, rfl⟩
  · exact ⟨_, rfl, rfl⟩

/-- While the log has room a measurement appends its entry. -/
theorem extend_log {s : State} (h : s.sc.log.length < 256) (t svn : Nat) (d : List Byte) :
    (s.extend t svn d).sc.log = s.sc.log ++ [⟨t, svn, s.cycle, d⟩] := by
  rw [State.extend, if_neg (Nat.not_le.mpr h)]
  rfl

theorem injAllow_refused {s : State} (h : s.injOk = false) : s.injAllow true = s := by
  simp [State.injAllow, h]

/-- Once injection has been permitted, permitting it again sets ALLOW and nothing else. -/
theorem injAllow_again {s : State} (hok : s.injOk = true) (hever : s.sc.injEver = true) :
    s.injAllow true = s.setReg .injX 0 1 := by
  simp [State.injAllow, hok, hever]

/-- ALLOW set, and that injection has been permitted remembered. -/
def State.firstAllow (s : State) : State := (s.setReg .injX 0 1).modSc (fun c => { c with injEver := true })

/-- The first time that injection is permitted is measured (18 R430). -/
theorem injAllow_first {s : State} (hok : s.injOk = true) (hever : s.sc.injEver = false) :
    s.injAllow true = s.firstAllow.extend 5 0 (List.replicate 64 0) := by
  simp [State.injAllow, hok, hever, State.firstAllow]

theorem injAllow_clear (s : State) : s.injAllow false = (s.setReg .injX 0 0).disarm (fun _ => true) := rfl

/-- A write of 1 to ALLOW that the policy permits. -/
theorem exec_allow_permitted {s : State} (hok : s.injOk = true) :
    ∃ t, exec (.injGlobalAllow true) s = .next t ∧ t.reg .injX 0 = 1 ∧ t.sc.injEver = true ∧ t.inj = s.inj ∧
      t.setts = s.setts ∧ (s.sc.injEver = true → t.sc = s.sc) ∧
      (s.sc.injEver = false → s.sc.log.length < 256 → ∃ e : MeasEnt, t.sc.log = s.sc.log ++ [e] ∧ e.type = 5) := by
  have hset : (s.setReg .injX 0 1).reg .injX 0 = 1 := State.reg_setReg s .injX 0 1
  refine ⟨s.injAllow true, rfl, ?_⟩
  cases hever : s.sc.injEver with
  | true =>
    rw [injAllow_again hok hever]
    exact ⟨hset, hever, rfl, rfl, fun _ => rfl, fun h => absurd h.symm Bool.false_ne_true⟩
  | false =>
    rw [injAllow_first hok hever]
    have hlog := extend_log (s := s.firstAllow)
    obtain ⟨f, hf, hfever⟩ := extend_shape s.firstAllow 5 0 (List.replicate 64 0)
    refine ⟨?_, ?_, ?_, ?_, fun h => absurd h Bool.false_ne_true, fun _ hroom => ⟨_, hlog hroom _ _ _, rfl⟩⟩
    · rw [hf]; exact hset
    · rw [hf]; exact hfever
    · rw [hf]; rfl
    · rw [hf]; rfl

/-- A write of 0 to ALLOW disarms every point of the module. -/
theorem exec_allow_clear (s : State) :
    ∃ t, exec (.injGlobalAllow false) s = .next t ∧ t.reg .injX 0 = 0 ∧ t.inj = [] ∧ t.setts = s.setts ∧ t.sc = s.sc ∧
      ∀ (b : Blk) (p : Nat), b.hasPoint p = true →
        Word.bit (t.reg b (injCtlOff p)) 31 = false ∧ Word.bit (t.reg b (injCtlOff p)) 28 = false := by
  refine ⟨s.injAllow false, rfl, ?_⟩
  rw [injAllow_clear]
  refine ⟨?_, State.disarm_all_inj _, rfl, rfl, fun b p hp => State.bits_disarm _ hp rfl⟩
  rw [State.reg_disarm_other _ _ (by decide)]
  exact State.reg_setReg s .injX 0 0

/-- Settles O60: a point acts only under ALLOW, which the policy guards; INJ_CTL arms from the values written, and clearing ALLOW
reaches the INJ_CTL of every point that a block has. -/
theorem injectionActsOnlyWhileAllowed : Obligations.InjectionActsOnlyWhileAllowed := by
  unfold Obligations.InjectionActsOnlyWhileAllowed
  intro s
  refine ⟨fun b p sel k h => injStep_not_allowed h b p sel k, fun h => congrArg Host.Outcome.next (injAllow_refused h),
    exec_allow_permitted, ?_, fun a p v => ⟨exec_injCtl_noTarget p v, fun b o k ht hp => exec_injCtl_noPoint v ht hp,
      fun b o k ht hp hfree => ?_⟩⟩
  · obtain ⟨t, hexec, hallow, hinj, hsetts, hsc, hbits⟩ := exec_allow_clear s
    exact ⟨t, hexec, hallow, hinj, hsetts, hsc, fun b p hp => hbits b p ((b.hasPoint_iff p).mpr hp)⟩
  · have hbit := fun i => s.bit_injCtl v hp (i := i)
    exact ⟨s.injCtl b (injCtlOff p.val) v, exec_injCtl v ht hp hfree, s.injCtl_setts b _ v, s.injCtl_hbm b _ v,
      hbit 31 rfl, s.bit_injCtl_armed b _ v, s.sel_injCtl v hp, hbit 30 rfl, hbit 29 rfl,
      s.injCtl_armed b _, s.injCtl_disarmed b _⟩

end Sys2Proof.Machine
end
